-- ==== Sys2Proof/Word.lean ====
section
/-! DEFINITION. The word types of the BX7 (R2) and the list of a value's bytes. -/
namespace Sys2Proof

abbrev Byte := BitVec 8
abbrev Word := BitVec 32
abbrev Word64 := BitVec 64

/-- A set of lanes of a group: bit l for lane l (R161). -/
abbrev Lanes := BitVec 64

end Sys2Proof
end

