-- ==== Sys2Proof/Syntax.lean ====
section
/-! DEFINITION. The instructions and events of the BX7: one constructor of `Instr` for each row of the opcode table. -/
namespace Sys2Proof

/-- The modifier word of VR3 (R70): `rnd` is `sat` and the mode (R36), three swizzles (R77) and the code of C. -/
structure Mod where
  rnd : BitVec 3
  swzC : BitVec 6
  swzB : BitVec 6
  swzA : BitVec 6
  codeC : BitVec 7
  deriving DecidableEq, Repr, Inhabited

/-- Both words of a MEM instruction (R69, R71): record field, data and index codes, `mod`, and the extension word. -/
structure MemWord where
  k : BitVec 4
  data : BitVec 7
  index : BitVec 7
  mod : BitVec 6
  ord : BitVec 4
  pol : BitVec 4
  off : BitVec 24
  deriving DecidableEq, Repr, Inhabited

/-- The extension word of MLOOP (R89). -/
structure LoopExt where
  anchor : BitVec 10
  anc : Bool
  two : Bool
  planes : BitVec 4
  kb : BitVec 4
  deriving DecidableEq, Repr, Inhabited

/-- A frame of a rein (R349, R353): 64 bytes of flit and 8 bytes of side band. -/
structure Frame where
  flit : BitVec 512
  side : BitVec 64
  deriving DecidableEq, Repr, Inhabited

/-- One access of the host through the host port (R120): to host memory, to device and extended memory under the key of
context `cx` (none: the unencrypted path of the object tables, R26), or a read of a register of the BAR (R5). -/
inductive HostAccess where
  | writeHost (addr : Nat) (bytes : List Byte)
  | readHost (addr n : Nat)
  | writeDev (cx : Option Nat) (addr : Nat) (bytes : List Byte)
  | readDev (cx : Option Nat) (addr n : Nat)
  | readReg (off : Nat)
  deriving DecidableEq, Repr, Inhabited

/-- A PLDM Type 5 update (R399): a patch bundle and a configuration record, each with the outcome of the two
signature checks of R129 and R398 (an input: the signatures are made outside the device). -/
structure Update where
  bundle : Option (List (BitVec 128))
  bundleSigned : Bool
  record : Option (BitVec 2048)
  recordSigned : Bool
  deriving DecidableEq, Repr, Inhabited

/-- One constructor for each row of the opcode table. A Caell or rein word carries its fields as encoded
(R80-R89, R378-R387); an event carries what happens to the device. -/
inductive Instr where
  | smov (d : BitVec 7) (b : BitVec 7) (lit : Option Word)
  | sadd (d : BitVec 7) (a : BitVec 7) (b : BitVec 7) (lit : Option Word)
  | ssub (d : BitVec 7) (a : BitVec 7) (b : BitVec 7) (lit : Option Word)
  | smul (d : BitVec 7) (a : BitVec 7) (b : BitVec 7) (lit : Option Word)
  | smulh (d : BitVec 7) (a : BitVec 7) (b : BitVec 7) (lit : Option Word)
  | smulhu (d : BitVec 7) (a : BitVec 7) (b : BitVec 7) (lit : Option Word)
  | sdivu (d : BitVec 7) (a : BitVec 7) (b : BitVec 7) (lit : Option Word)
  | sremu (d : BitVec 7) (a : BitVec 7) (b : BitVec 7) (lit : Option Word)
  | sand (d : BitVec 7) (a : BitVec 7) (b : BitVec 7) (lit : Option Word)
  | sor (d : BitVec 7) (a : BitVec 7) (b : BitVec 7) (lit : Option Word)
  | sxor (d : BitVec 7) (a : BitVec 7) (b : BitVec 7) (lit : Option Word)
  | snot (d : BitVec 7) (a : BitVec 7)
  | sshl (d : BitVec 7) (a : BitVec 7) (b : BitVec 7) (lit : Option Word)
  | sshr (d : BitVec 7) (a : BitVec 7) (b : BitVec 7) (lit : Option Word)
  | ssar (d : BitVec 7) (a : BitVec 7) (b : BitVec 7) (lit : Option Word)
  | sclz (d : BitVec 7) (a : BitVec 7)
  | smin (d : BitVec 7) (a : BitVec 7) (b : BitVec 7) (lit : Option Word)
  | smax (d : BitVec 7) (a : BitVec 7) (b : BitVec 7) (lit : Option Word)
  | sminu (d : BitVec 7) (a : BitVec 7) (b : BitVec 7) (lit : Option Word)
  | smaxu (d : BitVec 7) (a : BitVec 7) (b : BitVec 7) (lit : Option Word)
  | ssel (d : BitVec 7) (a : BitVec 7) (b : BitVec 7) (lit : Option Word)
  | spopc (d : BitVec 7) (a : BitVec 7)
  | sbfx (d : BitVec 7) (a : BitVec 7) (b : BitVec 7) (lit : Option Word)
  | sbfi (d : BitVec 7) (a : BitVec 7) (b : BitVec 7) (lit : Option Word)
  | scmp (c : BitVec 3) (d : BitVec 7) (a : BitVec 7) (b : BitVec 7) (lit : Option Word)
  | smovi (d : BitVec 7) (i : BitVec 17)
  | slui (d : BitVec 7) (i : BitVec 17)
  | saddi (d : BitVec 7) (a : BitVec 7) (i : BitVec 10)
  | sandi (d : BitVec 7) (a : BitVec 7) (i : BitVec 10)
  | sori (d : BitVec 7) (a : BitVec 7) (i : BitVec 10)
  | sxori (d : BitVec 7) (a : BitVec 7) (i : BitVec 10)
  | scmpi (c : BitVec 3) (d : BitVec 7) (a : BitVec 7) (i : BitVec 10)
  | mmov (d : BitVec 4) (a : BitVec 4)
  | mand (d : BitVec 4) (a : BitVec 4) (b : BitVec 4)
  | mor (d : BitVec 4) (a : BitVec 4) (b : BitVec 4)
  | mxor (d : BitVec 4) (a : BitVec 4) (b : BitVec 4)
  | mnot (d : BitVec 4) (a : BitVec 4)
  | mpopc (d : BitVec 7) (a : BitVec 4)
  | mffs (d : BitVec 7) (a : BitVec 4)
  | mtos (d : BitVec 7) (a : BitVec 4)
  | mfroms (d : BitVec 4) (a : BitVec 7) (b : BitVec 7)
  | exmrd (d : BitVec 4)
  | exmwr (a : BitVec 4)
  | srd (d : BitVec 7) (n : BitVec 7)
  | swr (n : BitVec 7) (a : BitVec 7)
  | bra (o : BitVec 17)
  | brc (r : BitVec 7) (o : BitVec 17)
  | brcZ (r : BitVec 7) (o : BitVec 17)
  | brv (j : BitVec 3) (m : BitVec 4) (o : BitVec 17)
  | join (j : BitVec 3)
  | call (r : BitVec 7) (o : BitVec 17)
  | ret (r : BitVec 7)
  | winV (n : BitVec 17)
  | winS (n : BitVec 17)
  | syncf (f : BitVec 12)
  | yieldW
  | exit
  | nop
  | brk (c : BitVec 16)
  | trap (c : BitVec 16)
  | rft
  | vmov (d : BitVec 7) (a : BitVec 7) (m : Option Mod)
  | vbcast (d : BitVec 7) (a : BitVec 7)
  | vlane (d : BitVec 7)
  | vadd (d : BitVec 7) (a : BitVec 7) (b : BitVec 7) (m : Option Mod)
  | vsub (d : BitVec 7) (a : BitVec 7) (b : BitVec 7) (m : Option Mod)
  | vadds (d : BitVec 7) (a : BitVec 7) (b : BitVec 7) (m : Option Mod)
  | vsubs (d : BitVec 7) (a : BitVec 7) (b : BitVec 7) (m : Option Mod)
  | vmul (d : BitVec 7) (a : BitVec 7) (b : BitVec 7) (m : Option Mod)
  | vmulh (d : BitVec 7) (a : BitVec 7) (b : BitVec 7) (m : Option Mod)
  | vmulhu (d : BitVec 7) (a : BitVec 7) (b : BitVec 7) (m : Option Mod)
  | vmad (d : BitVec 7) (a : BitVec 7) (b : BitVec 7) (m : Mod)
  | vabs (d : BitVec 7) (a : BitVec 7) (m : Option Mod)
  | vneg (d : BitVec 7) (a : BitVec 7) (m : Option Mod)
  | vmin (d : BitVec 7) (a : BitVec 7) (b : BitVec 7) (m : Option Mod)
  | vmax (d : BitVec 7) (a : BitVec 7) (b : BitVec 7) (m : Option Mod)
  | vminu (d : BitVec 7) (a : BitVec 7) (b : BitVec 7) (m : Option Mod)
  | vmaxu (d : BitVec 7) (a : BitVec 7) (b : BitVec 7) (m : Option Mod)
  | vand (d : BitVec 7) (a : BitVec 7) (b : BitVec 7) (m : Option Mod)
  | vor (d : BitVec 7) (a : BitVec 7) (b : BitVec 7) (m : Option Mod)
  | vxor (d : BitVec 7) (a : BitVec 7) (b : BitVec 7) (m : Option Mod)
  | vnot (d : BitVec 7) (a : BitVec 7) (m : Option Mod)
  | vshl (d : BitVec 7) (a : BitVec 7) (b : BitVec 7) (m : Option Mod)
  | vshr (d : BitVec 7) (a : BitVec 7) (b : BitVec 7) (m : Option Mod)
  | vsar (d : BitVec 7) (a : BitVec 7) (b : BitVec 7) (m : Option Mod)
  | vbfx (d : BitVec 7) (a : BitVec 7) (b : BitVec 7) (m : Option Mod)
  | vbfi (d : BitVec 7) (a : BitVec 7) (b : BitVec 7) (m : Mod)
  | vclz (d : BitVec 7) (a : BitVec 7) (m : Option Mod)
  | vpopc (d : BitVec 7) (a : BitVec 7) (m : Option Mod)
  | vlea (s : BitVec 2) (d : BitVec 7) (a : BitVec 7) (b : BitVec 7) (m : Option Mod)
  | vcmp (c : BitVec 3) (q : BitVec 4) (a : BitVec 7) (b : BitVec 7) (m : Option Mod)
  | vsel (d : BitVec 7) (a : BitVec 7) (b : BitVec 7) (m : Mod)
  | fadd (f : BitVec 2) (d : BitVec 7) (a : BitVec 7) (b : BitVec 7) (m : Option Mod)
  | fsub (f : BitVec 2) (d : BitVec 7) (a : BitVec 7) (b : BitVec 7) (m : Option Mod)
  | fmul (f : BitVec 2) (d : BitVec 7) (a : BitVec 7) (b : BitVec 7) (m : Option Mod)
  | ffma (f : BitVec 2) (d : BitVec 7) (a : BitVec 7) (b : BitVec 7) (m : Mod)
  | fmin (f : BitVec 2) (d : BitVec 7) (a : BitVec 7) (b : BitVec 7) (m : Option Mod)
  | fmax (f : BitVec 2) (d : BitVec 7) (a : BitVec 7) (b : BitVec 7) (m : Option Mod)
  | fdiv (f : BitVec 2) (d : BitVec 7) (a : BitVec 7) (b : BitVec 7) (m : Option Mod)
  | fscale (f : BitVec 2) (d : BitVec 7) (a : BitVec 7) (b : BitVec 7) (m : Option Mod)
  | fcmp (c : BitVec 3) (q : BitVec 4) (a : BitVec 7) (b : BitVec 7) (m : Option Mod)
  | fabs (d : BitVec 7) (a : BitVec 7) (f : BitVec 2) (m : Option Mod)
  | fneg (d : BitVec 7) (a : BitVec 7) (f : BitVec 2) (m : Option Mod)
  | fclass (d : BitVec 7) (a : BitVec 7) (f : BitVec 2) (m : Option Mod)
  | frnd (d : BitVec 7) (a : BitVec 7) (f : BitVec 2) (m : Option Mod)
  | fsqrt (d : BitVec 7) (a : BitVec 7) (f : BitVec 2) (m : Option Mod)
  | frcp (d : BitVec 7) (a : BitVec 7) (s : Bool) (f : BitVec 2) (m : Option Mod)
  | frsq (d : BitVec 7) (a : BitVec 7) (s : Bool) (f : BitVec 2) (m : Option Mod)
  | fexp2 (d : BitVec 7) (a : BitVec 7) (s : Bool) (f : BitVec 2) (m : Option Mod)
  | flog2 (d : BitVec 7) (a : BitVec 7) (s : Bool) (f : BitVec 2) (m : Option Mod)
  | fsin (d : BitVec 7) (a : BitVec 7) (s : Bool) (f : BitVec 2) (m : Option Mod)
  | fcos (d : BitVec 7) (a : BitVec 7) (s : Bool) (f : BitVec 2) (m : Option Mod)
  | ftanh (d : BitVec 7) (a : BitVec 7) (s : Bool) (f : BitVec 2) (m : Option Mod)
  | cvtff (d : BitVec 7) (a : BitVec 7) (y : BitVec 3) (z : BitVec 3) (m : Option Mod)
  | cvtfi (d : BitVec 7) (a : BitVec 7) (u : Bool) (y : BitVec 3) (z : BitVec 3) (m : Option Mod)
  | cvtif (d : BitVec 7) (a : BitVec 7) (u : Bool) (y : BitVec 3) (z : BitVec 3) (m : Option Mod)
  | vflg (d : BitVec 7) (a : BitVec 7) (w : Bool)
  | pack8 (f : BitVec 2) (d : BitVec 7) (a : BitVec 7) (b : BitVec 7) (m : Option Mod)
  | unpk8 (y : BitVec 2) (d : BitVec 7) (a : BitVec 7) (f : Bool) (m : Option Mod)
  | perm (d : BitVec 7) (a : BitVec 7) (b : BitVec 7) (m : Option Mod)
  | qswz (d : BitVec 7) (a : BitVec 7) (s : BitVec 3) (m : Option Mod)
  | matchKeys (d : BitVec 4) (a : BitVec 7) (m : Option Mod)
  | scan (d : BitVec 7) (a : BitVec 7) (e : Bool) (t : BitVec 2) (o : BitVec 3) (m : Option Mod)
  | red (d : BitVec 7) (a : BitVec 7) (t : BitVec 2) (o : BitVec 3) (m : Option Mod)
  | vmovi (d : BitVec 7) (i : BitVec 17)
  | vaddVri (d : BitVec 7) (a : BitVec 7) (i : BitVec 10)
  | vmulVri (d : BitVec 7) (a : BitVec 7) (i : BitVec 10)
  | vandVri (d : BitVec 7) (a : BitVec 7) (i : BitVec 10)
  | vorVri (d : BitVec 7) (a : BitVec 7) (i : BitVec 10)
  | vxorVri (d : BitVec 7) (a : BitVec 7) (i : BitVec 10)
  | vshlVri (d : BitVec 7) (a : BitVec 7) (i : BitVec 10)
  | vshrVri (d : BitVec 7) (a : BitVec 7) (i : BitVec 10)
  | vsarVri (d : BitVec 7) (a : BitVec 7) (i : BitVec 10)
  | vminVri (d : BitVec 7) (a : BitVec 7) (i : BitVec 10)
  | vmaxVri (d : BitVec 7) (a : BitVec 7) (i : BitVec 10)
  | vminuVri (d : BitVec 7) (a : BitVec 7) (i : BitVec 10)
  | vmaxuVri (d : BitVec 7) (a : BitVec 7) (i : BitVec 10)
  | vcmpVri (c : BitVec 3) (q : BitVec 4) (a : BitVec 7) (i : BitVec 10)
  | topki (d : BitVec 7) (a : BitVec 7) (k : BitVec 3) (i : BitVec 7)
  | ld (w : MemWord)
  | st (w : MemWord)
  | ldu (w : MemWord)
  | spl (w : MemWord)
  | fil (w : MemWord)
  | qst (w : MemWord)
  | ldq (w : MemWord)
  | qrekey (w : MemWord)
  | xcopy (w : MemWord)
  | xgath (w : MemWord)
  | kld (w : MemWord)
  | kmov (w : MemWord)
  | knarrow (w : MemWord)
  | kview (w : MemWord)
  | kperm (w : MemWord)
  | kfield (w : MemWord)
  | kfieldW (w : MemWord)
  | drainst (w : MemWord)
  | probe (w : MemWord)
  | atom (w : MemWord)
  | cas (w : MemWord)
  | fence (w : MemWord)
  | ldb (w : MemWord)
  | mzero (z : BitVec 3)
  | mloop (e : Bool) (z : BitVec 3) (k : BitVec 4) (s : BitVec 7) (x : LoopExt)
  | mgrow (z : BitVec 3) (s : BitVec 7)
  | msnap (e : Bool) (z : BitVec 3) (k : BitVec 4)
  | mout (e : Bool) (z : BitVec 3) (k : BitVec 4)
  | mpri (z : BitVec 3) (p : BitVec 3)
  | mrel (z : BitVec 3)
  | bndNew (s : BitVec 7)
  | bndFork (s : BitVec 7) (t : BitVec 7)
  | bndSet (t : BitVec 7)
  | bndRet (t : BitVec 7)
  | bndMrg (t : BitVec 7)
  | bar
  | barl (s : BitVec 7)
  | barg
  | sigAdd (k : BitVec 4) (t : BitVec 7) (ord : BitVec 4)
  | sigSet (k : BitVec 4) (t : BitVec 7) (ord : BitVec 4)
  | sigWait (k : BitVec 4) (t : BitVec 7) (ord : BitVec 4) (c : BitVec 2)
  | spawn (s : BitVec 7) (t : BitVec 7) (pw : BitVec 4) (eoff : BitVec 24)
  | padClose (s : BitVec 7) (eoff : BitVec 24)
  | halt
  | chunk (n : BitVec 8)
  | nextW
  | setg (a : BitVec 5) (lit : Word)
  | setgHi (a : BitVec 5) (lit : Word)
  | addg (a : BitVec 5) (b : BitVec 5) (i : BitVec 17)
  | loop (a : BitVec 5) (i : BitVec 17)
  | brz (a : BitVec 5) (i : BitVec 17)
  | brnz (a : BitVec 5) (i : BitVec 17)
  | waits (a : BitVec 5) (e : BitVec 4) (c : BitVec 2)
  | sigs (a : BitVec 5) (e : BitVec 4) (set : Bool) (irq : Bool) (c : BitVec 5) (sys : Bool)
  | xmit (a : BitVec 5) (b : BitVec 5) (e : BitVec 4) (c : BitVec 15)
  | xmitA (a : BitVec 5) (b : BitVec 5) (e : BitVec 4) (last : Bool) (c : BitVec 15)
  | stow (a : BitVec 5) (b : BitVec 5) (e : BitVec 4) (c : BitVec 15)
  | stowA (a : BitVec 5) (b : BitVec 5) (d : BitVec 5) (c : BitVec 15)
  | fold (a : BitVec 5) (b : BitVec 5) (e : BitVec 4) (op : BitVec 4) (ty : BitVec 4) (c : BitVec 15)
  | foldf (a : BitVec 5) (b : BitVec 5) (e : BitVec 4) (f : BitVec 4) (op : BitVec 4) (ty : BitVec 4) (c : BitVec 15)
  | create
  | key
  | preempt
  | resume
  | destroy
  | pool
  | quota
  | saveComplete
  | uncorrectableError (addr : Nat) (cx : Nat)
  | registerWrite (off : Nat) (v : BitVec 64)
  | qtailWrite (q : Nat) (v : Word)
  | queueEnable (q : Nat) (v : Word)
  | queueDisable (q : Nat) (v : Word)
  | cheadWrite (q : Nat) (v : Word)
  | faultQueueEnable (v : Word)
  | faultQueueDisable (v : Word)
  | fqheadWrite (v : Word)
  | tqarbWrite (c : Nat) (v : Word)
  | dmsplitWrite (v : Word)
  | dmsplitComplete
  | resetPackage (idx : Nat) (force : Bool)
  | resetDie (idx : Nat) (force : Bool)
  | resetCluster (idx : Nat) (force : Bool)
  | resetCore (idx : Nat) (force : Bool)
  | resetVectorPipes (idx : Nat) (force : Bool)
  | resetMatrixEngine (idx : Nat) (force : Bool)
  | resetCopyEngine (idx : Nat) (force : Bool)
  | resetGatherEngine (idx : Nat) (force : Bool)
  | resetOutrider (idx : Nat) (force : Bool)
  | resetCommandSequencer (idx : Nat) (force : Bool)
  | resetRein (idx : Nat) (force : Bool)
  | resetManagementBlock (idx : Nat) (force : Bool)
  | resetComplete
  | slotAbort (n : Nat) (sl : Nat)
  | slotGo (n : Nat) (sl : Nat)
  | slotStep (n : Nat) (sl : Nat) (v : Bool)
  | slgdatWrite (n : Nat) (sl : Nat) (v : BitVec 64)
  | nopPacket (die : Nat)
  | launch (die : Nat)
  | node (die : Nat)
  | signal (die : Nat)
  | wait (die : Nat)
  | phase (die : Nat)
  | rein (die : Nat)
  | replay (die : Nat)
  | inval (die : Nat)
  | invalComplete (p : Nat)
  | phaseSteps (q : Nat)
  | queueHoldRelease (q : Nat)
  | indirectSizeTaken (q : Nat)
  | packetComplete (p : Nat)
  | patchBankSwitch (die : Nat)
  | blockPlace (g : Nat)
  | gridComplete (g : Nat)
  | paddockTimerLapse (nd : Nat)
  | arrivalInterrupt (n : Nat)
  | outriderRunStart (c : Nat)
  | continuationReentry (c : Nat)
  | weightedTileChoice (co : Nat)
  | clauseStart (co : Nat) (p : Nat)
  | stallRelease (g : Nat)
  | operationComplete (op : Nat)
  | faultRecordWrite
  | storePerformed (st : Nat)
  | writeProtectReport (g : Nat)
  | barrierComplete (lv : Nat) (b : Nat)
  | sigWaitResume (g : Nat)
  | ownershipGrant (ln : Nat)
  | lineComplete (ln : Nat)
  | brandFree (cx : Nat) (b : Nat)
  | brandMergeApply (cx : Nat) (b : Nat)
  | kStep (co : Nat)
  | moutReadout (op : Nat)
  | leaveGrant (die : Nat)
  | powerSample (mw : Nat) (dies : List Nat)
  | limiterWindow
  | frameSend (n : Nat)
  | dataFrameReceive (n : Nat) (f : Frame)
  | runHeaderReceive (n : Nat) (f : Frame)
  | roundMarkerReceive (n : Nat) (f : Frame)
  | idleFrameReceive (n : Nat) (f : Frame)
  | memoryServiceRequest (n : Nat) (f : Frame)
  | memoryServiceResponse (n : Nat) (f : Frame)
  | memoryServiceData (n : Nat) (f : Frame)
  | frameResend (n : Nat)
  | reinSlotLoad (p : Nat)
  | reinSlotRestore (n : Nat)
  | slotChoose (n : Nat)
  | chunkComplete (n : Nat)
  | boundaryRunLimit (n : Nat)
  | bringUp
  | telemetryFastRecord (temp : Nat)
  | telemetryFullRecord (temp : Nat) (hbm : List Nat)
  | sensorRead (id : Nat)
  | spdmMeasurements (slot : Nat) (index : Nat)
  | firmwareTransfer (up : Update)
  | activateFirmware
  | crcFailure (n : Nat) (f : Frame)
  | allowanceReturn (n : Nat) (sl : Nat) (e : Nat) (fl : Nat)
  | hostPortAccess (h : HostAccess)
  | correctedError (ext : Bool)
  deriving DecidableEq, Repr, Inhabited

end Sys2Proof
end

