-- ==== Sys2Proof/Machine/State.lean ====
section
/-! DEFINITION. The state of one BX7 as plain data, the reasons a step can stop, and the state after a package reset. -/
namespace Sys2Proof.Machine

/-- Byte-addressed storage: addresses strictly rising, no byte equal to 0, which an unlisted address reads as. -/
abbrev Memory := List Host.Cell

/-- A numbered collection with a default: numbers strictly rising, no entry equal to the default. -/
abbrev Sparse (α : Type) := List (Nat × α)

/-- Where a byte lies: device and extended memory (one physical map, R403), host memory, block memory, a context's
die-wide scratchpad share, a group's spill stack (R222), or the memory of a peer (R249). -/
inductive Space where
  | phys
  | host
  | block (b : Nat)
  | share (cx die : Nat)
  | spill (g : Nat)
  | peer (dev : Nat)
  deriving DecidableEq, Repr, Inhabited

structure Loc where
  sp : Space
  a : Nat
  deriving DecidableEq, Repr, Inhabited

/-- A translated byte: its place and what its page entry and descriptor say of it (R245, R246). -/
structure PByte where
  loc : Loc
  wp : Bool
  brd : Bool
  det : BitVec 2
  deriving DecidableEq, Repr, Inhabited

/-- A translated page of an object: its size, the place of its first byte, and the bits a PByte carries. -/
structure PageTr where
  obj : Nat
  page : Nat
  lg : Bool
  base : Loc
  wp : Bool
  brd : Bool
  det : BitVec 2
  deriving DecidableEq, Repr, Inhabited

/-- A word or an element of a captured access, by object byte offsets: the header of its block (a block format), its
own `n` bytes from `off`, the bit at which it starts, its element index, and its bytes once translated (header first). -/
structure AccUnit where
  hdr : Option Nat
  off : Nat
  n : Nat
  bit : Nat
  elem : Nat
  bytes : List PByte
  deriving DecidableEq, Repr, Inhabited

/-- A captured lane access: the byte offset of its lowest byte from the record base, its words or elements (none: out
of range under CLAMP or ZERO, or forwarded), and the values captured. -/
structure LaneAcc where
  lane : Nat
  off : Int
  units : List (Option AccUnit)
  vals : List Word
  deriving DecidableEq, Repr, Inhabited

/-- What a write does when it is performed: its bytes (under masks), or a signal update (R346). -/
inductive StoreAct where
  | bytes
  | sigAdd (v : Word64)
  | sigSet (v : Word64)
  deriving DecidableEq, Repr, Inhabited

/-- A write of one lane, issued and not yet performed at its home L2 (R274). `rel` is the scope of the release that
precedes it, 1 BLOCK to 5 SYSTEM, 0 for none (R275); `after` and `afterOps` name the writes and operations that the
orders of Line put before it. -/
structure StoreOp where
  gid : Nat
  op : Nat
  cx : Nat
  core : Nat
  brand : Nat
  lane : Nat
  pol : Nat
  rel : Nat
  act : StoreAct
  after : List Nat
  afterOps : List Nat
  bytes : List (PByte × Byte × Byte)
  deriving DecidableEq, Repr, Inhabited

/-- What an outstanding long-latency operation is (R63). -/
inductive OpKind where
  | load | loadU | loadQ | store | spill | fill | fillRec | sfu | probe | atom (o : Nat) | cas
  | copy | rekey | gather | raw | snap | out | sigAccess | fetch | signalWait | brk
  deriving DecidableEq, Repr, Inhabited

/-- One destination line of an engine operation: its place and brand, and 0 asked, 1 owned, 2 done (R278, R279). -/
structure LineJob where
  line : Loc
  brd : Bool
  stage : Nat
  deriving DecidableEq, Repr, Inhabited

/-- A long-latency operation outstanding (R62, R64), a memory access parked (R253), or a copy engine's work (R238).
`left` are the lanes a park left unfinished, `fin` those delivered; `after` and `afterOps` as for StoreOp;
`pgot` are bytes of peer memory that have arrived for it, or of the spill stack read at issue (R235), and `asked` its memory-service requests unanswered (R354);
`carry` are bytes computed for lines not yet written, `pre` source bytes that the operation itself has overwritten, as
they stood before, with the tags of their granules (R239), `todo` those of an MSNAP or MOUT not yet issued, by object offset; `parkNo`, 0 unless parked, orders parks
(R258), `pooled` if a cause was POOL_EMPTY (R302), `recalled` while its retry waits for the owner of a line (R271, R301). `dseq` is the sequence number under which an engine's or a
tile's deferred writes stand (R288). -/
structure LongOp where
  gid : Nat
  cx : Nat
  core : Nat
  kind : OpKind
  flag : Option Nat
  rec1 : BitVec 256
  rec2 : BitVec 256
  brand : Nat
  brand2 : Nat
  ord : Nat
  pol : Nat
  exm : Lanes
  dst : Nat
  ndst : Nat
  toReg : Bool
  lanes : List LaneAcc
  left : Lanes
  fin : Lanes
  res : List (Nat × Nat × Word)
  cflags : BitVec 5
  wpLanes : Lanes
  wpOff : Nat
  count : Nat
  rows : List (Nat × Nat)
  lines : List LineJob
  leave : Bool
  tile : Nat
  ioff : Nat
  obj : Nat
  kindCode : Nat
  issueNo : Nat
  dseq : Nat
  after : List Nat
  afterOps : List Nat
  pmap : List PageTr
  pgot : List (Loc × Byte)
  asked : Nat
  carry : List (PByte × Byte × Byte)
  pre : List (Loc × Byte × Bool)
  todo : List (Nat × Byte × Byte)
  pooled : Bool
  recalled : Bool
  parkNo : Nat
  deriving DecidableEq, Repr, Inhabited

/-- A result-queue entry of one lane (R162); `pend` names the operation and value that will fill it (R76). -/
structure QEntry where
  val : Word
  pend : Option (Nat × Nat)
  deriving DecidableEq, Repr, Inhabited

/-- Why the next word of a group is not issued (R172). -/
inductive Stall where
  | flagFull (f : Nat)
  | leave
  | brandQuota
  | storeRoom
  | syncf (m : BitVec 12)
  | fence
  | drain
  | tile (z : Nat)
  | merge (b : Nat)
  | recall (line : Loc) (b : Nat)
  | reports
  | overflowed
  deriving DecidableEq, Repr, Inhabited

/-- The states of a group (R172); `saved` stands beside it in `Group.saved`. -/
inductive GStatus where
  | boundary
  | issuing
  | stalled (w : Stall)
  | parked
  | yielded
  | barrier
  | ended
  deriving DecidableEq, Repr, Inhabited

/-- A pending continuation (R165): clause offset, lanes, join counter, and whether a BRV ejected it with IH = 1 (R176). -/
structure Cont where
  pc : Nat
  mask : Lanes
  j : Nat
  inHandler : Bool
  deriving DecidableEq, Repr, Inhabited

/-- The hold record of a join counter (R166) and the header after the JOIN its first lanes arrived at (R167). -/
structure Hold where
  hp : Lanes
  ha : Lanes
  after : Nat
  deriving DecidableEq, Repr, Inhabited

/-- Flags of an engine or matrix operation that reach lanes at a clause waiting on its completion flag (R44). -/
structure Owed where
  flag : Nat
  lanes : Lanes
  bits : BitVec 5
  deriving DecidableEq, Repr, Inhabited

/-- A data fault of a loop not yet reported (R333), or the DET_OWNERSHIP of an engine (R290; `z` is then 8). -/
structure DataFault where
  cause : BitVec 8
  flag : Option Nat
  z : Nat
  lanes : Lanes
  deriving DecidableEq, Repr, Inhabited

/-- A tied store of a spliced kernel (R147): its brand and record, with the number of its K register, the flag-free captured
lanes with their encoded codes, and whether ELIDE holds the write. -/
structure TieHold where
  tie : Nat
  elide : Bool
  brand : Nat
  rec1 : BitVec 256
  kreg : Nat
  pol : Nat
  ioff : Nat
  quant : Bool
  lanes : List LaneAcc
  deriving DecidableEq, Repr, Inhabited

/-- A yield-form copy whose clause has not ended, or whose group is out of the issue pool (R239). -/
structure YieldTo where
  op : Nat
  pc : Nat
  done : Bool
  ih : Bool
  deriving DecidableEq, Repr, Inhabited

/-- A SIG.WAIT in progress (R348). -/
structure SigWait where
  rec1 : BitVec 256
  brand : Nat
  value : Word64
  cond : BitVec 2
  ord : Nat
  deriving DecidableEq, Repr, Inhabited

/-- A group of lanes (R161), or the run of an outrider, which has no lanes (R156). `readFrom` are writes of other groups
that it has read before they were performed, each with the number of the access that read it (R275); `afresh` while a fetch that a
retry has let go on walks afresh (R258). -/
structure Group where
  cx : Nat
  grid : Nat
  block : Nat
  gidx : Nat
  outrider : Option Nat
  width : Nat
  nregs : Nat
  sblk : Nat
  spillBytes : Nat
  core : Nat
  slice : Nat
  pipe : Nat
  prio : Nat
  img : Nat
  hoff : Nat
  codeEnd : Nat
  status : GStatus
  saved : Bool
  pc : Nat
  cla : Nat
  cend : Nat
  seta : BitVec 4
  setb : BitVec 4
  yld : Bool
  V : Sparse Word
  Q : List (List QEntry)
  fl : Sparse (BitVec 5)
  S : Sparse Word
  M : Sparse Word64
  K : Sparse (BitVec 256)
  F : Sparse Nat
  bv : Nat
  bs : Nat
  nbv : Nat
  nbs : Nat
  exm : Lanes
  pth : Lanes
  live : Lanes
  hlp : Lanes
  J : Sparse Nat
  holds : Sparse Hold
  conts : List Cont
  reenter : Option Cont
  brd : BitVec 16
  ih : Bool
  fcla : Word
  fres : Word
  fcau : Word
  fln : Lanes
  fex : Lanes
  fbv : Nat
  fbs : Nat
  foff : Word
  frec : Word
  forg : Word
  cychL : Word
  age : Nat
  waited : Nat
  yielding : Bool
  yieldTo : Option YieldTo
  park : Option Nat
  afresh : Bool
  sfq : List (BitVec 256 × Word × Nat)
  spill : Memory
  spillTags : List Nat
  owed : List Owed
  dfaults : List DataFault
  nSpawn : Sparse Nat
  nAlloc : Nat
  nDefer : Sparse Nat
  nIssued : Nat
  readFrom : List (Nat × Nat)
  ties : List TieHold
  sigw : Option SigWait
  traps : Nat
  deriving DecidableEq, Repr, Inhabited

/-- A record a SPAWN delivered (R149, R151): key, payload and `Producer`, the die whose store holds it, and the queue,
grid and block it comes from. -/
structure SpawnRec where
  cx : Nat
  entry : Nat
  disc : Nat
  words : List Word
  prod : List Nat
  die : Nat
  q : Nat
  grid : Nat
  block : Nat
  deriving DecidableEq, Repr, Inhabited

/-- A grid taken by LAUNCH (R133, R135), or the kernel of a graph node (R149). -/
structure Grid where
  cx : Nat
  q : Nat
  pkt : Nat
  pkt2 : Option Nat
  seq : Nat
  lrec : BitVec 2048
  hdr : BitVec 1024
  lrec2 : BitVec 2048
  gx : Nat
  gy : Nat
  gz : Nat
  width : Nat
  nregs : Nat
  sblk : Nat
  scratch : Nat
  spill : Nat
  split : Nat
  ncores : Nat
  ngroups : Nat
  blocks : Nat
  nextBlock : Nat
  exited : Nat
  det : Bool
  binds : List (BitVec 256 × Bool)
  binds2 : List (BitVec 256 × Bool)
  cause : BitVec 8
  causeKey : List Nat
  code : Option (List Word)
  origin : List (Nat × Nat)
  sections : List (Nat × Bool)
  hoff : Nat
  hoff2 : Nat
  codeEnd : Nat
  ties : List (Nat × Nat × Nat)
  elide : Bool
  lmap : List Nat
  node : Option Nat
  nodeGroups : Nat
  deriving DecidableEq, Repr, Inhabited

/-- A loop of a matrix engine (R310, R323); `after` are the group's accesses that its reads follow,
each with the K-step from which they do (R324); `afresh` that a retry has let it go on, whose K-step walks afresh (R258, R332). -/
structure MLoop where
  id : Nat
  gid : Nat
  cx : Nat
  recA : BitVec 256
  recB : BitVec 256
  brand : Nat
  exm : Lanes
  steps : Nat
  done : Nat
  first : Nat
  planes : Nat
  passes : Nat
  anchor : Option Nat
  flag : Option Nat
  paused : Bool
  afresh : Bool
  cflags : BitVec 5
  iobj : Nat
  ioff : Nat
  after : List (Nat × Nat)
  parkNo : Nat
  deriving DecidableEq, Repr, Inhabited

/-- An accumulator tile (R309); elements are 72 bits in the layout of R57, numbered 64 m + c. -/
structure Tile where
  holder : Option Nat
  elems : Sparse (BitVec 72)
  anchor : Option Nat
  prio : Nat
  kdone : Nat
  last : Option MLoop
  loops : List MLoop
  orphan : Bool
  deriving DecidableEq, Repr, Inhabited

/-- An accumulator tile saved with its block (R105, R334): the position of its core in the block and its number. -/
structure SavedTile where
  pos : Nat
  z : Nat
  tile : Tile
  deriving DecidableEq, Repr, Inhabited

/-- A block (R137): its cores in the order in which R137 fills them, and its threads T (R134, R155). `saved` while it is
in the save area or waits, resumed, for cores (R106). -/
structure Block where
  grid : Nat
  cx : Nat
  b : Nat
  cores : List Nat
  groups : List Nat
  threads : Nat
  bmem : Memory
  saved : Bool
  tiles : List SavedTile
  deriving DecidableEq, Repr, Inhabited

/-- A barrier node (R336, R338): level 0 block, 1 cluster, 2 grid, and what it serves; the generation, the blocks that
belong to a cluster generation once it has begun, and the arrivals: groups, with the scalar a BARL writes. -/
structure BarNode where
  lv : Nat
  id : Nat
  gen : Nat
  members : List Nat
  arr : List (Nat × Option Nat)
  deriving DecidableEq, Repr, Inhabited

/-- An open graph node and its paddock (R149, R153): the records held, and those of groups that wait for a core. Once it is closed,
the earlier packets of R154 are those of the queues `closeQs` whose grids are numbered below `closeAt`. -/
structure Node where
  cx : Nat
  entry : Nat
  disc : Nat
  timer : Nat
  die : Nat
  pkt : Nat
  grid : Nat
  det : Bool
  held : List SpawnRec
  ready : List (List SpawnRec)
  timerOn : Bool
  closed : Bool
  closeAt : Nat
  closeQs : List Nat
  deriving DecidableEq, Repr, Inhabited

/-- An arrival interrupt (R157, R384), and the packet of the slot that waits for it. -/
structure Arrival where
  cx : Nat
  rein : Nat
  slot : Nat
  comm : Nat
  entry : Nat
  value : Word64
  pkt : Nat
  deriving DecidableEq, Repr, Inhabited

structure Outrider where
  irq : List Arrival
  waiting : List Arrival
  run : Option Nat
  deriving DecidableEq, Repr, Inhabited

/-- Kernel objects: grids, blocks, groups, nodes, held records, barriers, outriders. -/
structure KUnit where
  grids : Sparse Grid
  blocks : Sparse Block
  groups : Sparse Group
  nodes : Sparse Node
  held : List SpawnRec
  bars : List BarNode
  outriders : Sparse Outrider
  deriving DecidableEq, Repr, Inhabited

/-- A page entry held by a translation cache (R251), with `mig` of its descriptor. -/
structure TlbEntry where
  cx : Nat
  mig : Bool
  tr : PageTr
  deriving DecidableEq, Repr, Inhabited

/-- A directory entry of an Owned line (R269): the line under a brand, its owning operation (or slot) and those queued.
Lane accesses numbered below `since` came before the owner and do not wait for it; those below `first` waited for an
owner before it and are performed before the owner writes. -/
structure DirLine where
  line : Loc
  brand : Nat
  owner : Nat
  queue : List Nat
  since : Nat
  first : Nat
  deriving DecidableEq, Repr, Inhabited

/-- A deferred deterministic write (R288); `tags` are those that a raw copy gives the granules it lies in (R226). -/
structure Commit where
  cx : Nat
  grid : Nat
  key : List Nat
  gid : Nat
  lane : Nat
  brand : Nat
  bytes : List (PByte × Byte × Byte)
  addF32 : Option Word
  tags : List (Loc × Bool)
  deriving DecidableEq, Repr, Inhabited

/-- The owner of a line of a deterministic-private page (R290). -/
structure DetOwner where
  grid : Nat
  line : Loc
  brand : Nat
  block : Nat
  deriving DecidableEq, Repr, Inhabited

/-- A sector of 64 bytes held by an L1 (R265, R266); `upd` are the writes of its core that updated it at their issue. -/
structure L1Sector where
  core : Nat
  cx : Nat
  loc : Loc
  data : List Byte
  upd : List Nat
  deriving DecidableEq, Repr, Inhabited

structure MemUnit where
  phys : Memory
  host : Memory
  keyTag : Sparse Nat
  dirty : Memory
  dirtyCtx : Sparse Nat
  share : Memory
  tags : List Nat
  tlb : List TlbEntry
  l1 : List L1Sector
  ops : Sparse LongOp
  stores : Sparse StoreOp
  dir : List DirLine
  presence : Sparse (BitVec 32)
  commit : List Commit
  detOwn : List DetOwner
  deriving DecidableEq, Repr, Inhabited

/-- A context (R97, R104): `st` 0 free, 1 active, 2 pre-empting, 3 saved, 4 faulted. `orphans` are saved tiles whose
holder and its block have ended, with loops outstanding (R105, R309); their `pos` is 0. -/
structure Context where
  st : Nat
  keyed : Bool
  key : Nat
  why : BitVec 8
  prio : Nat
  elen : Nat
  ebase : Nat
  dsh : Nat
  oimg : Nat
  obind : Nat
  onbind : Nat
  objRoot : Nat
  brandQuota : Nat
  saveBase : Nat
  saveUnits : Nat
  pool : List (Nat × Nat)
  obinds : List (BitVec 256 × Bool)
  recorded : BitVec 8
  savedArea : Option (List Byte)
  placedShare : Bool
  orphans : List SavedTile
  deriving DecidableEq, Repr, Inhabited

/-- The context control block (R98) and the contexts. -/
structure CxUnit where
  sel : Nat
  cmd : Nat
  busy : Bool
  result : BitVec 8
  need : Word
  desc : Word64
  staging : BitVec 512
  ctxs : Sparse Context
  deriving DecidableEq, Repr, Inhabited

/-- Why a queue holds the packet at its head (R113); `splice`: the producer it took waits for the packet at the head (R143). -/
inductive HoldWhy where
  | bar | phase | wait | indirect | splice | node | room
  deriving DecidableEq, Repr, Inhabited

/-- A packet taken from a queue (R115–R117); `watch` names what it waits for, `slots` its rein slots, `loading` that they
are still to be loaded, or that a LAUNCH taken as a producer has not started (R143). -/
structure Packet where
  q : Nat
  cx : Nat
  die : Nat
  seq : Nat
  bits : BitVec 512
  status : BitVec 8
  finished : Bool
  blocks : Nat
  cause : BitVec 8
  link : BitVec 8
  slots : List (Nat × Nat)
  loading : Bool
  watch : List Nat
  det : Bool
  deriving DecidableEq, Repr, Inhabited

/-- A queue (R110): `st` 0 off, 1 running, 2 held, 3 halted. `phaseMet`: the steps of R118 are done for the packet at the
head; `lastDet`: the last LAUNCH was deterministic (R140); `prevTp`: the packet before was a producer, and `nextLink` the
linker code of its refused splice (R143, R144); `bank`: the patch bank under which the packet at the head, or the producer
taken, began its parse (R130); `waitPark`: the signal of a WAIT whose walk has failed (R124); `noRecords`: the completion
ring has failed (R113); `late`: packets that wait for room in it (R114). -/
structure Queue where
  base : Word64
  en : Bool
  cls : Nat
  die : Nat
  cx : Nat
  lg : Nat
  tail : Word
  head : Word
  st : Nat
  halt : BitVec 8
  cbase : Word64
  clg : Nat
  chead : Word
  ctail : Word
  phase : BitVec 8
  phaseMet : Bool
  hold : Option HoldWhy
  lastDet : Bool
  noRecords : Bool
  nextLink : BitVec 8
  waitPark : Option Nat
  late : List Nat
  prevTp : Bool
  bank : Nat
  deriving DecidableEq, Repr, Inhabited

structure QUnit where
  qs : Sparse Queue
  pkts : Sparse Packet
  last : Sparse Nat
  bankUsed : Sparse Nat
  deriving DecidableEq, Repr, Inhabited

/-- The device fault queue (R256) and records waiting for room (R257), each with its group or rein slot. -/
structure FaultQ where
  base : Word64
  en : Bool
  iv : Nat
  lg : Nat
  tail : Word
  head : Word
  waiting : List (List (BitVec 256))
  irqs : Nat
  deriving DecidableEq, Repr, Inhabited

/-- A core; `slots` counts, modulo 16, the slots of pipes 0 to 3 and, as 4, the cycles of the matrix engine while the
limiter withholds (R392). -/
structure Core where
  split : Nat
  tiles : Sparse Tile
  prev : Sparse Nat
  copyQ : List Nat
  gathQ : List Nat
  contended : Nat
  choice : Option Nat
  slots : Sparse Nat
  deriving DecidableEq, Repr, Inhabited

/-- An allocated brand (R293): `st` 1 live, 2 retiring, 3 merging; `waiter` is the group of a BND.MRG (R306);
`returned` whether a cell of it has gone back to the pool (R302). -/
structure Brand where
  parent : Nat
  depth : Nat
  st : Nat
  waiter : Option Nat
  returned : Bool
  deriving DecidableEq, Repr, Inhabited

/-- An overlay cell (R299), or a line reserved for one (R301) by the store operation `op`. -/
structure OCell where
  cx : Nat
  brand : Nat
  line : Loc
  pool : Nat
  op : Option Nat
  deriving DecidableEq, Repr, Inhabited

structure BrandUnit where
  table : Sparse Brand
  cells : List OCell
  deriving DecidableEq, Repr, Inhabited

/-- A claim message arrived at a rein, or (`mark`) a round marker (R376). -/
structure Claim where
  comm : Nat
  dev : Nat
  prn : Nat
  sent : Nat
  vc : Nat
  mark : Bool
  bytes : List Byte
  deriving DecidableEq, Repr, Inhabited

/-- The bytes of one data frame of a stream, held by a rein until they are taken (R352), and the number of their run. -/
structure Stream where
  comm : Nat
  dev : Nat
  prn : Nat
  sent : Nat
  vc : Nat
  run : Nat
  bytes : List Byte
  deriving DecidableEq, Repr, Inhabited

/-- The run open on a virtual channel (R353), under a number of its own. -/
structure RunHdr where
  vc : Nat
  run : Nat
  comm : Nat
  dev : Nat
  prn : Nat
  sent : Nat
  clm : Bool
  det : Bool
  part : List Byte
  deriving DecidableEq, Repr, Inhabited

/-- A program slot (R360, R363): `st` 0 free … 7 saved as SLSTAT gives it; `savedSt` the state saved, `lost` that its rein has been reset
since (R106). `blocks` channel-table
blocks precede the words of its image; `boundary` counts boundary words since the last choice (R367);
`bodyEnd` the word after a body being run, `issued` whether its word has passed its brand check (R371), `written` the bytes
of the current instruction done (R370), `fwd` results of a FOLD or FOLDF, whole elements, `peerSent` bytes requested of a peer, `pgot` and `asked` as for LongOp;
`claimed` a granted message not yet written, `region` the region record as it was read for it, `sawEnd` whether END was
returned (R375). -/
structure Slot where
  st : Nat
  cx : Nat
  pkt : Nat
  comm : Nat
  vc : Nat
  sprio : Nat
  det : Bool
  img : Nat
  blocks : Nat
  words : List Word
  G : Sparse Word64
  pc : Nat
  flags : BitVec 5
  chan : Sparse Word64
  alw : Sparse Nat
  passes : Nat
  step : Bool
  justGo : Bool
  cause : BitVec 8
  bodyEnd : Option Nat
  written : Nat
  boundary : Nat
  irqOut : Nat
  aborting : Bool
  savedSt : Nat
  lost : Bool
  nDefer : Nat
  issued : Bool
  atNext : Bool
  sawEnd : Bool
  claimed : Option Claim
  region : Option Nat
  pgot : List (Loc × Byte)
  asked : Nat
  peerSent : Nat
  fwd : List Byte
  pooled : Bool
  parkNo : Nat
  deriving DecidableEq, Repr, Inhabited

/-- A memory-service request (R354): what its flit carries, the device it is for, and the data of a write; `bad` if its
`mop` is no code. -/
structure MsReq where
  dev : Nat
  rctx : Nat
  addr : Nat
  len : Nat
  write : Bool
  bad : Bool
  data : List Byte
  deriving DecidableEq, Repr, Inhabited

/-- A rein with its sequencer (R349–R351, R366); `link` 0 up, 1 training, 2 down (R396). `vcComm` holds 1 + the
communicator of a bound virtual channel, `held` frames for a channel bound to another, which wait on the sending rein
(R351), `nRun` the runs opened and `owners` the packets whose slots take them, by run (R353), `credits` the credits of each in use, `dead` the senders whose streams are
discarded (R372, R380), `msWait` deferred writes of R288 with no room in the class yet, `alwOut` allowance returned since the last frame sent: (communicator, device, rein, entry), one
per flit; `outbox` the frames of the last send; `msIn` a write request whose data is still arriving, `msServe` requests
to be served, `msPend` its own requests with their agents (a slot, or 8 + an operation) and `msGot` the answer arriving. -/
structure Rein where
  slots : Sparse Slot
  saved : List Slot
  vcComm : Sparse Nat
  held : List Frame
  nRun : Nat
  owners : List (Nat × Nat)
  runs : List RunHdr
  streams : List Stream
  claims : List Claim
  txq : List Frame
  unacked : List Frame
  outbox : List Frame
  txSeq : Nat
  rxSeq : Nat
  owedCredits : List Nat
  credits : Sparse Nat
  fails : Nat
  link : Nat
  resends : Nat
  running : Option Nat
  selIdx : Sparse Nat
  msIn : Option MsReq
  msServe : List MsReq
  msGot : Option (List Byte)
  msPend : List (Nat × MsReq)
  msWait : List (Nat × MsReq)
  alwOut : List (Nat × Nat × Nat × Nat)
  dead : List (Nat × Nat × Nat)
  deriving DecidableEq, Repr, Inhabited

/-- The record of R398 in force. -/
structure ConfigRec where
  svn : Nat
  devno : Nat
  l2u : Nat
  lvnear : Nat
  lvmax : Nat
  bank : Nat
  plim : Nat
  dsplit : Nat
  deriving DecidableEq, Repr, Inhabited

/-- The management block, the reset and split registers and leave (R389 to R401). `marked` is the flash record marked
active and `active` the one in force; `keptA` and `keptB` are the bundles of the patch banks as the management block keeps
them (R399, R400); `measures` the measurements taken (R397). -/
structure Care where
  trbase : Word64
  trlim : Word64
  tqarb : Sparse Word
  rstBusy : Bool
  rstForce : Bool
  rstLvl : Nat
  rstRes : BitVec 8
  rstIdx : Nat
  dmBusy : Bool
  dmDie : Nat
  dmRes : BitVec 8
  dmL2u : Nat
  l2u : Sparse Nat
  grants : Sparse (List Nat)
  asking : Sparse (List Nat)
  withhold : Nat
  powerSum : Nat
  samples : Nat
  lastPower : List Nat
  sinceWithheld : Nat
  flash : Sparse (BitVec 2048)
  marked : Nat
  counter : Nat
  active : Nat
  bankA : List (BitVec 128)
  bankB : List (BitVec 128)
  keptA : List (BitVec 128)
  keptB : List (BitVec 128)
  activeBank : Nat
  conf : Option ConfigRec
  pending : Option ConfigRec
  up : Bool
  corrected : Sparse Nat
  noCtxErrors : Nat
  faultedCount : Nat
  destroyed : Nat
  lastDestroyed : Nat
  discarded : Nat
  fast : List (Nat × Nat)
  full : List (Nat × Nat)
  sensorOut : Option (Nat × Nat)
  measures : List (BitVec 384)
  spdmOut : Option (Nat × Nat × List (BitVec 128))
  hostRead : List Byte
  deriving DecidableEq, Repr, Inhabited

/-- Which agent acts in a step: a pipe's issue slot, an outrider, a rein sequencer, or what a row of the table names. -/
inductive Turn where
  | pipe (core p : Nat)
  | outrider (c : Nat)
  | rein (n : Nat)
  | event (i : Instr)
  deriving DecidableEq, Repr, Inhabited

structure State where
  cycle : Nat
  tick : Nat
  fresh : Nat
  agenda : List Turn
  cur : Nat
  curSlot : Nat × Nat
  mem : MemUnit
  cx : CxUnit
  q : QUnit
  fq : FaultQ
  k : KUnit
  cores : Sparse Core
  br : BrandUnit
  reins : Sparse Rein
  care : Care
  deriving DecidableEq, Repr, Inhabited

/-- Why a step stops with a fault. -/
inductive Fault where
  /-- Raised by HOST_PORT_ACCESS on a physical address that R403 calls unbacked: no memory stands there. Safe. -/
  | unbackedAddress
  deriving DecidableEq, Repr

/-- Why a step refuses. -/
inductive Refusal where
  /-- An arm of `exec` that has no meaning yet. Safe. -/
  | notModelled (mnemonic : String)
  deriving DecidableEq, Repr

def Context.free : Context :=
  { st := 0, keyed := false, key := 0, why := 0, prio := 0, elen := 0, ebase := 0, dsh := 0, oimg := 0, obind := 0,
    onbind := 0, objRoot := 0, brandQuota := 0, saveBase := 0, saveUnits := 0, pool := [], obinds := [],
    recorded := 0, savedArea := none, placedShare := false, orphans := [] }

/-- A queue after reset (R110). -/
def Queue.off : Queue :=
  { base := 0, en := false, cls := 0, die := 0, cx := 0, lg := 4, tail := 0, head := 0, st := 0, halt := 0, cbase := 0,
    clg := 4, chead := 0, ctail := 0, phase := 0, phaseMet := false, hold := none, lastDet := false, noRecords := false,
    nextLink := 0, waitPark := none, late := [], prevTp := false, bank := 0 }

def Tile.free : Tile :=
  { holder := none, elems := [], anchor := none, prio := 0, kdone := 0, last := none, loops := [], orphan := false }

def Core.idle : Core :=
  { split := 0, tiles := [], prev := [], copyQ := [], gathQ := [], contended := 0, choice := none, slots := [] }

def Slot.free : Slot :=
  { st := 0, cx := 0, pkt := 0, comm := 0, vc := 0, sprio := 0, det := false, img := 0, blocks := 0, words := [], G := [], pc := 0,
    flags := 0, chan := [], alw := [], passes := 0, step := false, justGo := false, cause := 0, bodyEnd := none,
    written := 0, boundary := 0, irqOut := 0, aborting := false, savedSt := 0, lost := false, nDefer := 0,
    issued := false, atNext := false, sawEnd := false, claimed := none, region := none, pgot := [], asked := 0, peerSent := 0, fwd := [],
    pooled := false, parkNo := 0 }

/-- A rein before bring-up has trained it (R400). -/
def Rein.untrained : Rein :=
  { slots := [], saved := [], vcComm := [], held := [], nRun := 0, owners := [], runs := [], streams := [], claims := [], txq := [], unacked := [],
    outbox := [], txSeq := 0, rxSeq := 0, owedCredits := [], credits := [], fails := 0, link := 1, resends := 0,
    running := none, selIdx := [], msIn := none, msServe := [], msGot := none, msPend := [], msWait := [], alwOut := [], dead := [] }

def Outrider.idle : Outrider := { irq := [], waiting := [], run := none }

def Care.reset : Care :=
  { trbase := 0, trlim := 0, tqarb := [], rstBusy := false, rstForce := false, rstLvl := 0, rstRes := 0, rstIdx := 0,
    dmBusy := false, dmDie := 0, dmRes := 0, dmL2u := 6, l2u := [], grants := [], asking := [], withhold := 0,
    powerSum := 0, samples := 0, lastPower := [], sinceWithheld := 0, flash := [], marked := 0, counter := 0,
    active := 0, bankA := [], bankB := [], keptA := [], keptB := [], activeBank := 0, conf := none, pending := none, up := false, corrected := [],
    noCtxErrors := 0, faultedCount := 0, destroyed := 0, lastDestroyed := 0, discarded := 0, fast := [], full := [],
    sensorOut := none, measures := [], spdmOut := none, hostRead := [] }

/-- The device right after a package reset, before bring-up (R6, R395, R400): nothing resident, every register at its
reset value; what the manual gives no reset value for is named in notes/assumptions/3.md and 4.md. -/
def State.reset : State :=
  { cycle := 0, tick := 0, fresh := 1, agenda := [], cur := 0, curSlot := (0, 0),
    mem := { phys := [], host := [], keyTag := [], dirty := [], dirtyCtx := [], share := [], tags := [], tlb := [],
             l1 := [], ops := [], stores := [], dir := [], presence := [], commit := [], detOwn := [] },
    cx := { sel := 0, cmd := 0, busy := false, result := 0, need := 0, desc := 0, staging := 0, ctxs := [] },
    q := { qs := [], pkts := [], last := [], bankUsed := [] },
    fq := { base := 0, en := false, iv := 0, lg := 4, tail := 0, head := 0, waiting := [], irqs := 0 },
    k := { grids := [], blocks := [], groups := [], nodes := [], held := [], bars := [], outriders := [] },
    cores := [], br := { table := [], cells := [] }, reins := [], care := Care.reset }

end Sys2Proof.Machine
end

