-- ==== Sys2Proof/Machine/Sparse.lean ====
section
/-! DEFINITION. Numbered collections as sorted lists: look-up, replacement and removal, with and without a default. -/
namespace Sys2Proof.Machine

/-- The entry numbered `k`. -/
def mget {α : Type} : List (Nat × α) → Nat → Option α
  | [], _ => none
  | (j, v) :: r, k => if k = j then some v else mget r k

/-- The collection with entry `k` removed. -/
def mdel {α : Type} : List (Nat × α) → Nat → List (Nat × α)
  | [], _ => []
  | (j, v) :: r, k => if k = j then mdel r k else (j, v) :: mdel r k

/-- The collection with entry `k` set to `v`. -/
def mput {α : Type} : List (Nat × α) → Nat → α → List (Nat × α)
  | [], k, v => [(k, v)]
  | (j, w) :: r, k, v =>
    if k = j then (k, v) :: r else if k < j then (k, v) :: (j, w) :: r else (j, w) :: mput r k v

/-- Entry `k` of a collection whose unlisted entries are `d`. -/
def sget {α : Type} (d : α) (m : Sparse α) (k : Nat) : α := (mget m k).getD d

/-- Entry `k` set to `v`; an entry equal to the default is not listed. -/
def sset {α : Type} [DecidableEq α] (d : α) (m : Sparse α) (k : Nat) (v : α) : Sparse α :=
  if v = d then mdel m k else mput m k v

/-- Entry `k` changed by `f`. -/
def supd {α : Type} [DecidableEq α] (d : α) (m : Sparse α) (k : Nat) (f : α → α) : Sparse α :=
  sset d m k (f (sget d m k))

/-- Entry `k` changed by `f` where it is listed. -/
def mupd {α : Type} (m : List (Nat × α)) (k : Nat) (f : α → α) : List (Nat × α) :=
  match mget m k with
  | some v => mput m k (f v)
  | none => m

/-- Numbers strictly rising. -/
def risingFrom {α : Type} : Nat → List (Nat × α) → Bool
  | _, [] => true
  | n, (k, _) :: r => n ≤ k && risingFrom (k + 1) r

/-- The canonical form of a collection with default `d`. -/
def Sparse.wf {α : Type} [DecidableEq α] (d : α) (m : Sparse α) : Bool :=
  risingFrom 0 m && m.all (fun e => !decide (e.2 = d))

/-- The canonical form of byte storage: rising addresses and no byte 0. -/
def Memory.wf (m : Memory) : Bool := Sparse.wf (0 : Byte) m

/-- One byte of a storage (an unlisted address reads 0). -/
def Memory.byte (m : Memory) (a : Nat) : Byte := sget 0 m a

def Memory.put (m : Memory) (a : Nat) (b : Byte) : Memory := sset 0 m a b

/-- `n` bytes from address `a`. -/
def Memory.bytes (m : Memory) (a : Nat) : Nat → List Byte
  | 0 => []
  | n + 1 => Memory.byte m a :: Memory.bytes m (a + 1) n

def Memory.putBytes (m : Memory) (a : Nat) : List Byte → Memory
  | [] => m
  | b :: r => Memory.putBytes (Memory.put m a b) (a + 1) r

/-- The number whose bytes, lowest first (R2), are `bs`. -/
def natOfBytes : List Byte → Nat
  | [] => 0
  | b :: r => b.toNat + 256 * natOfBytes r

/-- Bits [lo + n - 1 : lo] of a number. -/
def bitsOf (v lo n : Nat) : Nat := v / 2 ^ lo % 2 ^ n

/-- The bits of lane set `m` in ascending order, below width `w`. -/
def laneList (m : Lanes) (w : Nat) : List Nat := (List.range w).filter (fun l => m.getLsbD l)

/-- The lane set of a list. -/
def laneSet : List Nat → Lanes
  | [] => 0
  | l :: r => laneSet r ||| (1#64 <<< l)

/-- Lanes 0 to n − 1. -/
def firstLanes (n : Nat) : Lanes := BitVec.ofNat 64 (2 ^ n - 1)

def popcount (m : Lanes) : Nat := (laneList m 64).length

/-- The lowest set bit, or `none` of an empty set. -/
def lowest (m : Lanes) : Option Nat := (laneList m 64).head?

end Sys2Proof.Machine
end

