-- ==== Sys2Proof/Machine/Floats.lean ====
section
/-! DEFINITION. The formats of Values (R30-R55): exact values, rounding, special values, the block and dithered codes,
and the accumulator element (R57-R59). -/
namespace Sys2Proof.Machine

/-- IEEE flags (R42). -/
abbrev FFlags := BitVec 5
def fNV : FFlags := 16
def fDZ : FFlags := 8
def fOF : FFlags := 4
def fUF : FFlags := 2
def fNX : FFlags := 1

/-- A floating-point format (R33): exponent bits, significand bits, bias; E4M3 has no infinity (R34). -/
structure FFmt where
  eb : Nat
  t : Nat
  bias : Int
  e4m3 : Bool
  deriving DecidableEq, Repr

def fp32 : FFmt := { eb := 8, t := 23, bias := 127, e4m3 := false }
def fp16 : FFmt := { eb := 5, t := 10, bias := 15, e4m3 := false }
def bf16 : FFmt := { eb := 8, t := 7, bias := 127, e4m3 := false }
def e4m3 : FFmt := { eb := 4, t := 3, bias := 7, e4m3 := true }
def e5m2 : FFmt := { eb := 5, t := 2, bias := 15, e4m3 := false }

/-- The float format of a `fmt` code 0-4 (R30). -/
def floatFmt : Nat → FFmt
  | 0 => fp32
  | 1 => fp16
  | 2 => bf16
  | 3 => e4m3
  | _ => e5m2

/-- Rounding modes (R36). -/
inductive RMode where
  | rne | rtz | rup | rdn
  deriving DecidableEq, Repr

def rmode (b : BitVec 2) : RMode :=
  match b.toNat with
  | 0 => .rne
  | 1 => .rtz
  | 2 => .rup
  | _ => .rdn

/-- A value: NaN with its sign, quietness and payload (left-aligned to 23 bits), an infinity, or (−1)^neg · m · 2^e. -/
inductive FV where
  | nan (neg quiet : Bool) (pay : Nat)
  | inf (neg : Bool)
  | fin (neg : Bool) (m : Nat) (e : Int)
  deriving DecidableEq, Repr

/-- The significand field that is the format's largest, and its quantum exponent. -/
def FFmt.maxSig (F : FFmt) : Nat := if F.e4m3 then 14 else 2 ^ (F.t + 1) - 1
def FFmt.qmax (F : FFmt) : Int := (if F.e4m3 then 8 else F.bias) - F.t
def FFmt.qmin (F : FFmt) : Int := 1 - F.bias - F.t
def FFmt.width (F : FFmt) : Nat := 1 + F.eb + F.t
def FFmt.expOnes (F : FFmt) : Nat := 2 ^ F.eb - 1
def FFmt.signBit (F : FFmt) (neg : Bool) : Nat := if neg then 2 ^ (F.eb + F.t) else 0
/-- The code of the largest finite value (R33). -/
def FFmt.maxCode (F : FFmt) : Nat := if F.e4m3 then 0x7E else F.expOnes * 2 ^ F.t - 1
/-- The default NaN (R35). -/
def FFmt.defaultNaN (F : FFmt) : Nat := F.expOnes * 2 ^ F.t + (if F.e4m3 then 7 else 2 ^ (F.t - 1))
def FFmt.infCode (F : FFmt) : Nat := F.expOnes * 2 ^ F.t

/-- The value of a code (R33, R34). -/
def FFmt.decode (F : FFmt) (b : Nat) : FV :=
  let neg := b / 2 ^ (F.eb + F.t) % 2 = 1
  let e := b / 2 ^ F.t % 2 ^ F.eb
  let m := b % 2 ^ F.t
  if F.e4m3 then
    if e = 15 && m = 7 then .nan neg true (m * 2 ^ (23 - F.t))
    else if e = 0 then .fin neg m F.qmin else .fin neg (2 ^ F.t + m) ((e : Int) - F.bias - F.t)
  else if e = F.expOnes then
    if m = 0 then .inf neg else .nan neg (decide (2 ^ (F.t - 1) ≤ m)) (m * 2 ^ (23 - F.t))
  else if e = 0 then .fin neg m F.qmin
  else .fin neg (2 ^ F.t + m) ((e : Int) - F.bias - F.t)

/-- m · 2^−sh rounded to an integer in mode `r` (m · 2^−sh lies `st`-sticky below the value): the integer and whether
it is inexact. -/
def roundMag (r : RMode) (neg : Bool) (m : Nat) (sh : Int) (st : Bool) : Nat × Bool :=
  if sh ≤ 0 then
    let q := m * 2 ^ (-sh).toNat
    (if st && ((r = .rup && !neg) || (r = .rdn && neg)) then q + 1 else q, st)
  else
    let k := sh.toNat
    let q := m / 2 ^ k
    let rem := m % 2 ^ k
    let half := 2 ^ (k - 1)
    let inexact := rem ≠ 0 || st
    let up : Bool :=
      match r with
      | .rne => decide (half < rem) || (decide (rem = half) && (st || decide (q % 2 = 1)))
      | .rtz => false
      | .rup => inexact && !neg
      | .rdn => inexact && neg
    (if up then q + 1 else q, inexact)

/-- The code and flags of an overflow (R37). -/
def FFmt.overflow (F : FFmt) (r : RMode) (sat neg : Bool) : Nat × FFlags :=
  let toMax : Bool := sat || (match r with
    | .rne => false
    | .rtz => true
    | .rup => neg
    | .rdn => !neg)
  let c := if toMax then F.maxCode else if F.e4m3 then F.defaultNaN else F.infCode
  (F.signBit neg + c, fOF ||| fNX)

/-- `Round(x, mode)` to a format, with its flags (R37, R38); x = (−1)^neg · (m + sticky) · 2^e. -/
def FFmt.round (F : FFmt) (r : RMode) (sat neg : Bool) (m : Nat) (e : Int) (st : Bool) : Nat × FFlags :=
  if m = 0 && !st then (F.signBit neg, 0)
  else
    let top : Int := e + Nat.log2 m
    let q := max (top - F.t) F.qmin
    let (s, inx) := roundMag r neg m (q - e) st
    let above : Bool := decide (F.qmax < q && (2 ^ F.t ≤ s)) || decide (q = F.qmax && F.maxSig < s)
    if above then F.overflow r sat neg
    else
      let emin := 1 - F.bias
      let tiny : Bool :=
        if top < emin - 1 then true
        else if top = emin - 1 then decide ((roundMag r neg m (top - F.t - e) st).1 < 2 ^ (F.t + 1))
        else false
      (F.signBit neg + ((q - F.qmin).toNat * 2 ^ F.t + s),
        (if inx then fNX else 0) ||| (if tiny && inx then fUF else 0))

/-- The quiet NaN with a sign and payload (R40, R41). -/
def FFmt.nanCode (F : FFmt) (neg : Bool) (pay : Nat) : Nat :=
  if F.e4m3 then F.signBit neg + 0x7F
  else F.signBit neg + F.infCode + (pay / 2 ^ (23 - F.t)) ||| 2 ^ (F.t - 1)

/-- A value converted to a format (R37, R41). -/
def FFmt.encode (F : FFmt) (r : RMode) (sat : Bool) : FV → Nat × FFlags
  | .nan neg q p => (F.nanCode neg p, if q then 0 else fNV)
  | .inf neg =>
    if F.e4m3 then (F.signBit neg + (if sat then F.maxCode else 0x7F), fNV) else (F.signBit neg + F.infCode, 0)
  | .fin neg m e => F.round r sat neg m e false

def FV.isNaN : FV → Bool
  | .nan _ _ _ => true
  | .inf _ | .fin _ _ _ => false

def FV.isSNaN : FV → Bool
  | .nan _ q _ => !q
  | .inf _ | .fin _ _ _ => false

def FV.isInf : FV → Bool
  | .inf _ => true
  | .nan _ _ _ | .fin _ _ _ => false

def FV.isZero : FV → Bool
  | .fin _ m _ => m = 0
  | .nan _ _ _ | .inf _ => false

def FV.neg : FV → Bool
  | .nan n _ _ | .inf n | .fin n _ _ => n

/-- The NaN result of operands with a NaN among them, in operand order (R40). -/
def FFmt.nanOf (F : FFmt) (vs : List FV) : Option (Nat × FFlags) :=
  match vs.find? FV.isNaN with
  | some (.nan n _ p) => some (F.nanCode n p, if vs.any FV.isSNaN then fNV else 0)
  | some _ | none => none

/-- The signed exact sum of two finite values. -/
def sumFin (n1 : Bool) (m1 : Nat) (e1 : Int) (n2 : Bool) (m2 : Nat) (e2 : Int) : Int × Int :=
  let e := min e1 e2
  let a : Int := m1 * 2 ^ (e1 - e).toNat
  let b : Int := m2 * 2 ^ (e2 - e).toNat
  ((if n1 then -a else a) + (if n2 then -b else b), e)

/-- The sign of an exact zero sum (R37). -/
def zeroSign (r : RMode) (n1 n2 : Bool) : Bool := if n1 = n2 then n1 else r = .rdn

def FFmt.addV (F : FFmt) (r : RMode) (sat : Bool) (x y : FV) : Nat × FFlags :=
  match F.nanOf [x, y] with
  | some z => z
  | none =>
    match x, y with
    | .inf n1, .inf n2 => if n1 = n2 then (F.signBit n1 + F.infCode, 0) else (F.defaultNaN, fNV)
    | .inf n, _ => (F.signBit n + F.infCode, 0)
    | _, .inf n => (F.signBit n + F.infCode, 0)
    | .fin n1 m1 e1, .fin n2 m2 e2 =>
      let (v, e) := sumFin n1 m1 e1 n2 m2 e2
      if v = 0 then (F.signBit (zeroSign r n1 n2), 0) else F.round r sat (decide (v < 0)) v.natAbs e false
    | _, _ => (F.defaultNaN, fNV)

def FV.negate : FV → FV
  | .nan n q p => .nan n q p
  | .inf n => .inf (!n)
  | .fin n m e => .fin (!n) m e

def FFmt.mulV (F : FFmt) (r : RMode) (sat : Bool) (x y : FV) : Nat × FFlags :=
  match F.nanOf [x, y] with
  | some z => z
  | none =>
    match x, y with
    | .fin n1 m1 e1, .fin n2 m2 e2 => F.round r sat (n1 != n2) (m1 * m2) (e1 + e2) false
    | a, b =>
      if a.isZero || b.isZero then (F.defaultNaN, fNV) else (F.signBit (a.neg != b.neg) + F.infCode, 0)

/-- A · B + C with one rounding (R204). -/
def FFmt.fmaV (F : FFmt) (r : RMode) (sat : Bool) (x y z : FV) : Nat × FFlags :=
  let zeroInf := (x.isZero && y.isInf) || (x.isInf && y.isZero)
  match F.nanOf [x, y, z] with
  | some (b, f) => (b, if zeroInf then f ||| fNV else f)
  | none =>
    if zeroInf then (F.defaultNaN, fNV)
    else
      let pn := x.neg != y.neg
      if x.isInf || y.isInf then
        match z with
        | .inf n => if n = pn then (F.signBit pn + F.infCode, 0) else (F.defaultNaN, fNV)
        | _ => (F.signBit pn + F.infCode, 0)
      else
        match x, y, z with
        | _, _, .inf n => (F.signBit n + F.infCode, 0)
        | .fin _ m1 e1, .fin _ m2 e2, .fin n3 m3 e3 =>
          let (v, e) := sumFin pn (m1 * m2) (e1 + e2) n3 m3 e3
          if v = 0 then (F.signBit (zeroSign r pn n3), 0) else F.round r sat (decide (v < 0)) v.natAbs e false
        | _, _, _ => (F.defaultNaN, fNV)

def FFmt.divV (F : FFmt) (r : RMode) (sat : Bool) (x y : FV) : Nat × FFlags :=
  match F.nanOf [x, y] with
  | some z => z
  | none =>
    let n := x.neg != y.neg
    match x, y with
    | .fin _ m1 e1, .fin _ m2 e2 =>
      if m2 = 0 then (if m1 = 0 then (F.defaultNaN, fNV) else (F.signBit n + F.infCode, fDZ))
      else
        let k := F.t + 4 + Nat.log2 m2
        F.round r sat n (m1 * 2 ^ k / m2) (e1 - e2 - k) (decide (m1 * 2 ^ k % m2 ≠ 0))
    | .inf _, .inf _ => (F.defaultNaN, fNV)
    | .inf _, _ => (F.signBit n + F.infCode, 0)
    | _, _ => (F.signBit n, 0)

/-- ⌊√n⌋ of a number below 4^k, two bits at a time. -/
def isqrt : Nat → Nat → Nat
  | 0, _ => 0
  | k + 1, n =>
    let r := 2 * isqrt k (n / 4)
    if (r + 1) * (r + 1) ≤ n then r + 1 else r

/-- The correctly rounded square root (R205). -/
def FFmt.sqrtV (F : FFmt) (r : RMode) (x : FV) : Nat × FFlags :=
  match F.nanOf [x] with
  | some z => z
  | none =>
    match x with
    | .inf n => if n then (F.defaultNaN, fNV) else (F.infCode, 0)
    | .fin n m e =>
      if m = 0 then (F.signBit n, 0)
      else if n then (F.defaultNaN, fNV)
      else
        let s : Nat := 2 * F.t + 8 + (e % 2).toNat
        let v := m * 2 ^ s
        let q := isqrt (v.log2 / 2 + 1) v
        F.round r false false q ((e - s) / 2) (decide (q * q ≠ v))
    | .nan _ _ _ => (F.defaultNaN, fNV)

/-- A · 2^k (R204); beyond ±4096 every finite non-zero result has already overflowed or is below every format. -/
def FFmt.scaleV (F : FFmt) (r : RMode) (sat : Bool) (x : FV) (k : Int) : Nat × FFlags :=
  match F.nanOf [x] with
  | some z => z
  | none =>
    match x with
    | .fin n m e => F.round r sat n m (e + max (-4096) (min 4096 k)) false
    | v => (F.signBit v.neg + F.infCode, 0)

/-- The order of two non-NaN values with −0 below +0 (R40): −1, 0 or 1. `zeros` tells −0 from +0. -/
def FV.cmp (zeros : Bool) : FV → FV → Int
  | .inf n1, .inf n2 => if n1 = n2 then 0 else if n1 then -1 else 1
  | .inf n, _ => if n then -1 else 1
  | _, .inf n => if n then 1 else -1
  | .fin n1 m1 e1, .fin n2 m2 e2 =>
    let v := (sumFin n1 m1 e1 (!n2) m2 e2).1
    if v < 0 then -1 else if 0 < v then 1
    else if zeros && n1 != n2 && m1 = 0 then (if n1 then -1 else 1) else 0
  | _, _ => 0

/-- IEEE minimum (`mx` false) or maximum of two codes (R40, R205). -/
def FFmt.minmax (F : FFmt) (mx : Bool) (a b : Nat) : Nat × FFlags :=
  let x := F.decode a
  let y := F.decode b
  match F.nanOf [x, y] with
  | some z => z
  | none => (if (FV.cmp true x y ≤ 0) != mx then a else if FV.cmp true x y = 0 then a else b, 0)

/-- A value rounded to an integer of range [lo, hi], with the flags of R39. -/
def toIntCode (r : RMode) (lo hi : Int) : FV → Int × FFlags
  | .nan _ _ _ => (0, fNV)
  | .inf n => (if n then lo else hi, fNV)
  | .fin n m e =>
    let (q, inx) := roundMag r n m (-e) false
    let v : Int := if n then -(q : Int) else q
    if v < lo then (lo, fOF ||| fNX) else if hi < v then (hi, fOF ||| fNX) else (v, if inx then fNX else 0)

/-- The integral value nearest to x, in the same format (R205). -/
def FFmt.rnd (F : FFmt) (r : RMode) (b : Nat) : Nat × FFlags :=
  match F.decode b with
  | .nan n q p => (F.nanCode n p, if q then 0 else fNV)
  | .inf _ => (b, 0)
  | .fin n m e =>
    if 0 ≤ e then (b, 0)
    else ((F.round .rtz true n (roundMag r n m (-e) false).1 0 false).1, 0)

/-- An integer as a value. -/
def FV.ofInt (v : Int) : FV := .fin (decide (v < 0)) v.natAbs 0

/-- v · 2^k. -/
def FV.scale (k : Int) : FV → FV
  | .fin n m e => .fin n m (e + k)
  | v => v

/-! Dither (R52). -/

def mix (x : Word) : Word :=
  let x := x ^^^ (x >>> 15)
  let x := x * 0x5A3C96E5
  let x := x ^^^ (x >>> 11)
  let x := x * 0xB7D12C4B
  x ^^^ (x >>> 14)

/-- The three top bits of h (R52): the dither offset is (ditherTop − 4) / 8. -/
def ditherTop (key c0 c1 c2 : Word) : Nat := (mix (key ^^^ mix (c0 ^^^ mix (c1 ^^^ mix c2))) >>> 29).toNat

/-- The dithered code of a value (R54): scale 2^(e − 127), code range [lo, hi]. -/
def ditherCode (r : RMode) (lo hi : Int) (sce : Nat) (top : Nat) : FV → Int × FFlags
  | .fin n m e =>
    -- x / s + d, over the common denominator 8
    let (v, q) := sumFin n m (e - (sce : Int) + 127) (decide (top < 4)) (if top < 4 then 4 - top else top - 4) (-3)
    toIntCode r lo hi (.fin (decide (v < 0)) v.natAbs q)
  | v => toIntCode r lo hi v

/-- The value of a dithered code (R54): 2^(e − 127) · (8 q − top + 4) / 8. -/
def ditherValue (sce top : Nat) (q : Int) : FV :=
  (FV.ofInt (8 * q - top + 4)).scale ((sce : Int) - 127 - 3)

/-! Element formats (R30). -/

/-- Bits of an element (R30), 0 for a code that is not listed. -/
def fmtBits (f : Nat) : Nat :=
  match f with
  | 0x00 | 0x08 => 32
  | 0x01 | 0x02 | 0x09 => 16
  | 0x03 | 0x04 | 0x0A | 0x10 | 0x14 | 0x18 => 8
  | 0x11 => 6
  | 0x0B | 0x12 | 0x15 | 0x19 => 4
  | 0x0C => 2
  | _ => 0

/-- Bytes of a block (R30), 0 for an element format. -/
def blockBytes (f : Nat) : Nat :=
  match f with
  | 0x10 | 0x14 => 34
  | 0x11 => 26
  | 0x12 | 0x15 => 18
  | _ => 0

def isFloat (f : Nat) : Bool := f ≤ 4
def isInt (f : Nat) : Bool := 8 ≤ f && f ≤ 0x0C
def isPB (f : Nat) : Bool := f = 0x10 || f = 0x11 || f = 0x12
def isAQ (f : Nat) : Bool := f = 0x14 || f = 0x15
def isD (f : Nat) : Bool := f = 0x18 || f = 0x19

/-- Range of an n-bit two's-complement code (R45). -/
def qlo (n : Nat) : Int := -(2 ^ (n - 1) : Nat)
def qhi (n : Nat) : Int := (2 ^ (n - 1) : Nat) - 1

/-- An n-bit number read as two's complement (`SignExtend`, R11). -/
def signExt (v n : Nat) : Int := if v % 2 ^ n < 2 ^ (n - 1) then (v % 2 ^ n : Nat) else (v % 2 ^ n : Nat) - (2 ^ n : Nat)

/-- The value of an element code of a PB block under its header (R47); none when malformed (R48). -/
def pbValue (n hdr code : Nat) : Option FV :=
  let E := if bitsOf code (n - 1) 1 = 1 then bitsOf hdr 8 8 else bitsOf hdr 0 8
  if E = 0xFF then none
  else some (.fin (bitsOf code (n - 2) 1 = 1) (bitsOf code 0 (n - 2)) ((E : Int) - 127))

/-- The value of an AQ code under its header (R50); none when malformed. -/
def aqValue (n hdr code : Nat) : Option FV :=
  if bitsOf hdr 0 8 = 0xFF then none
  else some ((FV.ofInt (signExt code n - signExt (bitsOf hdr 8 8) 8)).scale ((bitsOf hdr 0 8 : Int) - 127))

/-- The value of an element's bits: its header for a block format, its dither top bits for a D code; none when a block
element is malformed. -/
def elemValue (f hdr sce top code : Nat) : Option FV :=
  if isFloat f then some ((floatFmt f).decode code)
  else if isInt f then some (FV.ofInt (signExt code (fmtBits f)))
  else if isPB f then pbValue (fmtBits f) hdr code
  else if isAQ f then aqValue (fmtBits f) hdr code
  else some (ditherValue sce top (signExt code (fmtBits f)))

/-- The code of a value in an element format that is not a block format (R37, R39, R41, R54). -/
def elemCode (f sce top : Nat) (r : RMode) (v : FV) : Nat × FFlags :=
  let n := fmtBits f
  if isFloat f then (floatFmt f).encode r false v
  else
    let (q, fl) := if isD f then ditherCode r (qlo n) (qhi n) sce top v else toIntCode r (qlo n) (qhi n) v
    ((BitVec.ofInt n q).toNat, fl)

/-- `Round(|x| / 2^k, R)` of a finite value. -/
def roundAbs (r : RMode) (neg : Bool) (m : Nat) (e k : Int) : Nat × Bool := roundMag r neg m (k - e) false

/-- The least E of `lo` … 254 with `ok`, or 254. -/
def leastExp (lo : Nat) (ok : Nat → Bool) : Nat :=
  ((List.range (255 - lo)).find? (fun i => ok (lo + i))).elim 254 (lo + ·)

/-- The magnitude order of two finite values. -/
def absLt (m1 : Nat) (e1 : Int) (m2 : Nat) (e2 : Int) : Bool :=
  let e := min e1 e2
  decide (m1 * 2 ^ (e1 - e).toNat < m2 * 2 ^ (e2 - e).toNat)

/-- The finite value of greatest magnitude, or 0. -/
def maxAbs : List FV → Nat × Int
  | [] => (0, 0)
  | .fin _ m e :: r =>
    let (m', e') := maxAbs r
    if absLt m' e' m e then (m, e) else (m', e')
  | _ :: r => maxAbs r

/-- A PB block of 32 values (R49): header, codes and flags. -/
def pbEncode (n : Nat) (r : RMode) (xs : List FV) : Nat × List Nat × FFlags :=
  let mmax := 2 ^ (n - 2) - 1
  let (M, Me) := maxAbs xs
  let e0 := leastExp 0 (fun E => decide ((roundAbs r false M Me ((E : Int) - 127)).1 ≤ mmax))
  let e1 := e0 - (n - 2)
  let enc : FV → Nat × FFlags := fun v =>
    match v with
    | .fin neg m e =>
      let (g1, i1) := roundAbs r neg m e ((e1 : Int) - 127)
      let (g0, i0) := roundAbs r neg m e ((e0 : Int) - 127)
      let sg := if neg then 2 ^ (n - 2) else 0
      if g1 ≤ mmax then (2 ^ (n - 1) + sg + g1, if i1 then fNX else 0)
      else if g0 ≤ mmax then (sg + g0, if i0 then fNX else 0)
      else (sg + mmax, fOF ||| fNX)
    | .nan _ _ _ => (0, fNV)
    | .inf neg => ((if neg then 2 ^ (n - 2) else 0) + mmax, fNV)
  let cs := xs.map enc
  (e1 * 256 + e0, cs.map (·.1), cs.foldl (fun f c => f ||| c.2) 0)

/-- The order of two finite values, for the extremes of an AQ block. -/
def finLt : FV → FV → Bool
  | a, b => decide (FV.cmp false a b < 0)

/-- An AQ block of 32 values (R51): header, codes and flags. -/
def aqEncode (n : Nat) (r : RMode) (xs : List FV) : Nat × List Nat × FFlags :=
  let fins := xs.filter (fun v => !v.isNaN && !v.isInf)
  let lo := fins.foldl (fun a v => if finLt v a then v else a) (fins.headD (.fin false 0 0))
  let hi := fins.foldl (fun a v => if finLt a v then v else a) (fins.headD (.fin false 0 0))
  let span : Int × Int :=
    match hi, lo with
    | .fin n1 m1 e1, .fin n2 m2 e2 => sumFin n1 m1 e1 (!n2) m2 e2
    | _, _ => (0, 0)
  let sc := leastExp 0 (fun S =>
    !absLt (2 ^ n - 1) ((S : Int) - 127) span.1.natAbs span.2)
  let rdiv : FV → Int × Bool := fun v =>
    match v with
    | .fin neg m e =>
      let (q, i) := roundAbs r neg m e ((sc : Int) - 127)
      (if neg then -(q : Int) else q, i)
    | _ => (0, false)
  -- Round(qmin − lo / 2^(sc−127)): the exact difference is rounded
  let z : Int :=
    match lo with
    | .fin neg m e =>
      let (v, q) := sumFin true (2 ^ (n - 1)) 0 (!neg) m (e - ((sc : Int) - 127))
      max (-128) (min 127 (toIntCode r (-(2 ^ 40)) (2 ^ 40) (.fin (decide (v < 0)) v.natAbs q)).1)
    | _ => 0
  let enc : FV → Nat × FFlags := fun v =>
    match v with
    | .fin _ _ _ =>
      let (q, i) := rdiv v
      let c := q + z
      let c' := max (qlo n) (min (qhi n) c)
      ((BitVec.ofInt n c').toNat, if c' ≠ c then fOF ||| fNX else if i then fNX else 0)
    | .nan _ _ _ => (0, fNV)
    | .inf neg => ((BitVec.ofInt n (if neg then qlo n else qhi n)).toNat, fNV)
  let cs := xs.map enc
  ((BitVec.ofInt 8 z).toNat * 256 + sc, cs.map (·.1), cs.foldl (fun f c => f ||| c.2) 0)

/-! Accumulator elements (R57-R59). -/

def elSum (x : BitVec 72) : Int := signExt (x.toNat % 2 ^ 64) 64
def elOv (x : BitVec 72) : Bool := x.getLsbD 64
def elNan (x : BitVec 72) : Bool := x.getLsbD 65
def elPinf (x : BitVec 72) : Bool := x.getLsbD 66
def elNinf (x : BitVec 72) : Bool := x.getLsbD 67

/-- One block product S added under exponents eA + eB and anchor A (R58): the element, and whether the right shift was
inexact or the product did not fit. -/
def addBlock (x : BitVec 72) (S : Int) (ea eb anchor : Nat) : BitVec 72 × FFlags :=
  let sh : Int := (ea : Int) + eb - anchor
  let (mag, inx) := roundMag .rne (decide (S < 0)) S.natAbs (-sh) false
  let t : Int := if S < 0 then -(mag : Int) else mag
  let nx := if inx then fNX else 0
  if t < -(2 ^ 63) || 2 ^ 63 - 1 < t then (x ||| 1#72 <<< 64, nx ||| fOF)
  else
    let low := (BitVec.ofInt 64 (elSum x + t)).zeroExtend 72
    (((x >>> 64) <<< 64) ||| low, nx)

/-- Sticky bits of R57 set: bit 65 `nan`, 66 `pinf`, 67 `ninf`. -/
def stick (x : BitVec 72) (b : Nat) : BitVec 72 := x ||| 1#72 <<< b

/-- Read-out of an element to a float format (R59). -/
def readFloat (F : FFmt) (anchor : Nat) (x : BitVec 72) : Nat × FFlags :=
  if elNan x then (F.defaultNaN, if elPinf x && elNinf x then fNV else 0)
  else if elPinf x && elNinf x then (F.defaultNaN, fNV)
  else if elPinf x then (F.infCode, 0)
  else if elNinf x then (F.signBit true + F.infCode, 0)
  else if elOv x then (F.defaultNaN, fNV)
  else F.round .rne false (decide (elSum x < 0)) (elSum x).natAbs ((anchor : Int) - 254) false

/-- Read-out of an element to an n-bit D code (R59). -/
def readD (n sce top anchor : Nat) (x : BitVec 72) : Int × FFlags :=
  if elNan x then (0, if elPinf x && elNinf x then fNV else 0)
  else if elPinf x && elNinf x then (0, fNV)
  else if elPinf x then (qhi n, fNV)
  else if elNinf x then (qlo n, fNV)
  else if elOv x then (0, fNV)
  else ditherCode .rne (qlo n) (qhi n) sce top (.fin (decide (elSum x < 0)) (elSum x).natAbs ((anchor : Int) - 254))

end Sys2Proof.Machine
end

