-- ==== Sys2Proof/Config.lean ====
section
/-! DEFINITION. The free values of the model: what the manual leaves open, as constants without a body, and the fixed
sizes of the package. -/
namespace Sys2Proof

/-- Which agent acts when the agenda names none (notes/assumptions/1.md). -/
opaque Config.freeTurn : Nat → Machine.Turn

/-- Byte `i` of the 16-byte unit numbered `unit` read under key `k` where it holds `bs` written under another key `k'`
(R26, notes/assumptions/5.md). -/
opaque Config.cipher (k k' unit : Nat) (bs : List Byte) (i : Nat) : Byte

/-- Whether an L1 still holds a sector it was given (R119, R266, notes/assumptions/7.md). -/
opaque Config.l1Kept (tick core addr : Nat) : Bool

/-- Which page entry an access uses where a translation cache holds older ones: 0 the table's, k the k-th held
(R251, notes/assumptions/8.md). -/
opaque Config.tlbOld (tick obj page : Nat) : Nat

/-- Installed bytes of DDR-5 channel `m`, before the limit of R403. -/
opaque Config.installed (m : Nat) : Nat

/-- Whether an L2 holds a sector of host memory that is not dirty (R268; no rule says when, notes/assumptions/18.md). -/
opaque Config.l2Has (tick sec : Nat) : Bool

/-- Whether a dirty host-memory line has been written back by an eviction (R267, notes/assumptions/18.md). -/
opaque Config.evicted : Nat → Bool

/-- The FP32 result bits of the SFU function numbered `f` (0 FRCP … 6 FTANH) where R208 gives only a bound, which the model
holds it to (notes/assumptions/9.md). -/
opaque Config.sfu (f : Nat) (a : Word) : Word

/-- The value taken by a field of a derived record whose new value `v` does not fit the field at bit `lo`
(notes/assumptions/19.md). -/
opaque Config.unfit (lo v : Nat) : Nat

/-- Where, in each 16 slots of a pipe or cycles of an engine, the withheld ones begin (R392 says only how many,
notes/assumptions/106.md). -/
opaque Config.withholdFrom (w : Nat) : Nat

/-- Word `a` of the 4,096 words of microcode in a command sequencer's control store (R129): the device's own
(notes/assumptions/129.md). -/
opaque Config.controlStore (a : Nat) : BitVec 96

/-- Bytes of the SHA-384 measurement `index` of R397, over what the management block measures. -/
opaque Config.measure (index : Nat) (words : List (BitVec 128)) : BitVec 384

/-- Grid dimension j that a group launched by a paddock reads (R155 gives none; notes/assumptions/21.md). -/
opaque Config.nodeDim (j : Nat) : Nat

/-- The code of element `i` of the block at `blk` that lies beyond its row's last element (R49, R51 state none). -/
opaque Config.padCode (blk i : Nat) : Nat

/-- The header of the destination block at `blk` of a copy between equal block formats whose elements come from source
blocks with several headers `hs` (R240 copies the bits of elements and states none, notes/assumptions/34.md). -/
opaque Config.mixedHeader (blk : Nat) (hs : List Nat) : Nat

/-- The record copied for slot `i` of an outrider binding table that cannot be read (R156 gives none), with its tag. -/
opaque Config.strayBind (tick i : Nat) : BitVec 256 × Bool

/-- The compute die whose share of the brand table holds an entry (R395 clears it by die; R293 states no rule). -/
opaque Config.brandDie (entry : Nat) : Nat

/-- Byte `a` of the block memory of a block that has exited, which a loop or a copy still running reads: its room is free
and R141 does not say what stands there (notes/assumptions/105.md). -/
opaque Config.goneByte (tick b a : Nat) : Byte

/-- Byte `i` of a save area as the device writes it: its layout is private (R109, notes/assumptions/10.md). -/
opaque Config.saveByte (tick i : Nat) : Byte

/-- Where the records of rein slots begin among those of a save area, in units of 256 bytes: their order is private (R109,
notes/assumptions/10.md). -/
opaque Config.slotRecords (tick : Nat) : Nat

/-- The result of R99 that a PREEMPT shows whose context a forced reset has destroyed (no rule states it;
notes/assumptions/130.md). -/
opaque Config.lostResult (tick : Nat) : Fin 10

namespace Config

/-- Counts of R15, R16, R18, R110, R97. -/
def clusters : Nat := 32
def coresPerCluster : Nat := 12
def cores : Nat := 384
def slices : Nat := 48
def reins : Nat := 32
def queues : Nat := 256
def contexts : Nat := 1024

/-- The compute die of a cluster (R15). -/
def dieOfCluster (c : Nat) : Nat := c / 8

/-- The cluster of a core (R15). -/
def clusterOf (core : Nat) : Nat := core / 12

def dieOfCore (core : Nat) : Nat := dieOfCluster (clusterOf core)

/-- Register-pool bytes of a split code (R17). -/
def regBytes (split : Nat) : Nat := (256 + 64 * split) * 1024

/-- Level-one cache bytes of a split code (R17). -/
def l1Bytes (split : Nat) : Nat := (384 - 64 * split) * 1024

end Config
end Sys2Proof
end

