-- ==== Sys2Proof/WellFormed.lean ====
section
/-! DEFINITION. Which field values are instructions (R74-R89, R177, R379): the checks that raise ILLEGAL_ENCODING whatever
the state of the group. Checks that need the group (its width, windows, registers) are made when the word issues. -/
namespace Sys2Proof

/-- A destination vector code: the queue alone (0x00) or a named register (R74). -/
def vdest (d : BitVec 7) : Bool := d = 0 || 0x10 ≤ d.toNat

/-- A swizzle code R77 lists. -/
def swzOk (s : BitVec 6) : Bool :=
  match (s.extractLsb' 4 2).toNat with
  | 2 => (s.extractLsb' 0 4).toNat ≤ 5
  | 3 => (s.extractLsb' 0 4).toNat ≤ 1
  | _ => true

/-- The modifier word of an instruction that reads A (`a`), B (`b`) and C (`c`) as vector operands (R70, R77). -/
def modOk (a b c : Bool) (m : Mod) : Bool :=
  (if a then swzOk m.swzA else m.swzA = 0) && (if b then swzOk m.swzB else m.swzB = 0) &&
  (if c then swzOk m.swzC else m.swzC = 0 && m.codeC = 0)

def optModOk (a b : Bool) : Option Mod → Bool
  | none => true
  | some m => modOk a b false m

/-- A VR3 instruction with a vector destination and A and B (R82). -/
def wf2 (d : BitVec 7) (m : Option Mod) : Bool := vdest d && optModOk true true m

/-- A VR3 instruction with a vector destination and A alone. -/
def wf1 (d : BitVec 7) (m : Option Mod) : Bool := vdest d && optModOk true false m

def fmtOk (f : BitVec 2) : Bool := f ≠ 3

/-- Special registers SRD reads (R177). -/
def srdOk (n : BitVec 7) : Bool :=
  let v := n.toNat
  v ≤ 0x0C || (0x10 ≤ v && v ≤ 0x18) || v = 0x1C || v = 0x1D || (0x20 ≤ v && v ≤ 0x2A)

/-- Special registers SWR writes (R177). -/
def swrOk (n : BitVec 7) : Bool := n = 0x10 || (0x20 ≤ n.toNat && n.toNat ≤ 0x26)

/-- `ord` codes an instruction accepts (R72). -/
def ordAcq (o : BitVec 4) : Bool := o.toNat ≤ 5
def ordRel (o : BitVec 4) : Bool := o = 0 || (6 ≤ o.toNat && o.toNat ≤ 10)
def polOk (p : BitVec 4) : Bool := p.toNat ≤ 4

/-- Fields of `mod` (R71). -/
def MemWord.sel (w : MemWord) : Bool := w.mod.getLsbD 5
def MemWord.idx (w : MemWord) : Bool := w.mod.getLsbD 4
def MemWord.scl (w : MemWord) : Nat := (w.mod.extractLsb' 2 2).toNat
def MemWord.cnt (w : MemWord) : Nat := (w.mod.extractLsb' 0 2).toNat

/-- A load destination (R233): the queue alone only for one word. -/
def loadDest (w : MemWord) : Bool := 0x10 ≤ w.data.toNat || (w.data = 0 && w.cnt = 0)

/-- No ordering and no policy (R72, R85). -/
def plainExt (w : MemWord) : Bool := w.ord = 0 && w.pol = 0

/-- The second record field of a record instruction (R85): `data` bits [6:4] are zero. -/
def recData (w : MemWord) : Bool := (w.data.extractLsb' 4 3) = 0

def countOk (c : BitVec 15) : Bool := 1 ≤ c.toNat && c.toNat ≤ 16384

/-- The checks of R78 and R379 that depend on the words alone. -/
def wellFormed : Instr → Bool
  | .mtos d _ => d ≠ 0x7F
  | .srd _ n => srdOk n
  | .swr n _ => swrOk n
  | .winV n => n.toNat ≤ 29
  | .winS n => n.toNat ≤ 7
  | .vmov d _ m | .vabs d _ m | .vneg d _ m | .vnot d _ m | .vclz d _ m | .vpopc d _ m => wf1 d m
  | .vbcast d _ | .vlane d => vdest d
  | .vadd d _ _ m | .vsub d _ _ m | .vadds d _ _ m | .vsubs d _ _ m | .vmul d _ _ m | .vmulh d _ _ m
  | .vmulhu d _ _ m | .vmin d _ _ m | .vmax d _ _ m | .vminu d _ _ m | .vmaxu d _ _ m | .vand d _ _ m
  | .vor d _ _ m | .vxor d _ _ m | .vshl d _ _ m | .vshr d _ _ m | .vsar d _ _ m | .vbfx d _ _ m
  | .vlea _ d _ _ m | .perm d _ _ m => wf2 d m
  | .vmad d _ _ m | .vbfi d _ _ m => vdest d && modOk true true true m
  | .vcmp _ _ _ _ m | .fcmp _ _ _ _ m => optModOk true true m
  | .vsel d _ _ m =>
    vdest d && swzOk m.swzA && swzOk m.swzB && m.swzC = 0 && (m.codeC.extractLsb' 4 3) = 0
  | .fadd f d _ _ m | .fsub f d _ _ m | .fmul f d _ _ m | .fmin f d _ _ m | .fmax f d _ _ m | .fdiv f d _ _ m
  | .fscale f d _ _ m => fmtOk f && wf2 d m
  | .ffma f d _ _ m => fmtOk f && vdest d && modOk true true true m
  | .fabs d _ f m | .fneg d _ f m | .fclass d _ f m | .frnd d _ f m | .fsqrt d _ f m => fmtOk f && wf1 d m
  | .frcp d _ _ f m | .frsq d _ _ f m | .fexp2 d _ _ f m | .flog2 d _ _ f m | .fsin d _ _ f m
  | .fcos d _ _ f m | .ftanh d _ _ f m => fmtOk f && wf1 d m
  | .cvtff d _ y z m => y.toNat ≤ 4 && z.toNat ≤ 4 && y ≠ z && wf1 d m
  | .cvtfi d _ _ y z m | .cvtif d _ _ y z m => y.toNat ≤ 4 && z.toNat ≤ 2 && wf1 d m
  | .vflg d _ _ => vdest d
  | .pack8 _ d _ _ m => 0x10 ≤ d.toNat && optModOk true true m
  | .unpk8 _ d _ _ m => wf1 d m
  | .qswz d _ s m => s ≠ 3 && wf1 d m
  | .matchKeys _ _ m => optModOk true false m
  | .scan d _ _ t o m | .red d _ t o m =>
    t.toNat ≤ 2 && o.toNat ≤ 5 && (t ≠ 2 || o.toNat ≤ 2) && wf1 d m
  | .vmovi d _ | .vaddVri d _ _ | .vmulVri d _ _ | .vandVri d _ _ | .vorVri d _ _ | .vxorVri d _ _
  | .vminVri d _ _ | .vmaxVri d _ _ | .vminuVri d _ _ | .vmaxuVri d _ _ => vdest d
  | .vshlVri d _ i | .vshrVri d _ i | .vsarVri d _ i => vdest d && i.toNat ≤ 31
  | .topki d _ k _ => 0x10 ≤ d.toNat && d.toNat + 2 * (k.toNat + 1) - 1 ≤ 0x7F
  | .ld w => loadDest w && ordAcq w.ord && polOk w.pol
  | .st w => (0x10 ≤ w.data.toNat || w.cnt = 0) && ordRel w.ord && polOk w.pol
  | .ldu w => !w.idx && w.scl = 0 && w.index = 0 && w.data.toNat + w.cnt ≤ 0x7F && ordAcq w.ord && polOk w.pol
  | .spl w | .fil w =>
    plainExt w && w.index = 0 && w.scl = 0 &&
      (if w.idx then w.data = 0 && w.cnt = 0 else w.k = 0 && 0x10 ≤ w.data.toNat)
  | .qst w => w.ord = 0 && polOk w.pol
  | .ldq w => loadDest w && w.ord = 0 && polOk w.pol
  | .qrekey w => plainExt w && recData w && (w.mod.extractLsb' 0 5) = 0 && w.off = 0
  | .xcopy w | .xgath w => plainExt w && recData w && (w.mod.extractLsb' 0 4) = 0 && (w.idx || w.off = 0)
  | .kld w => plainExt w && w.data = 0 && w.index = 0 && w.mod = 0 && w.off.toNat ≤ 255
  | .kmov w => plainExt w && recData w && w.index = 0 && w.mod = 0 && w.off = 0
  | .knarrow w => plainExt w && recData w && w.index ≠ 0x7F && w.mod = 0 && w.off = 0
  | .kview w => plainExt w && recData w && w.index.toNat ≤ 0x7C && w.mod = 0 && w.off = 0
  | .kperm w => plainExt w && recData w && w.index = 0 && w.mod = 0 && w.off.toNat ≤ 5
  | .kfield w => plainExt w && w.index = 0 && w.mod = 0 && w.off.toNat ≤ 19
  | .kfieldW w => plainExt w && w.index = 0 && w.mod = 1 && w.off.toNat ≤ 19
  | .drainst w => plainExt w && w.k = 0 && w.data = 0 && w.index = 0 && w.mod = 0 && w.off = 0
  | .probe w => w.ord = 0 && polOk w.pol && recData w && w.cnt = 0
  | .atom w => 0x10 ≤ w.data.toNat && (w.mod.extractLsb' 0 4).toNat ≤ 9 && polOk w.pol
  | .cas w => 0x10 ≤ w.data.toNat && w.data ≠ 0x7F && w.cnt = 0 && polOk w.pol
  | .fence w => w.pol = 0 && w.k = 0 && w.data = 0 && w.index = 0 && w.mod = 0 && w.off = 0
  | .ldb w => !w.idx && w.scl = 0 && loadDest w && ordAcq w.ord && polOk w.pol
  | .sigAdd _ t o | .sigSet _ t o => t ≠ 0x7F && ordRel o
  | .sigWait _ t o _ => t ≠ 0x7F && ordAcq o
  | .chunk n => 2 ≤ n.toNat
  | .sigs _ _ _ irq c _ => irq || c = 0
  | .xmit _ _ _ c | .stow _ _ _ c | .stowA _ _ _ c => countOk c
  | .xmitA _ _ _ l c => countOk c || (l && c = 0)
  | .fold _ _ _ o t c | .foldf _ _ _ _ o t c => o.toNat ≤ 2 && t.toNat ≤ 4 && countOk c
  | _ => true

end Sys2Proof
end

