-- ==== Sys2Proof/Decode.lean ====
section
/-! DEFINITION. The decoder of Caell and rein words, written from R69-R89 and R378-R387, the encoder, and the clause
header (R61). -/
namespace Sys2Proof

/-- Bits [lo + n - 1 : lo] of a word (R2). -/
abbrev fld (w : Word) (lo n : Nat) : BitVec n := w.extractLsb' lo n

/-- A one-bit field. -/
abbrev flag (w : Word) (i : Nat) : Bool := w.getLsbD i

def bit1 (b : Bool) : BitVec 1 := if b then 1 else 0

/-- The modifier word of R70; its bits [31:28] are reserved. -/
def decodeMod (e : Word) : Option Mod :=
  if fld e 28 4 = 0 then
    some { rnd := fld e 25 3, swzC := fld e 19 6, swzB := fld e 13 6, swzA := fld e 7 6, codeC := fld e 0 7 }
  else none

def encodeMod (m : Mod) : Word := 0#4 ++ m.rnd ++ m.swzC ++ m.swzB ++ m.swzA ++ m.codeC

/-- The modifier named by bit `x` of a VR3 word, none when `x` = 0. -/
def optMod (w e : Word) : Option (Option Mod) := if flag w 21 then (decodeMod e).map some else some none

def litOf (w e : Word) : Option Word := if flag w 21 then some e else none

/-- SR3 words (R80); with x = 1 the literal stands for B and the field `b` is not looked at (DEDUCED,
notes/assumptions/25.md). -/
def decodeSR3 (w e : Word) : Option Instr :=
  let d := fld w 14 7; let a := fld w 7 7; let b := fld w 0 7; let l := litOf w e
  let mD := fld w 14 4; let mA := fld w 7 4; let mB := fld w 0 4
  let dz := fld w 18 3 = 0; let az := fld w 11 3 = 0; let bz := fld w 4 3 = 0; let nox := flag w 21 = false
  match (fld w 22 7).toNat with
  | 0 => if a = 0 then some (.smov d b l) else none
  | 1 => some (.sadd d a b l)
  | 2 => some (.ssub d a b l)
  | 3 => some (.smul d a b l)
  | 4 => some (.smulh d a b l)
  | 5 => some (.smulhu d a b l)
  | 6 => some (.sdivu d a b l)
  | 7 => some (.sremu d a b l)
  | 8 => some (.sand d a b l)
  | 9 => some (.sor d a b l)
  | 10 => some (.sxor d a b l)
  | 11 => if b = 0 ∧ nox then some (.snot d a) else none
  | 12 => some (.sshl d a b l)
  | 13 => some (.sshr d a b l)
  | 14 => some (.ssar d a b l)
  | 15 => if b = 0 ∧ nox then some (.sclz d a) else none
  | 16 => some (.smin d a b l)
  | 17 => some (.smax d a b l)
  | 18 => some (.sminu d a b l)
  | 19 => some (.smaxu d a b l)
  | 20 => some (.ssel d a b l)
  | 21 => if b = 0 ∧ nox then some (.spopc d a) else none
  | 22 => some (.sbfx d a b l)
  | 23 => some (.sbfi d a b l)
  | 24 => some (.scmp 0 d a b l)
  | 25 => some (.scmp 1 d a b l)
  | 26 => some (.scmp 2 d a b l)
  | 27 => some (.scmp 3 d a b l)
  | 28 => some (.scmp 4 d a b l)
  | 29 => some (.scmp 5 d a b l)
  | 30 => some (.scmp 6 d a b l)
  | 31 => some (.scmp 7 d a b l)
  | 32 => if nox ∧ dz ∧ az ∧ b = 0 then some (.mmov mD mA) else none
  | 33 => if nox ∧ dz ∧ az ∧ bz then some (.mand mD mA mB) else none
  | 34 => if nox ∧ dz ∧ az ∧ bz then some (.mor mD mA mB) else none
  | 35 => if nox ∧ dz ∧ az ∧ bz then some (.mxor mD mA mB) else none
  | 36 => if nox ∧ dz ∧ az ∧ b = 0 then some (.mnot mD mA) else none
  | 37 => if nox ∧ az ∧ b = 0 then some (.mpopc d mA) else none
  | 38 => if nox ∧ az ∧ b = 0 then some (.mffs d mA) else none
  | 39 => if nox ∧ az ∧ b = 0 then some (.mtos d mA) else none
  | 40 => if nox ∧ dz then some (.mfroms mD a b) else none
  | 41 => if nox ∧ dz ∧ a = 0 ∧ b = 0 then some (.exmrd mD) else none
  | 42 => if nox ∧ d = 0 ∧ az ∧ b = 0 then some (.exmwr mA) else none
  | 43 => if nox ∧ b = 0 then some (.srd d a) else none
  | 44 => if nox ∧ b = 0 then some (.swr d a) else none
  | _ => none

/-- SRI words (R81). -/
def decodeSRI (w : Word) : Option Instr :=
  let d := fld w 17 7; let a := fld w 10 7; let i := fld w 0 10; let j := fld w 0 17
  match (fld w 24 5).toNat with
  | 0 => some (.smovi d j)
  | 1 => some (.slui d j)
  | 2 => some (.saddi d a i)
  | 3 => some (.sandi d a i)
  | 4 => some (.sori d a i)
  | 5 => some (.sxori d a i)
  | 8 => some (.scmpi 0 d a i)
  | 9 => some (.scmpi 1 d a i)
  | 10 => some (.scmpi 2 d a i)
  | 11 => some (.scmpi 3 d a i)
  | 12 => some (.scmpi 4 d a i)
  | 13 => some (.scmpi 5 d a i)
  | 14 => some (.scmpi 6 d a i)
  | 15 => some (.scmpi 7 d a i)
  | _ => none

/-- VR3 words (R82, R83). -/
def decodeVR3 (w e : Word) : Option Instr :=
  let d := fld w 14 7; let a := fld w 7 7; let b := fld w 0 7; let nox := flag w 21 = false; let m := optMod w e
  let mm := if flag w 21 then decodeMod e else none
  let cc := fld w 18 3; let q := fld w 14 4
  match (fld w 22 7).toNat with
  | 0 => if b = 0 then m.map (.vmov d a ·) else none
  | 1 => if b = 0 ∧ nox then some (.vbcast d a) else none
  | 2 => if a = 0 ∧ b = 0 ∧ nox then some (.vlane d) else none
  | 3 => m.map (.vadd d a b ·)
  | 4 => m.map (.vsub d a b ·)
  | 5 => m.map (.vadds d a b ·)
  | 6 => m.map (.vsubs d a b ·)
  | 7 => m.map (.vmul d a b ·)
  | 8 => m.map (.vmulh d a b ·)
  | 9 => m.map (.vmulhu d a b ·)
  | 10 => mm.map (.vmad d a b ·)
  | 11 => if b = 0 then m.map (.vabs d a ·) else none
  | 12 => if b = 0 then m.map (.vneg d a ·) else none
  | 13 => m.map (.vmin d a b ·)
  | 14 => m.map (.vmax d a b ·)
  | 15 => m.map (.vminu d a b ·)
  | 16 => m.map (.vmaxu d a b ·)
  | 17 => m.map (.vand d a b ·)
  | 18 => m.map (.vor d a b ·)
  | 19 => m.map (.vxor d a b ·)
  | 20 => if b = 0 then m.map (.vnot d a ·) else none
  | 21 => m.map (.vshl d a b ·)
  | 22 => m.map (.vshr d a b ·)
  | 23 => m.map (.vsar d a b ·)
  | 24 => m.map (.vbfx d a b ·)
  | 25 => mm.map (.vbfi d a b ·)
  | 26 => if b = 0 then m.map (.vclz d a ·) else none
  | 27 => if b = 0 then m.map (.vpopc d a ·) else none
  | 28 => m.map (.vlea 0 d a b ·)
  | 29 => m.map (.vlea 1 d a b ·)
  | 30 => m.map (.vlea 2 d a b ·)
  | 31 => m.map (.vlea 3 d a b ·)
  | 32 => m.map (.vcmp cc q a b ·)
  | 33 => mm.map (.vsel d a b ·)
  | 36 => m.map (.fadd 0 d a b ·)
  | 37 => m.map (.fadd 1 d a b ·)
  | 38 => m.map (.fadd 2 d a b ·)
  | 40 => m.map (.fsub 0 d a b ·)
  | 41 => m.map (.fsub 1 d a b ·)
  | 42 => m.map (.fsub 2 d a b ·)
  | 44 => m.map (.fmul 0 d a b ·)
  | 45 => m.map (.fmul 1 d a b ·)
  | 46 => m.map (.fmul 2 d a b ·)
  | 48 => mm.map (.ffma 0 d a b ·)
  | 49 => mm.map (.ffma 1 d a b ·)
  | 50 => mm.map (.ffma 2 d a b ·)
  | 52 => m.map (.fmin 0 d a b ·)
  | 53 => m.map (.fmin 1 d a b ·)
  | 54 => m.map (.fmin 2 d a b ·)
  | 56 => m.map (.fmax 0 d a b ·)
  | 57 => m.map (.fmax 1 d a b ·)
  | 58 => m.map (.fmax 2 d a b ·)
  | 60 => m.map (.fdiv 0 d a b ·)
  | 61 => m.map (.fdiv 1 d a b ·)
  | 62 => m.map (.fdiv 2 d a b ·)
  | 64 => m.map (.fscale 0 d a b ·)
  | 65 => m.map (.fscale 1 d a b ·)
  | 66 => m.map (.fscale 2 d a b ·)
  | 68 => m.map (.fcmp cc q a b ·)
  | 72 => if flag w 2 = false ∧ flag w 3 = false ∧ flag w 4 = false ∧ flag w 5 = false ∧ flag w 6 = false then m.map (.fabs d a (fld w 0 2) ·) else none
  | 73 => if flag w 2 = false ∧ flag w 3 = false ∧ flag w 4 = false ∧ flag w 5 = false ∧ flag w 6 = false then m.map (.fneg d a (fld w 0 2) ·) else none
  | 74 => if flag w 2 = false ∧ flag w 3 = false ∧ flag w 4 = false ∧ flag w 5 = false ∧ flag w 6 = false then m.map (.fclass d a (fld w 0 2) ·) else none
  | 75 => if flag w 2 = false ∧ flag w 3 = false ∧ flag w 4 = false ∧ flag w 5 = false ∧ flag w 6 = false then m.map (.frnd d a (fld w 0 2) ·) else none
  | 76 => if flag w 2 = false ∧ flag w 3 = false ∧ flag w 4 = false ∧ flag w 5 = false ∧ flag w 6 = false then m.map (.fsqrt d a (fld w 0 2) ·) else none
  | 77 => if flag w 3 = false ∧ flag w 4 = false ∧ flag w 5 = false ∧ flag w 6 = false then m.map (.frcp d a (flag w 2) (fld w 0 2) ·) else none
  | 78 => if flag w 3 = false ∧ flag w 4 = false ∧ flag w 5 = false ∧ flag w 6 = false then m.map (.frsq d a (flag w 2) (fld w 0 2) ·) else none
  | 79 => if flag w 3 = false ∧ flag w 4 = false ∧ flag w 5 = false ∧ flag w 6 = false then m.map (.fexp2 d a (flag w 2) (fld w 0 2) ·) else none
  | 80 => if flag w 3 = false ∧ flag w 4 = false ∧ flag w 5 = false ∧ flag w 6 = false then m.map (.flog2 d a (flag w 2) (fld w 0 2) ·) else none
  | 81 => if flag w 3 = false ∧ flag w 4 = false ∧ flag w 5 = false ∧ flag w 6 = false then m.map (.fsin d a (flag w 2) (fld w 0 2) ·) else none
  | 82 => if flag w 3 = false ∧ flag w 4 = false ∧ flag w 5 = false ∧ flag w 6 = false then m.map (.fcos d a (flag w 2) (fld w 0 2) ·) else none
  | 83 => if flag w 3 = false ∧ flag w 4 = false ∧ flag w 5 = false ∧ flag w 6 = false then m.map (.ftanh d a (flag w 2) (fld w 0 2) ·) else none
  | 84 => if flag w 6 = false then m.map (.cvtff d a (fld w 3 3) (fld w 0 3) ·) else none
  | 85 => m.map (.cvtfi d a (flag w 6) (fld w 3 3) (fld w 0 3) ·)
  | 86 => m.map (.cvtif d a (flag w 6) (fld w 3 3) (fld w 0 3) ·)
  | 87 => if flag w 1 = false ∧ flag w 2 = false ∧ flag w 3 = false ∧ flag w 4 = false ∧ flag w 5 = false ∧ flag w 6 = false ∧ nox then some (.vflg d a (flag w 0)) else none
  | 88 => m.map (.pack8 0 d a b ·)
  | 89 => m.map (.pack8 1 d a b ·)
  | 90 => m.map (.pack8 2 d a b ·)
  | 91 => m.map (.pack8 3 d a b ·)
  | 92 => if fld w 1 6 = 0 then m.map (.unpk8 0 d a (flag w 0) ·) else none
  | 93 => if fld w 1 6 = 0 then m.map (.unpk8 1 d a (flag w 0) ·) else none
  | 94 => if fld w 1 6 = 0 then m.map (.unpk8 2 d a (flag w 0) ·) else none
  | 95 => if fld w 1 6 = 0 then m.map (.unpk8 3 d a (flag w 0) ·) else none
  | 96 => m.map (.perm d a b ·)
  | 97 => if flag w 3 = false ∧ flag w 4 = false ∧ flag w 5 = false ∧ flag w 6 = false then m.map (.qswz d a (fld w 0 3) ·) else none
  | 98 => if fld w 18 3 = 0 ∧ b = 0 then m.map (.matchKeys q a ·) else none
  | 99 => if flag w 6 = false then m.map (.scan d a (flag w 5) (fld w 3 2) (fld w 0 3) ·) else none
  | 100 => if flag w 5 = false ∧ flag w 6 = false then m.map (.red d a (fld w 3 2) (fld w 0 3) ·) else none
  | _ => none

/-- VRI words (R84). -/
def decodeVRI (w : Word) : Option Instr :=
  let d := fld w 17 7; let a := fld w 10 7; let i := fld w 0 10; let j := fld w 0 17
  match (fld w 24 5).toNat with
  | 0 => some (.vmovi d j)
  | 1 => some (.vaddVri d a i)
  | 2 => some (.vmulVri d a i)
  | 3 => some (.vandVri d a i)
  | 4 => some (.vorVri d a i)
  | 5 => some (.vxorVri d a i)
  | 6 => some (.vshlVri d a i)
  | 7 => some (.vshrVri d a i)
  | 8 => some (.vsarVri d a i)
  | 9 => some (.vminVri d a i)
  | 10 => some (.vmaxVri d a i)
  | 11 => some (.vminuVri d a i)
  | 12 => some (.vmaxuVri d a i)
  | 13 => some (.vcmpVri (fld w 21 3) (fld w 17 4) a i)
  | 14 => some (.topki d a (fld w 7 3) (fld w 0 7))
  | _ => none

/-- MEM words and their extension word (R85, R71). -/
def decodeMEM (w e : Word) : Option Instr :=
  let g : MemWord := { k := fld w 20 4, data := fld w 13 7, index := fld w 6 7, mod := fld w 0 6,
                       ord := fld e 28 4, pol := fld e 24 4, off := fld e 0 24 }
  match (fld w 24 5).toNat with
  | 0 => some (.ld g)
  | 1 => some (.st g)
  | 2 => some (.ldu g)
  | 3 => some (.spl g)
  | 4 => some (.fil g)
  | 5 => some (.qst g)
  | 6 => some (.ldq g)
  | 7 => some (.qrekey g)
  | 8 => some (.xcopy g)
  | 9 => some (.xgath g)
  | 10 => some (.kld g)
  | 11 => some (.kmov g)
  | 12 => some (.knarrow g)
  | 13 => some (.kview g)
  | 14 => some (.kperm g)
  | 15 => if flag w 0 then some (.kfieldW g) else some (.kfield g)
  | 16 => some (.drainst g)
  | 17 => some (.probe g)
  | 18 => some (.atom g)
  | 19 => some (.cas g)
  | 20 => some (.fence g)
  | 21 => some (.ldb g)
  | _ => none

/-- CTL words (R87). -/
def decodeCTL (w : Word) : Option Instr :=
  let r := fld w 17 7; let o := fld w 0 17
  match (fld w 24 5).toNat with
  | 0 => if r = 0 then some (.bra o) else none
  | 1 => some (.brc r o)
  | 2 => some (.brcZ r o)
  | 3 => some (.brv (fld w 21 3) (fld w 17 4) o)
  | 4 => if fld w 17 4 = 0 ∧ o = 0 then some (.join (fld w 21 3)) else none
  | 5 => some (.call r o)
  | 6 => if o = 0 then some (.ret r) else none
  | 7 => if r = 0 then some (.winV o) else if r = 1 then some (.winS o) else none
  | 8 => if r = 0 ∧ fld w 12 5 = 0 then some (.syncf (fld w 0 12)) else none
  | 9 => if r = 0 ∧ o = 0 then some (.yieldW) else none
  | 10 => if r = 0 ∧ o = 0 then some (.exit) else none
  | 11 => if r = 0 ∧ o = 0 then some (.nop) else none
  | 12 => if r = 0 ∧ flag w 16 = false then some (.brk (fld w 0 16)) else none
  | 13 => if r = 0 ∧ flag w 16 = false then some (.trap (fld w 0 16)) else none
  | 14 => if r = 0 ∧ o = 0 then some (.rft) else none
  | _ => none

/-- ENG words and their extension words (R88, R89, R150, R345). -/
def decodeENG (w e : Word) : Option Instr :=
  let z := fld w 18 3; let k := fld w 14 4; let s := fld w 7 7; let t := fld w 0 7; let x := flag w 21
  match (fld w 22 7).toNat with
  | 0 => if x = false ∧ k = 0 ∧ s = 0 ∧ t = 0 then some (.mzero z) else none
  | 1 => if t = 0 ∧ fld e 23 9 = 0 ∧ fld e 4 3 = 0 then some (.mloop x z k s { anchor := fld e 13 10, anc := flag e 12, two := flag e 11, planes := fld e 7 4, kb := fld e 0 4 }) else none
  | 2 => if x = false ∧ k = 0 ∧ t = 0 then some (.mgrow z s) else none
  | 3 => if s = 0 ∧ t = 0 then some (.msnap x z k) else none
  | 4 => if s = 0 ∧ t = 0 then some (.mout x z k) else none
  | 5 => if x = false ∧ k = 0 ∧ s = 0 ∧ fld w 3 4 = 0 then some (.mpri z (fld w 0 3)) else none
  | 6 => if x = false ∧ k = 0 ∧ s = 0 ∧ t = 0 then some (.mrel z) else none
  | 16 => if x = false ∧ z = 0 ∧ k = 0 ∧ t = 0 then some (.bndNew s) else none
  | 17 => if x = false ∧ z = 0 ∧ k = 0 then some (.bndFork s t) else none
  | 18 => if x = false ∧ z = 0 ∧ k = 0 ∧ s = 0 then some (.bndSet t) else none
  | 19 => if x = false ∧ z = 0 ∧ k = 0 ∧ s = 0 then some (.bndRet t) else none
  | 20 => if x = false ∧ z = 0 ∧ k = 0 ∧ s = 0 then some (.bndMrg t) else none
  | 32 => if x = false ∧ z = 0 ∧ k = 0 ∧ s = 0 ∧ t = 0 then some (.bar) else none
  | 33 => if x = false ∧ z = 0 ∧ k = 0 ∧ t = 0 then some (.barl s) else none
  | 34 => if x = false ∧ z = 0 ∧ k = 0 ∧ s = 0 ∧ t = 0 then some (.barg) else none
  | 35 => if x = false ∧ z = 0 ∧ s = 0 ∧ fld e 0 28 = 0 then some (.sigAdd k t (fld e 28 4)) else none
  | 36 => if x = false ∧ z = 0 ∧ s = 0 ∧ fld e 0 28 = 0 then some (.sigSet k t (fld e 28 4)) else none
  | 37 => if x = false ∧ z = 0 ∧ s = 0 ∧ fld e 2 26 = 0 then some (.sigWait k t (fld e 28 4) (fld e 0 2)) else none
  | 48 => if x = false ∧ z = 0 ∧ k = 0 ∧ fld e 28 4 = 0 then some (.spawn s t (fld e 24 4) (fld e 0 24)) else none
  | 49 => if x = false ∧ z = 0 ∧ k = 0 ∧ t = 0 ∧ fld e 24 8 = 0 then some (.padClose s (fld e 0 24)) else none
  | _ => none

/-- The Caell instruction of a word and the word after it (R69), before the checks of `wellFormed`. -/
def decodeSimt (w e : Word) : Option Instr :=
  match (fld w 29 3).toNat with
  | 0 => decodeSR3 w e
  | 1 => decodeSRI w
  | 2 => decodeVR3 w e
  | 3 => decodeVRI w
  | 4 => decodeMEM w e
  | 5 => decodeCTL w
  | 6 => decodeENG w e
  | _ => none

/-- The rein instruction of a word and the word after it (R378-R387), before the checks of `wellFormed`. -/
def decodeRein (w e : Word) : Option Instr :=
  let a := fld w 22 5; let b := fld w 17 5; let i := fld w 0 17; let x := fld w 13 4; let f := fld w 9 4
  let c := fld e 0 15; let op := fld e 28 4; let ty := fld e 24 4; let ez := fld e 15 9 = 0
  match (fld w 27 5).toNat with
  | 0 => if w = 0 then some .halt else none
  | 1 => if a = 0 ∧ b = 0 ∧ fld w 8 9 = 0 then some (.chunk (fld w 0 8)) else none
  | 2 => if a = 0 ∧ b = 0 ∧ i = 0 then some .nextW else none
  | 3 => if b = 0 ∧ fld w 1 16 = 0 then (if flag w 0 then some (.setgHi a e) else some (.setg a e)) else none
  | 4 => some (.addg a b i)
  | 5 => if b = 0 then some (.loop a i) else none
  | 6 => if b = 0 then some (.brz a i) else none
  | 7 => if b = 0 then some (.brnz a i) else none
  | 8 => if b = 0 ∧ fld w 0 11 = 0 then some (.waits a x (fld w 11 2)) else none
  | 9 => if b = 0 ∧ fld w 0 5 = 0 then some (.sigs a x (flag w 12) (flag w 11) (fld w 6 5) (flag w 5)) else none
  | 10 => if f = 0 ∧ fld w 0 7 = 0 ∧ op = 0 ∧ ty = 0 ∧ ez then
            (if flag w 8 then some (.xmitA a b x (flag w 7) c)
             else if flag w 7 = false then some (.xmit a b x c) else none)
          else none
  | 11 => if f = 0 ∧ fld w 5 3 = 0 ∧ op = 0 ∧ ty = 0 ∧ ez then
            (if flag w 8 then (if x = 0 then some (.stowA a b (fld w 0 5) c) else none)
             else if fld w 0 5 = 0 then some (.stow a b x c) else none)
          else none
  | 12 => if f = 0 ∧ fld w 0 9 = 0 ∧ ez then some (.fold a b x op ty c) else none
  | 13 => if fld w 0 9 = 0 ∧ ez then some (.foldf a b x f op ty c) else none
  | _ => none

/-! The formats of first words, by their fields from the high end (R69, R378). -/

/-- SR3 (`t` 0) and VR3 (`t` 2). -/
def word3 (t : BitVec 3) (op : BitVec 7) (x : BitVec 1) (d a b : BitVec 7) : Word := t ++ op ++ x ++ d ++ a ++ b

/-- SRI (`t` 1), VRI (`t` 3) and CTL (`t` 5) with a field of 17 bits. -/
def wordI (t : BitVec 3) (op : BitVec 5) (r : BitVec 7) (i : BitVec 17) : Word := t ++ op ++ r ++ i

/-- SRI and VRI with a register and an immediate of 10 bits. -/
def wordA (t : BitVec 3) (op : BitVec 5) (d a : BitVec 7) (i : BitVec 10) : Word := t ++ op ++ d ++ a ++ i

/-- MEM and its extension word. -/
def wordM (op : BitVec 5) (k : BitVec 4) (data index : BitVec 7) (mod : BitVec 6) : Word :=
  4#3 ++ op ++ k ++ data ++ index ++ mod

def memExt (w : MemWord) : Word := w.ord ++ w.pol ++ w.off

/-- The extension word of MLOOP (R89). -/
def loopExtWord (x : LoopExt) : Word := 0#9 ++ x.anchor ++ bit1 x.anc ++ bit1 x.two ++ x.planes ++ 0#3 ++ x.kb

/-- A rein word (R378). -/
def wordR (op a b : BitVec 5) (i : BitVec 17) : Word := op ++ a ++ b ++ i

/-- ENG. -/
def wordE (op : BitVec 7) (x : BitVec 1) (z : BitVec 3) (k : BitVec 4) (s t : BitVec 7) : Word :=
  6#3 ++ op ++ x ++ z ++ k ++ s ++ t

/-- The words of an instruction, first word first (R69-R89, R378-R387); an event has none. -/
def encode : Instr → List Word
  | .smov d b lit => word3 0#3 0#7 (bit1 lit.isSome) d 0#7 b :: lit.toList
  | .sadd d a b lit => word3 0#3 1#7 (bit1 lit.isSome) d a b :: lit.toList
  | .ssub d a b lit => word3 0#3 2#7 (bit1 lit.isSome) d a b :: lit.toList
  | .smul d a b lit => word3 0#3 3#7 (bit1 lit.isSome) d a b :: lit.toList
  | .smulh d a b lit => word3 0#3 4#7 (bit1 lit.isSome) d a b :: lit.toList
  | .smulhu d a b lit => word3 0#3 5#7 (bit1 lit.isSome) d a b :: lit.toList
  | .sdivu d a b lit => word3 0#3 6#7 (bit1 lit.isSome) d a b :: lit.toList
  | .sremu d a b lit => word3 0#3 7#7 (bit1 lit.isSome) d a b :: lit.toList
  | .sand d a b lit => word3 0#3 8#7 (bit1 lit.isSome) d a b :: lit.toList
  | .sor d a b lit => word3 0#3 9#7 (bit1 lit.isSome) d a b :: lit.toList
  | .sxor d a b lit => word3 0#3 10#7 (bit1 lit.isSome) d a b :: lit.toList
  | .snot d a => [word3 0#3 11#7 0#1 d a 0#7]
  | .sshl d a b lit => word3 0#3 12#7 (bit1 lit.isSome) d a b :: lit.toList
  | .sshr d a b lit => word3 0#3 13#7 (bit1 lit.isSome) d a b :: lit.toList
  | .ssar d a b lit => word3 0#3 14#7 (bit1 lit.isSome) d a b :: lit.toList
  | .sclz d a => [word3 0#3 15#7 0#1 d a 0#7]
  | .smin d a b lit => word3 0#3 16#7 (bit1 lit.isSome) d a b :: lit.toList
  | .smax d a b lit => word3 0#3 17#7 (bit1 lit.isSome) d a b :: lit.toList
  | .sminu d a b lit => word3 0#3 18#7 (bit1 lit.isSome) d a b :: lit.toList
  | .smaxu d a b lit => word3 0#3 19#7 (bit1 lit.isSome) d a b :: lit.toList
  | .ssel d a b lit => word3 0#3 20#7 (bit1 lit.isSome) d a b :: lit.toList
  | .spopc d a => [word3 0#3 21#7 0#1 d a 0#7]
  | .sbfx d a b lit => word3 0#3 22#7 (bit1 lit.isSome) d a b :: lit.toList
  | .sbfi d a b lit => word3 0#3 23#7 (bit1 lit.isSome) d a b :: lit.toList
  | .scmp c d a b lit => word3 0#3 (3#4 ++ c) (bit1 lit.isSome) d a b :: lit.toList
  | .smovi d i => [wordI 1#3 0#5 d i]
  | .slui d i => [wordI 1#3 1#5 d i]
  | .saddi d a i => [wordA 1#3 2#5 d a i]
  | .sandi d a i => [wordA 1#3 3#5 d a i]
  | .sori d a i => [wordA 1#3 4#5 d a i]
  | .sxori d a i => [wordA 1#3 5#5 d a i]
  | .scmpi c d a i => [wordA 1#3 (1#2 ++ c) d a i]
  | .mmov d a => [word3 0#3 32#7 0#1 (0#3 ++ d) (0#3 ++ a) 0#7]
  | .mand d a b => [word3 0#3 33#7 0#1 (0#3 ++ d) (0#3 ++ a) (0#3 ++ b)]
  | .mor d a b => [word3 0#3 34#7 0#1 (0#3 ++ d) (0#3 ++ a) (0#3 ++ b)]
  | .mxor d a b => [word3 0#3 35#7 0#1 (0#3 ++ d) (0#3 ++ a) (0#3 ++ b)]
  | .mnot d a => [word3 0#3 36#7 0#1 (0#3 ++ d) (0#3 ++ a) 0#7]
  | .mpopc d a => [word3 0#3 37#7 0#1 d (0#3 ++ a) 0#7]
  | .mffs d a => [word3 0#3 38#7 0#1 d (0#3 ++ a) 0#7]
  | .mtos d a => [word3 0#3 39#7 0#1 d (0#3 ++ a) 0#7]
  | .mfroms d a b => [word3 0#3 40#7 0#1 (0#3 ++ d) a b]
  | .exmrd d => [word3 0#3 41#7 0#1 (0#3 ++ d) 0#7 0#7]
  | .exmwr a => [word3 0#3 42#7 0#1 0#7 (0#3 ++ a) 0#7]
  | .srd d n => [word3 0#3 43#7 0#1 d n 0#7]
  | .swr n a => [word3 0#3 44#7 0#1 n a 0#7]
  | .bra o => [wordI 5#3 0#5 0#7 o]
  | .brc r o => [wordI 5#3 1#5 r o]
  | .brcZ r o => [wordI 5#3 2#5 r o]
  | .brv j m o => [wordI 5#3 3#5 (j ++ m) o]
  | .join j => [wordI 5#3 4#5 (j ++ 0#4) 0#17]
  | .call r o => [wordI 5#3 5#5 r o]
  | .ret r => [wordI 5#3 6#5 r 0#17]
  | .winV n => [wordI 5#3 7#5 0#7 n]
  | .winS n => [wordI 5#3 7#5 1#7 n]
  | .syncf f => [wordI 5#3 8#5 0#7 (0#5 ++ f)]
  | .yieldW => [wordI 5#3 9#5 0#7 0#17]
  | .exit => [wordI 5#3 10#5 0#7 0#17]
  | .nop => [wordI 5#3 11#5 0#7 0#17]
  | .brk c => [wordI 5#3 12#5 0#7 (0#1 ++ c)]
  | .trap c => [wordI 5#3 13#5 0#7 (0#1 ++ c)]
  | .rft => [wordI 5#3 14#5 0#7 0#17]
  | .vmov d a m => word3 2#3 0#7 (bit1 m.isSome) d a 0#7 :: (m.map encodeMod).toList
  | .vbcast d a => [word3 2#3 1#7 0#1 d a 0#7]
  | .vlane d => [word3 2#3 2#7 0#1 d 0#7 0#7]
  | .vadd d a b m => word3 2#3 3#7 (bit1 m.isSome) d a b :: (m.map encodeMod).toList
  | .vsub d a b m => word3 2#3 4#7 (bit1 m.isSome) d a b :: (m.map encodeMod).toList
  | .vadds d a b m => word3 2#3 5#7 (bit1 m.isSome) d a b :: (m.map encodeMod).toList
  | .vsubs d a b m => word3 2#3 6#7 (bit1 m.isSome) d a b :: (m.map encodeMod).toList
  | .vmul d a b m => word3 2#3 7#7 (bit1 m.isSome) d a b :: (m.map encodeMod).toList
  | .vmulh d a b m => word3 2#3 8#7 (bit1 m.isSome) d a b :: (m.map encodeMod).toList
  | .vmulhu d a b m => word3 2#3 9#7 (bit1 m.isSome) d a b :: (m.map encodeMod).toList
  | .vmad d a b m => [word3 2#3 10#7 1#1 d a b, encodeMod m]
  | .vabs d a m => word3 2#3 11#7 (bit1 m.isSome) d a 0#7 :: (m.map encodeMod).toList
  | .vneg d a m => word3 2#3 12#7 (bit1 m.isSome) d a 0#7 :: (m.map encodeMod).toList
  | .vmin d a b m => word3 2#3 13#7 (bit1 m.isSome) d a b :: (m.map encodeMod).toList
  | .vmax d a b m => word3 2#3 14#7 (bit1 m.isSome) d a b :: (m.map encodeMod).toList
  | .vminu d a b m => word3 2#3 15#7 (bit1 m.isSome) d a b :: (m.map encodeMod).toList
  | .vmaxu d a b m => word3 2#3 16#7 (bit1 m.isSome) d a b :: (m.map encodeMod).toList
  | .vand d a b m => word3 2#3 17#7 (bit1 m.isSome) d a b :: (m.map encodeMod).toList
  | .vor d a b m => word3 2#3 18#7 (bit1 m.isSome) d a b :: (m.map encodeMod).toList
  | .vxor d a b m => word3 2#3 19#7 (bit1 m.isSome) d a b :: (m.map encodeMod).toList
  | .vnot d a m => word3 2#3 20#7 (bit1 m.isSome) d a 0#7 :: (m.map encodeMod).toList
  | .vshl d a b m => word3 2#3 21#7 (bit1 m.isSome) d a b :: (m.map encodeMod).toList
  | .vshr d a b m => word3 2#3 22#7 (bit1 m.isSome) d a b :: (m.map encodeMod).toList
  | .vsar d a b m => word3 2#3 23#7 (bit1 m.isSome) d a b :: (m.map encodeMod).toList
  | .vbfx d a b m => word3 2#3 24#7 (bit1 m.isSome) d a b :: (m.map encodeMod).toList
  | .vbfi d a b m => [word3 2#3 25#7 1#1 d a b, encodeMod m]
  | .vclz d a m => word3 2#3 26#7 (bit1 m.isSome) d a 0#7 :: (m.map encodeMod).toList
  | .vpopc d a m => word3 2#3 27#7 (bit1 m.isSome) d a 0#7 :: (m.map encodeMod).toList
  | .vlea s d a b m => word3 2#3 (7#5 ++ s) (bit1 m.isSome) d a b :: (m.map encodeMod).toList
  | .vcmp c q a b m => word3 2#3 32#7 (bit1 m.isSome) (c ++ q) a b :: (m.map encodeMod).toList
  | .vsel d a b m => [word3 2#3 33#7 1#1 d a b, encodeMod m]
  | .fadd f d a b m => word3 2#3 (9#5 ++ f) (bit1 m.isSome) d a b :: (m.map encodeMod).toList
  | .fsub f d a b m => word3 2#3 (10#5 ++ f) (bit1 m.isSome) d a b :: (m.map encodeMod).toList
  | .fmul f d a b m => word3 2#3 (11#5 ++ f) (bit1 m.isSome) d a b :: (m.map encodeMod).toList
  | .ffma f d a b m => [word3 2#3 (12#5 ++ f) 1#1 d a b, encodeMod m]
  | .fmin f d a b m => word3 2#3 (13#5 ++ f) (bit1 m.isSome) d a b :: (m.map encodeMod).toList
  | .fmax f d a b m => word3 2#3 (14#5 ++ f) (bit1 m.isSome) d a b :: (m.map encodeMod).toList
  | .fdiv f d a b m => word3 2#3 (15#5 ++ f) (bit1 m.isSome) d a b :: (m.map encodeMod).toList
  | .fscale f d a b m => word3 2#3 (16#5 ++ f) (bit1 m.isSome) d a b :: (m.map encodeMod).toList
  | .fcmp c q a b m => word3 2#3 68#7 (bit1 m.isSome) (c ++ q) a b :: (m.map encodeMod).toList
  | .fabs d a f m => word3 2#3 72#7 (bit1 m.isSome) d a (0#5 ++ f) :: (m.map encodeMod).toList
  | .fneg d a f m => word3 2#3 73#7 (bit1 m.isSome) d a (0#5 ++ f) :: (m.map encodeMod).toList
  | .fclass d a f m => word3 2#3 74#7 (bit1 m.isSome) d a (0#5 ++ f) :: (m.map encodeMod).toList
  | .frnd d a f m => word3 2#3 75#7 (bit1 m.isSome) d a (0#5 ++ f) :: (m.map encodeMod).toList
  | .fsqrt d a f m => word3 2#3 76#7 (bit1 m.isSome) d a (0#5 ++ f) :: (m.map encodeMod).toList
  | .frcp d a s f m => word3 2#3 77#7 (bit1 m.isSome) d a (0#4 ++ bit1 s ++ f) :: (m.map encodeMod).toList
  | .frsq d a s f m => word3 2#3 78#7 (bit1 m.isSome) d a (0#4 ++ bit1 s ++ f) :: (m.map encodeMod).toList
  | .fexp2 d a s f m => word3 2#3 79#7 (bit1 m.isSome) d a (0#4 ++ bit1 s ++ f) :: (m.map encodeMod).toList
  | .flog2 d a s f m => word3 2#3 80#7 (bit1 m.isSome) d a (0#4 ++ bit1 s ++ f) :: (m.map encodeMod).toList
  | .fsin d a s f m => word3 2#3 81#7 (bit1 m.isSome) d a (0#4 ++ bit1 s ++ f) :: (m.map encodeMod).toList
  | .fcos d a s f m => word3 2#3 82#7 (bit1 m.isSome) d a (0#4 ++ bit1 s ++ f) :: (m.map encodeMod).toList
  | .ftanh d a s f m => word3 2#3 83#7 (bit1 m.isSome) d a (0#4 ++ bit1 s ++ f) :: (m.map encodeMod).toList
  | .cvtff d a y z m => word3 2#3 84#7 (bit1 m.isSome) d a (0#1 ++ y ++ z) :: (m.map encodeMod).toList
  | .cvtfi d a u y z m => word3 2#3 85#7 (bit1 m.isSome) d a (bit1 u ++ y ++ z) :: (m.map encodeMod).toList
  | .cvtif d a u y z m => word3 2#3 86#7 (bit1 m.isSome) d a (bit1 u ++ y ++ z) :: (m.map encodeMod).toList
  | .vflg d a w => [word3 2#3 87#7 0#1 d a (0#6 ++ bit1 w)]
  | .pack8 f d a b m => word3 2#3 (22#5 ++ f) (bit1 m.isSome) d a b :: (m.map encodeMod).toList
  | .unpk8 y d a f m => word3 2#3 (23#5 ++ y) (bit1 m.isSome) d a (0#6 ++ bit1 f) :: (m.map encodeMod).toList
  | .perm d a b m => word3 2#3 96#7 (bit1 m.isSome) d a b :: (m.map encodeMod).toList
  | .qswz d a s m => word3 2#3 97#7 (bit1 m.isSome) d a (0#4 ++ s) :: (m.map encodeMod).toList
  | .matchKeys d a m => word3 2#3 98#7 (bit1 m.isSome) (0#3 ++ d) a 0#7 :: (m.map encodeMod).toList
  | .scan d a e t o m => word3 2#3 99#7 (bit1 m.isSome) d a (0#1 ++ bit1 e ++ t ++ o) :: (m.map encodeMod).toList
  | .red d a t o m => word3 2#3 100#7 (bit1 m.isSome) d a (0#2 ++ t ++ o) :: (m.map encodeMod).toList
  | .vmovi d i => [wordI 3#3 0#5 d i]
  | .vaddVri d a i => [wordA 3#3 1#5 d a i]
  | .vmulVri d a i => [wordA 3#3 2#5 d a i]
  | .vandVri d a i => [wordA 3#3 3#5 d a i]
  | .vorVri d a i => [wordA 3#3 4#5 d a i]
  | .vxorVri d a i => [wordA 3#3 5#5 d a i]
  | .vshlVri d a i => [wordA 3#3 6#5 d a i]
  | .vshrVri d a i => [wordA 3#3 7#5 d a i]
  | .vsarVri d a i => [wordA 3#3 8#5 d a i]
  | .vminVri d a i => [wordA 3#3 9#5 d a i]
  | .vmaxVri d a i => [wordA 3#3 10#5 d a i]
  | .vminuVri d a i => [wordA 3#3 11#5 d a i]
  | .vmaxuVri d a i => [wordA 3#3 12#5 d a i]
  | .vcmpVri c q a i => [wordA 3#3 13#5 (c ++ q) a i]
  | .topki d a k i => [wordA 3#3 14#5 d a (k ++ i)]
  | .ld w => [wordM 0#5 w.k w.data w.index w.mod, memExt w]
  | .st w => [wordM 1#5 w.k w.data w.index w.mod, memExt w]
  | .ldu w => [wordM 2#5 w.k w.data w.index w.mod, memExt w]
  | .spl w => [wordM 3#5 w.k w.data w.index w.mod, memExt w]
  | .fil w => [wordM 4#5 w.k w.data w.index w.mod, memExt w]
  | .qst w => [wordM 5#5 w.k w.data w.index w.mod, memExt w]
  | .ldq w => [wordM 6#5 w.k w.data w.index w.mod, memExt w]
  | .qrekey w => [wordM 7#5 w.k w.data w.index w.mod, memExt w]
  | .xcopy w => [wordM 8#5 w.k w.data w.index w.mod, memExt w]
  | .xgath w => [wordM 9#5 w.k w.data w.index w.mod, memExt w]
  | .kld w => [wordM 10#5 w.k w.data w.index w.mod, memExt w]
  | .kmov w => [wordM 11#5 w.k w.data w.index w.mod, memExt w]
  | .knarrow w => [wordM 12#5 w.k w.data w.index w.mod, memExt w]
  | .kview w => [wordM 13#5 w.k w.data w.index w.mod, memExt w]
  | .kperm w => [wordM 14#5 w.k w.data w.index w.mod, memExt w]
  | .kfield w => [wordM 15#5 w.k w.data w.index w.mod, memExt w]
  | .kfieldW w => [wordM 15#5 w.k w.data w.index w.mod, memExt w]
  | .drainst w => [wordM 16#5 w.k w.data w.index w.mod, memExt w]
  | .probe w => [wordM 17#5 w.k w.data w.index w.mod, memExt w]
  | .atom w => [wordM 18#5 w.k w.data w.index w.mod, memExt w]
  | .cas w => [wordM 19#5 w.k w.data w.index w.mod, memExt w]
  | .fence w => [wordM 20#5 w.k w.data w.index w.mod, memExt w]
  | .ldb w => [wordM 21#5 w.k w.data w.index w.mod, memExt w]
  | .mzero z => [wordE 0#7 0#1 z 0#4 0#7 0#7]
  | .mloop e z k s x => [wordE 1#7 (bit1 e) z k s 0#7, loopExtWord x]
  | .mgrow z s => [wordE 2#7 0#1 z 0#4 s 0#7]
  | .msnap e z k => [wordE 3#7 (bit1 e) z k 0#7 0#7]
  | .mout e z k => [wordE 4#7 (bit1 e) z k 0#7 0#7]
  | .mpri z p => [wordE 5#7 0#1 z 0#4 0#7 (0#4 ++ p)]
  | .mrel z => [wordE 6#7 0#1 z 0#4 0#7 0#7]
  | .bndNew s => [wordE 16#7 0#1 0#3 0#4 s 0#7]
  | .bndFork s t => [wordE 17#7 0#1 0#3 0#4 s t]
  | .bndSet t => [wordE 18#7 0#1 0#3 0#4 0#7 t]
  | .bndRet t => [wordE 19#7 0#1 0#3 0#4 0#7 t]
  | .bndMrg t => [wordE 20#7 0#1 0#3 0#4 0#7 t]
  | .bar => [wordE 32#7 0#1 0#3 0#4 0#7 0#7]
  | .barl s => [wordE 33#7 0#1 0#3 0#4 s 0#7]
  | .barg => [wordE 34#7 0#1 0#3 0#4 0#7 0#7]
  | .sigAdd k t ord => [wordE 35#7 0#1 0#3 k 0#7 t, ord ++ 0#28]
  | .sigSet k t ord => [wordE 36#7 0#1 0#3 k 0#7 t, ord ++ 0#28]
  | .sigWait k t ord c => [wordE 37#7 0#1 0#3 k 0#7 t, ord ++ 0#26 ++ c]
  | .spawn s t pw eoff => [wordE 48#7 0#1 0#3 0#4 s t, 0#4 ++ pw ++ eoff]
  | .padClose s eoff => [wordE 49#7 0#1 0#3 0#4 s 0#7, 0#8 ++ eoff]
  | .halt => [0#32]
  | .chunk n => [wordR 1#5 0#5 0#5 (0#9 ++ n)]
  | .nextW => [wordR 2#5 0#5 0#5 0#17]
  | .setg a lit => [wordR 3#5 a 0#5 0#17, lit]
  | .setgHi a lit => [wordR 3#5 a 0#5 1#17, lit]
  | .addg a b i => [wordR 4#5 a b i]
  | .loop a i => [wordR 5#5 a 0#5 i]
  | .brz a i => [wordR 6#5 a 0#5 i]
  | .brnz a i => [wordR 7#5 a 0#5 i]
  | .waits a e c => [wordR 8#5 a 0#5 (e ++ c ++ 0#11)]
  | .sigs a e set irq c sys => [wordR 9#5 a 0#5 (e ++ bit1 set ++ bit1 irq ++ c ++ bit1 sys ++ 0#5)]
  | .xmit a b e c => [wordR 10#5 a b (e ++ 0#13), 0#17 ++ c]
  | .xmitA a b e last c => [wordR 10#5 a b (e ++ 0#4 ++ 1#1 ++ bit1 last ++ 0#7), 0#17 ++ c]
  | .stow a b e c => [wordR 11#5 a b (e ++ 0#13), 0#17 ++ c]
  | .stowA a b d c => [wordR 11#5 a b (0#8 ++ 1#1 ++ 0#3 ++ d), 0#17 ++ c]
  | .fold a b e op ty c => [wordR 12#5 a b (e ++ 0#13), op ++ ty ++ 0#9 ++ c]
  | .foldf a b e f op ty c => [wordR 13#5 a b (e ++ f ++ 0#9), op ++ ty ++ 0#9 ++ c]
  | .create => []
  | .key => []
  | .preempt => []
  | .resume => []
  | .destroy => []
  | .pool => []
  | .quota => []
  | .saveComplete => []
  | .uncorrectableError _ _ => []
  | .registerWrite _ _ => []
  | .qtailWrite _ _ => []
  | .queueEnable _ _ => []
  | .queueDisable _ _ => []
  | .cheadWrite _ _ => []
  | .faultQueueEnable _ => []
  | .faultQueueDisable _ => []
  | .fqheadWrite _ => []
  | .tqarbWrite _ _ => []
  | .dmsplitWrite _ => []
  | .dmsplitComplete => []
  | .resetPackage _ _ => []
  | .resetDie _ _ => []
  | .resetCluster _ _ => []
  | .resetCore _ _ => []
  | .resetVectorPipes _ _ => []
  | .resetMatrixEngine _ _ => []
  | .resetCopyEngine _ _ => []
  | .resetGatherEngine _ _ => []
  | .resetOutrider _ _ => []
  | .resetCommandSequencer _ _ => []
  | .resetRein _ _ => []
  | .resetManagementBlock _ _ => []
  | .resetComplete => []
  | .slotAbort _ _ => []
  | .slotGo _ _ => []
  | .slotStep _ _ _ => []
  | .slgdatWrite _ _ _ => []
  | .nopPacket _ => []
  | .launch _ => []
  | .node _ => []
  | .signal _ => []
  | .wait _ => []
  | .phase _ => []
  | .rein _ => []
  | .replay _ => []
  | .inval _ => []
  | .invalComplete _ => []
  | .phaseSteps _ => []
  | .queueHoldRelease _ => []
  | .indirectSizeTaken _ => []
  | .packetComplete _ => []
  | .patchBankSwitch _ => []
  | .blockPlace _ => []
  | .gridComplete _ => []
  | .paddockTimerLapse _ => []
  | .arrivalInterrupt _ => []
  | .outriderRunStart _ => []
  | .continuationReentry _ => []
  | .weightedTileChoice _ => []
  | .clauseStart _ _ => []
  | .stallRelease _ => []
  | .operationComplete _ => []
  | .faultRecordWrite => []
  | .storePerformed _ => []
  | .writeProtectReport _ => []
  | .barrierComplete _ _ => []
  | .sigWaitResume _ => []
  | .ownershipGrant _ => []
  | .lineComplete _ => []
  | .brandFree _ _ => []
  | .brandMergeApply _ _ => []
  | .kStep _ => []
  | .moutReadout _ => []
  | .leaveGrant _ => []
  | .powerSample _ _ => []
  | .limiterWindow => []
  | .frameSend _ => []
  | .dataFrameReceive _ _ => []
  | .runHeaderReceive _ _ => []
  | .roundMarkerReceive _ _ => []
  | .idleFrameReceive _ _ => []
  | .memoryServiceRequest _ _ => []
  | .memoryServiceResponse _ _ => []
  | .memoryServiceData _ _ => []
  | .frameResend _ => []
  | .reinSlotLoad _ => []
  | .reinSlotRestore _ => []
  | .slotChoose _ => []
  | .chunkComplete _ => []
  | .boundaryRunLimit _ => []
  | .bringUp => []
  | .telemetryFastRecord _ => []
  | .telemetryFullRecord _ _ => []
  | .sensorRead _ => []
  | .spdmMeasurements _ _ => []
  | .firmwareTransfer _ => []
  | .activateFirmware => []
  | .crcFailure _ _ => []
  | .allowanceReturn _ _ _ _ => []
  | .hostPortAccess _ => []
  | .correctedError _ => []

/-- Rein words (R378-R387). -/
def reinInstr : Instr → Bool
  | .halt | .chunk _ | .nextW | .setg .. | .setgHi .. | .addg .. | .loop .. | .brz .. | .brnz .. | .waits .. | .sigs ..
  | .xmit .. | .xmitA .. | .stow .. | .stowA .. | .fold .. | .foldf .. => true
  | _ => false

/-- A word from its four bytes, lowest address first (R2), and back. -/
def wordOfBytes (a b c d : Byte) : Word := d ++ c ++ b ++ a

def bytesOfWord (w : Word) : List Byte := [fld w 0 8, fld w 8 8, fld w 16 8, fld w 24 8]

def wordsOfBytes : List Byte → List Word
  | a :: b :: c :: d :: r => wordOfBytes a b c d :: wordsOfBytes r
  | _ => []

/-- Extension words that follow a first word (R70, R71, R88). -/
def extWords (w : Word) : Nat :=
  match (fld w 29 3).toNat with
  | 0 => if flag w 21 then 1 else 0
  | 2 => if flag w 21 then 1 else 0
  | 4 => 1
  | 6 => if [1, 0x23, 0x24, 0x25, 0x30, 0x31].contains (fld w 22 7).toNat then 1 else 0
  | _ => 0

/-- Whether a rein word takes an extension word (R378). -/
def reinExt (w : Word) : Bool := [3, 10, 11, 12, 13].contains (fld w 27 5).toNat

/-- Why words are not an instruction (R78): ILLEGAL_ENCODING or ILLEGAL_CLAUSE. -/
inductive DecodeErr where
  | encoding
  | clause
  deriving DecidableEq, Repr

/-- The instruction at the head of the words left in a clause (R78, R79): an encoding broken in its first word, or in
an extension word within the clause, comes before an extension word that passes the clause. -/
def decodeClause : List Word → Except DecodeErr Instr
  | [] => .error .clause
  | [w] =>
    match decodeSimt w 0 with
    | some i => if wellFormed i then (if extWords w = 0 then .ok i else .error .clause)
                else .error .encoding
    | none => .error .encoding
  | w :: e :: _ =>
    match decodeSimt w (if extWords w = 0 then 0 else e) with
    | some i => if wellFormed i then .ok i else .error .encoding
    | none => .error .encoding

/-- The rein instruction at the head of a slot's words (R379). -/
def decodeReinWords : List Word → Option Instr
  | [] => none
  | w :: r =>
    match decodeRein w (if reinExt w then r.headD 0 else 0) with
    | some i => if wellFormed i ∧ (reinExt w = false ∨ r ≠ []) then some i else none
    | none => none

/-- A decoded clause header (R61). -/
structure Header where
  len : BitVec 4
  wait : BitVec 12
  seta : BitVec 4
  setb : BitVec 4
  yld : Bool
  deriving DecidableEq, Repr

/-- The header a word is, or none where it breaks R61 (R67). -/
def decodeHeader (w : Word) : Option Header :=
  let bad (f : BitVec 4) : Bool := f = 0xC ∨ f = 0xD ∨ f = 0xE
  if fld w 0 7 = 0 ∧ bad (fld w 12 4) = false ∧ bad (fld w 8 4) = false then
    some { len := fld w 28 4, wait := fld w 16 12, seta := fld w 12 4, setb := fld w 8 4, yld := flag w 7 }
  else none

def encodeHeader (h : Header) : Word := h.len ++ h.wait ++ h.seta ++ h.setb ++ bit1 h.yld ++ 0#7

/-- The instruction a byte list opens with: as Caell words, and where those are no instruction as rein words
(the two instruction sets share words; notes/assumptions/13.md). -/
def decodeBytes (bs : List Byte) : Option Instr :=
  match wordsOfBytes bs with
  | [] => none
  | w :: r =>
    if w = 0 then some .halt
    else
      match decodeClause (w :: r) with
      | .ok i => some i
      | .error _ => decodeReinWords (w :: r)

/-- The bytes of a number of `n` bytes, lowest first. -/
def bytesOfNat : Nat → Nat → List Byte
  | 0, _ => []
  | n + 1, v => BitVec.ofNat 8 v :: bytesOfNat n (v / 256)

/-- What the decoder reads from an instruction whose bits are `w` (bits above `nbits` zero, up to two words). -/
def decodeTableWord (nbits w : Nat) : Option Instr := decodeBytes (bytesOfNat 8 (w % 2 ^ nbits))

end Sys2Proof
end

