-- ==== Sys2Proof/Machine/Ops.lean ====
section
/-! DEFINITION. The shared operations on groups and contexts: register access, the result queue, the flow of a clause,
taking a trapping fault and returning from the handler. -/
namespace Sys2Proof.Machine

abbrev Out := Host.Outcome State Fault Refusal

/-- Fault and cause codes (R8). -/
abbrev Cause := BitVec 8

def cIllegalEncoding : Cause := 0x01
def cIllegalClause : Cause := 0x02
def cOperandPending : Cause := 0x03
def cWindowRange : Cause := 0x04
def cBounds : Cause := 0x08
def cRights : Cause := 0x09
def cRecordInvalid : Cause := 0x0A
def cDitherMap : Cause := 0x0B
def cPageMissing : Cause := 0x10
def cWriteProtect : Cause := 0x11
def cRemotePage : Cause := 0x12
def cTierMigrating : Cause := 0x13
def cBrandInvalid : Cause := 0x18
def cPoolEmpty : Cause := 0x19
def cDetOwnership : Cause := 0x20
def cMatrixFormat : Cause := 0x28
def cTrap : Cause := 0x30
def cBreakpoint : Cause := 0x31
def cReinPageMissing : Cause := 0x40
def cReinIllegal : Cause := 0x41
def cReinChannel : Cause := 0x42
def cReinOverflow : Cause := 0x43

/-! Units of the state. -/

def State.group? (s : State) (g : Nat) : Option Group := mget s.k.groups g
def State.setGroup (s : State) (id : Nat) (g : Group) : State :=
  { s with k := { s.k with groups := mput s.k.groups id g } }
def State.updGroup (s : State) (id : Nat) (f : Group → Group) : State :=
  { s with k := { s.k with groups := mupd s.k.groups id f } }
def State.ctx (s : State) (c : Nat) : Context := sget Context.free s.cx.ctxs c
def State.setCtx (s : State) (c : Nat) (x : Context) : State :=
  { s with cx := { s.cx with ctxs := sset Context.free s.cx.ctxs c x } }
def State.queue (s : State) (q : Nat) : Queue := sget Queue.off s.q.qs q
def State.setQueue (s : State) (q : Nat) (x : Queue) : State :=
  { s with q := { s.q with qs := sset Queue.off s.q.qs q x } }
def State.core (s : State) (c : Nat) : Core := sget Core.idle s.cores c
def State.setCore (s : State) (c : Nat) (x : Core) : State := { s with cores := sset Core.idle s.cores c x }
def State.rein (s : State) (n : Nat) : Rein := sget Rein.untrained s.reins n
def State.setRein (s : State) (n : Nat) (x : Rein) : State := { s with reins := sset Rein.untrained s.reins n x }
def State.setOp (s : State) (id : Nat) (o : LongOp) : State := { s with mem := { s.mem with ops := mput s.mem.ops id o } }
def State.delOp (s : State) (id : Nat) : State := { s with mem := { s.mem with ops := mdel s.mem.ops id } }
def State.op? (s : State) (id : Nat) : Option LongOp := mget s.mem.ops id
def State.grid? (s : State) (g : Nat) : Option Grid := mget s.k.grids g
def State.setGrid (s : State) (id : Nat) (g : Grid) : State := { s with k := { s.k with grids := mput s.k.grids id g } }
def State.block? (s : State) (b : Nat) : Option Block := mget s.k.blocks b
def State.setBlock (s : State) (id : Nat) (b : Block) : State :=
  { s with k := { s.k with blocks := mput s.k.blocks id b } }
def State.pkt? (s : State) (p : Nat) : Option Packet := mget s.q.pkts p
def State.setPkt (s : State) (p : Nat) (x : Packet) : State := { s with q := { s.q with pkts := mput s.q.pkts p x } }

/-- A fresh number for an operation, write, packet, grid, block, group or node. -/
def State.take (s : State) : Nat × State := (s.fresh, { s with fresh := s.fresh + 1 })

/-- The next free value's index. -/
def State.draw (s : State) : Nat × State := (s.tick, { s with tick := s.tick + 1 })

/-! Registers of a group (R161). -/

/-- Whether the slice of lane `l` has been returned (R159). -/
def Group.sliceGone (g : Group) (l : Nat) : Bool := g.live.extractLsb' (16 * (l / 16)) 16 = 0

/-- V(n) of lane l; a returned slice reads 0 (R159). -/
def Group.vget (g : Group) (n l : Nat) : Word := if g.sliceGone l then 0 else sget 0 g.V (l * 512 + n)
def Group.vset (g : Group) (n l : Nat) (v : Word) : Group := { g with V := sset 0 g.V (l * 512 + n) v }

/-- Entry Qc of lane l. -/
def Group.qentry (g : Group) (c l : Nat) : QEntry := ((g.Q.getD c []).getD l { val := 0, pend := none })
def Group.qget (g : Group) (c l : Nat) : Word := if g.sliceGone l then 0 else (g.qentry c l).val

def Group.sget' (g : Group) (n : Nat) : Word := sget 0 g.S n
def Group.sset' (g : Group) (n : Nat) (v : Word) : Group := { g with S := sset 0 g.S n v }
/-- S named by a scalar operand code (R75). -/
def Group.sreg (g : Group) (c : BitVec 7) : Nat := g.bs + c.toNat
def Group.rdS (g : Group) (c : BitVec 7) : Word := g.sget' (g.sreg c)
def Group.wrS (g : Group) (c : BitVec 7) (v : Word) : Group := g.sset' (g.sreg c) v
def Group.rdM (g : Group) (m : BitVec 4) : Word64 := sget 0 g.M m.toNat
def Group.wrM (g : Group) (m : BitVec 4) (v : Word64) : Group := { g with M := sset 0 g.M m.toNat v }
def Group.rdK (g : Group) (k : BitVec 4) : BitVec 256 := sget 0 g.K k.toNat
def Group.wrK (g : Group) (k : BitVec 4) (v : BitVec 256) : Group := { g with K := sset 0 g.K k.toNat v }
def Group.flags (g : Group) (l : Nat) : BitVec 5 := sget 0 g.fl l
def Group.setFlags (g : Group) (l : Nat) (f : BitVec 5) : Group := { g with fl := sset 0 g.fl l f }
/-- Sticky flags set in a lane (R43). -/
def Group.orFlags (g : Group) (l : Nat) (f : BitVec 5) : Group := g.setFlags l (g.flags l ||| f)
def Group.count (g : Group) (n : Nat) : Nat := sget 0 g.F n

def Group.orFlagsIn (g : Group) (ls : List Nat) (f : BitVec 5) : Group := ls.foldl (fun g l => g.orFlags l f) g

/-- The active lanes, in ascending order (R10). -/
def Group.active (g : Group) : List Nat := laneList g.exm g.width

/-- The active lanes that write memory and take part in cross-lane results (R160). -/
def Group.activeReal (g : Group) : List Nat := laneList (g.exm &&& ~~~g.hlp) g.width

/-- `Push`: the entries of lanes in `m` become `f l`, every other lane copies its own Q0 (R162). -/
def Group.push (g : Group) (m : Lanes) (f : Nat → QEntry) : Group :=
  { g with Q := ((List.range g.width).map (fun l => if m.getLsbD l then f l else g.qentry 0 l) :: g.Q).take 16 }

def Group.pushVals (g : Group) (m : Lanes) (f : Nat → Word) : Group := g.push m (fun l => { val := f l, pend := none })

/-! Pending values (R64): those an outstanding operation of the group will write. -/

/-- What an operation writes: 0 nothing, 1 vector registers, 2 scalars, 3 a mask, 4 a record register. -/
def OpKind.dest : OpKind → Nat
  | .load | .loadQ | .fill | .sfu | .atom _ | .cas => 1
  | .loadU => 2
  | .probe => 3
  | .fillRec => 4
  | .store | .spill | .copy | .rekey | .gather | .raw | .snap | .out | .sigAccess | .fetch | .signalWait
  | .brk => 0

/-- Whether an operation of group `g` has register `n` of kind `d` pending, in some lane of `m` for vectors. -/
def LongOp.writes (o : LongOp) (g d n : Nat) (m : Lanes) : Bool :=
  o.gid = g && o.kind.dest = d && o.toReg && decide (o.dst ≤ n) && decide (n < o.dst + o.ndst) &&
    (d ≠ 1 || (o.exm &&& ~~~o.fin &&& m) ≠ 0)

def State.pending (s : State) (g d n : Nat) (m : Lanes) : Bool := s.mem.ops.any (fun e => e.2.writes g d n m)

/-- The registers an instruction reads and writes, as operand codes: vector sources with their swizzles, vector
destinations, scalars, masks and records. A lane instruction reads its sources in every lane of the group (`all`; R191,
notes/assumptions/22.md), another instruction in its active lanes. -/
structure Uses where
  all : Bool := false
  vr : List (Nat × BitVec 6) := []
  vw : List Nat := []
  sc : List Nat := []
  msk : List (BitVec 4) := []
  kr : List (BitVec 4) := []

/-- The source lane of swizzle `z` for lane `l` (R77). -/
def swzLane (z : BitVec 6) (l : Nat) : Nat :=
  let p := (z.extractLsb' 0 4).toNat
  match (z.extractLsb' 4 2).toNat with
  | 0 => 16 * (l / 16) + (l + p) % 16
  | 1 => 16 * (l / 16) + p
  | 2 => Nat.xor l (2 ^ p)
  | _ => if p = 0 then 16 * (l / 16) + 15 - l % 16 else 4 * (l / 4) + 3 - l % 4

/-- A butterfly needs a distance below the width (R77). -/
def swzFits (z : BitVec 6) (w : Nat) : Bool :=
  (z.extractLsb' 4 2).toNat ≠ 2 || decide (2 ^ (z.extractLsb' 0 4).toNat < w)

/-- The lanes a source operand is read from. -/
def srcLanes (g : Group) (all : Bool) (z : BitVec 6) : List Nat :=
  (if all then List.range g.width else g.active).map (swzLane z)

/-- The cause of R79 items 1, 3 and 4 that an instruction's operands raise in group `id`, if any. -/
def checkUses (s : State) (id : Nat) (g : Group) (u : Uses) : Option Cause :=
  if u.vr.any (fun r => !swzFits r.2 g.width) then some cIllegalEncoding
  else if u.vr.any (fun r => decide (0x10 ≤ r.1) && (decide (0x7F < r.1) || decide (g.nregs ≤ g.bv + r.1 - 0x10))) ||
          u.vw.any (fun c => decide (0x10 ≤ c) && (decide (0x7F < c) || decide (g.nregs ≤ g.bv + c - 0x10))) then
    some cWindowRange
  else if u.vr.any (fun r =>
            if r.1 < 0x10 then
              (srcLanes g u.all r.2).any (fun p => !g.sliceGone p && (g.qentry r.1 p).pend.isSome)
            else s.pending id 1 (g.bv + r.1 - 0x10) (laneSet ((srcLanes g u.all r.2).filter (fun l => !g.sliceGone l)))) ||
          u.vw.any (fun c => decide (0x10 ≤ c) && s.pending id 1 (g.bv + c - 0x10) g.exm) ||
          u.sc.any (fun c => s.pending id 2 (g.bs + c) 0) ||
          u.msk.any (fun m => s.pending id 3 m.toNat 0) ||
          u.kr.any (fun k => s.pending id 4 k.toNat 0) then
    some cOperandPending
  else none

/-! Flow of a clause. -/

/-- The clause ends and the next one starts at `target`, with the windows WIN has set (R163, R170); after a yield-form
copy the group leaves the issue pool, or goes on at the continuation if the copy has completed (R239). -/
def Group.toBoundary (g : Group) (target : Nat) : Group :=
  let g := { g with bv := g.nbv, bs := g.nbs, age := if g.yld then 0 else g.age }
  match g.yieldTo with
  | some y =>
    if y.ih = g.ih then
      if y.done then { g with status := .boundary, pc := y.pc, yieldTo := none } else { g with status := .yielded }
    else { g with status := .boundary, pc := target }
  | none => { g with status := .boundary, pc := target }

/-- Instructions issued with IH = 0, counted without extension words (R260). -/
def Group.counted (g : Group) : Group := if g.ih then g else { g with nIssued := g.nIssued + 1 }

/-- The instruction of `n` words completes: the next word of the clause, or the clause boundary (R172). -/
def Group.pass (g : Group) (n : Nat) : Group :=
  if g.cend ≤ g.pc + 4 * n then g.toBoundary g.cend else { g with status := .issuing, pc := g.pc + 4 * n }

/-- As `pass`, for an instruction that has just issued. -/
def Group.adv (g : Group) (n : Nat) : Group := g.counted.pass n

/-- A control transfer to the header at `target`. -/
def Group.jump (g : Group) (target : Nat) : Group := g.counted.toBoundary target

/-- The next word is not issued (R172). -/
def Group.stall (g : Group) (w : Stall) : Group := { g with status := .stalled w }

/-! The faulted state of a context (R104, R108). -/

/-- Queues of a faulted context halt (R113). -/
def haltQueues (s : State) (c : Nat) : State :=
  { s with q := { s.q with qs := s.q.qs.map (fun e =>
      if e.2.cx = c && (e.2.st = 1 || e.2.st = 2) then (e.1, { e.2 with st := 3, halt := 0x03 }) else e) } }

/-- The context enters the faulted state with cause `why`, or records it while it is being pre-empted (R104), the last of
several (DESIGN CHOICE, notes/assumptions/109.md). -/
def faultContext (s : State) (c : Nat) (why : BitVec 8) : State :=
  let x := s.ctx c
  if x.st = 1 || x.st = 3 then
    let s := haltQueues (s.setCtx c { x with st := 4, why := why }) c
    { s with care := { s.care with faultedCount := min (s.care.faultedCount + 1) (2 ^ 32 - 1) } }
  else if x.st = 2 then s.setCtx c { x with recorded := why }
  else s

/-! Leave given back (R390). -/

def heldGrants (s : State) (die : Nat) : List Nat := sget [] s.care.grants die
def waitingGrants (s : State) (die : Nat) : List Nat := sget [] s.care.asking die

def setGrants (s : State) (die : Nat) (held waiting : List Nat) : State :=
  { s with care := { s.care with grants := sset [] s.care.grants die held
                                 asking := sset [] s.care.asking die waiting } }

/-- A grant returned, or a request withdrawn. -/
def dropLeave (s : State) (die who : Nat) : State :=
  setGrants s die ((heldGrants s die).filter (· ≠ who)) ((waitingGrants s die).filter (· ≠ who))

/-- A group that leaves its word asks for no leave, and what it was granted for an operation it has not issued goes back (R390). -/
def quitLeave (s : State) (id : Nat) (g : Group) : State :=
  let d := Config.dieOfCore g.core
  if (heldGrants s d ++ waitingGrants s d).contains id then dropLeave s d id else s

/-! Trapping faults (R174, R175). -/

/-- A trapping fault of the current instruction: its cause, TRAP code, lanes (none: not per lane), and the offset and
record register of the lowest lane's access. -/
structure Trap where
  cause : Cause
  code : BitVec 16 := 0
  lanes : Option Lanes := none
  off : Int := 0
  kreg : Nat := 0

/-- The handler of a group: its image's, or that of its section of a spliced kernel (R148). -/
def handlerOf (s : State) (g : Group) : Nat :=
  match s.grid? g.grid with
  | some gr =>
    match gr.code with
    | some _ =>
      if (gr.sections.filter (fun e => decide (e.1 ≤ g.cla))).getLast?.elim false (·.2) then gr.hoff2 else gr.hoff
    | none => g.hoff
  | none => g.hoff

/-- Image and offset of the word at offset `pc` (R148). -/
def originOf (s : State) (g : Group) (pc : Nat) : Nat × Nat :=
  match s.grid? g.grid with
  | some gr => if gr.code.isSome then gr.origin.getD ((pc - 256) / 4) (g.img, pc) else (g.img, pc)
  | none => (g.img, pc)

/-- The first program-error cause of a grid (R142): the first recorded, or in deterministic mode the lowest key. -/
def noteCause (s : State) (g : Group) (t : Trap) : State :=
  match s.grid? g.grid with
  | none => s
  | some gr =>
    let b := (s.block? g.block).elim 0 (·.b)
    let key := [b, g.gidx, ((t.lanes.getD g.exm) |> lowest).getD 0]
    if gr.cause = 0 || (gr.det && decide (key < gr.causeKey)) then
      s.setGrid g.grid { gr with cause := t.cause, causeKey := key }
    else s

/-- Handler entry (R175). For a run of an outrider what describes lanes is 0 (R158). -/
def enterHandler (s : State) (g : Group) (hoff : Nat) (t : Trap) : Group :=
  let cla := if g.status = .boundary then g.pc else g.cla
  { g with
    fcla := BitVec.ofNat 32 cla
    fres := BitVec.ofNat 32 (if t.cause = cTrap then g.cend else g.pc)
    fcau := BitVec.ofNat 32 (t.code.toNat * 256 + t.cause.toNat)
    fln := if g.outrider.isSome then 0 else t.lanes.getD g.exm
    fex := g.exm, fbv := g.bv, fbs := g.bs
    foff := if g.outrider.isSome then 0 else BitVec.ofInt 32 t.off
    frec := if g.outrider.isSome then 0 else BitVec.ofNat 32 t.kreg
    forg := BitVec.ofNat 32 (originOf s g g.pc).2
    bv := 0, bs := 0, nbv := 0, nbs := 0, ih := true
    status := .boundary, pc := hoff, traps := g.traps + 1 }

/-- TAKING A TRAPPING FAULT: the group enters its handler, or, with none bound or with IH = 1, its context enters the
faulted state with `why` 0x04 and the group stops where it stands, at no word of its clause any more (R172, R175, R142,
R108, R158). -/
def takeTrap (s : State) (id : Nat) (g : Group) (t : Trap) : State :=
  let s := quitLeave (noteCause s g t) id g
  let h := handlerOf s g
  if g.ih = false && h ≠ 0 then s.setGroup id (enterHandler s g h t)
  else faultContext (s.setGroup id { g with status := .boundary, traps := g.traps + 1 }) g.cx 0x04

/-- RETURN FROM THE HANDLER (R189), once R176 has been checked: where the group resumes, or ILLEGAL_CLAUSE. `starts`
are the offsets of the first words of the instructions of the clause at FCLA and `after` the header after it. -/
def leaveHandler (g : Group) (starts : List Nat) (after : Nat) (h : Header) : Option Group :=
  let r := { g with exm := g.fex &&& g.pth, bv := g.fbv, bs := g.fbs, nbv := g.fbv, nbs := g.fbs, ih := false }
  if g.fres = g.fcla then some { r with status := .boundary, pc := g.fcla.toNat }
  else if g.fres.toNat = after then some { r with status := .boundary, pc := after }
  else if starts.contains g.fres.toNat then
    some { r with status := .issuing, pc := g.fres.toNat, cla := g.fcla.toNat, cend := after, seta := h.seta,
                  setb := h.setb, yld := h.yld }
  else none

/-! Issuing an instruction. -/

/-- An instruction of the current group: the causes of its operands (R79), then its own, then its effect. With no
group in step nothing happens. -/
def issue (s : State) (u : Group → Uses) (own : Group → Option Trap) (eff : State → Group → State) : Out :=
  match s.group? s.cur with
  | none => .next s
  | some g =>
    match checkUses s s.cur g (u g) with
    | some c => .next (takeTrap s s.cur g { cause := c })
    | none =>
      match own g with
      | some t => .next (takeTrap s s.cur g t)
      | none => .next (eff s g)

/-- An instruction whose effect is on the group alone. -/
def issueG (s : State) (u : Uses) (f : Group → Group) : Out :=
  issue s (fun _ => u) (fun _ => none) (fun s g => s.setGroup s.cur (f g))

/-- Up(x, n) of R109. -/
def roundUp (x n : Nat) : Nat := (x + n - 1) / n * n

end Sys2Proof.Machine
end

