-- ==== Sys2Proof/Machine/Flags.lean ====
section
/-! DEFINITION. Conditions (R75, R201) and the lane flags that engines and matrix operations owe (R44). -/
namespace Sys2Proof.Machine

/-- An integer condition (R75). -/
def condI (c : BitVec 3) (a b : Word) : Bool :=
  match c.toNat with
  | 0 => decide (a = b)
  | 1 => decide (a ≠ b)
  | 2 => a.slt b
  | 3 => a.sle b
  | 4 => b.slt a
  | 5 => b.sle a
  | 6 => a.ult b
  | _ => b.ule a

/-- Whether an integer condition reads its immediate unsigned (R181, R201). -/
def condUnsigned (c : BitVec 3) : Bool := 6 ≤ c.toNat

/-- FCMP of two FP32 codes: the condition, and the flags it raises (R201). -/
def condF (c : BitVec 3) (a b : Word) : Bool × FFlags :=
  let x := fp32.decode a.toNat
  let y := fp32.decode b.toNat
  let k := c.toNat
  if x.isNaN || y.isNaN then
    (decide (k = 1) || decide (k = 6),
      if x.isSNaN || y.isSNaN || (2 ≤ k && k ≤ 5) then fNV else 0)
  else
    let o := FV.cmp false x y
    (match k with
      | 0 => decide (o = 0)
      | 1 => decide (o ≠ 0)
      | 2 => decide (o < 0)
      | 3 => decide (o ≤ 0)
      | 4 => decide (0 < o)
      | 5 => decide (0 ≤ o)
      | 6 => false
      | _ => true, 0)

/-- The completion flags a `wait` mask names. -/
def waitFlags (m : BitVec 12) : List Nat := (List.range 12).filter (fun i => m.getLsbD i)

/-- Every flag of the mask is clear (R62). -/
def Group.clearOf (g : Group) (m : BitVec 12) : Bool := (waitFlags m).all (fun f => g.count f = 0)

/-- The owed flags of the flags in `m` merged into their lanes (R44). -/
def Group.mergeOwed (g : Group) (m : BitVec 12) : Group :=
  let due := g.owed.filter (fun o => m.getLsbD o.flag)
  let g := due.foldl (fun g o => g.orFlagsIn (laneList o.lanes g.width) o.bits) g
  { g with owed := g.owed.filter (fun o => !m.getLsbD o.flag) }

/-- `FLGS`: bit n set while Fn is set (R177). -/
def Group.flgs (g : Group) : Word :=
  BitVec.ofNat 32 ((List.range 12).foldl (fun a f => if g.count f = 0 then a else a + 2 ^ f) 0)

/-- Fn gains one outstanding operation (R62). -/
def Group.countUp (g : Group) (f : Nat) : Group := { g with F := sset 0 g.F f (g.count f + 1) }
def Group.countDown (g : Group) (f : Nat) : Group := { g with F := sset 0 g.F f (g.count f - 1) }

/-- The flag an instruction's side selects, none for the code 0xF (R61, R63). -/
def Group.sideFlag (g : Group) (sel : Bool) : Option Nat :=
  let f := if sel then g.setb else g.seta
  if f = 0xF then none else some f.toNat

end Sys2Proof.Machine
end

