-- ==== Sys2Proof/Machine/Operands.lean ====
section
/-! DEFINITION. Operand forms (R70-R77): scalar sources with a literal, vector sources under a swizzle, immediates, and the
delivery of a vector result (R191). -/
namespace Sys2Proof.Machine

/-- The second source of a two-operand scalar instruction (R179). -/
def Group.rdB (g : Group) (b : BitVec 7) (lit : Option Word) : Word := lit.getD (g.rdS b)

def litWords (lit : Option Word) : Nat := if lit.isSome then 2 else 1
def modWords (m : Option Mod) : Nat := if m.isSome then 2 else 1

/-- A modifier word, all identity where there is none (R70). -/
def modOf (m : Option Mod) : Mod := m.getD { rnd := 0, swzC := 0, swzB := 0, swzA := 0, codeC := 0 }

/-- Rounding mode and `sat` of `rnd` (R36). -/
def modMode (m : Mod) : RMode := rmode (m.rnd.extractLsb' 0 2)
def modSat (m : Mod) : Bool := m.rnd.getLsbD 2

/-- `SignExtend(imm, 10)` and `ZeroExtend(imm, 10)` (R11). -/
def immS (i : BitVec 10) : Word := i.signExtend 32
def immU (i : BitVec 10) : Word := i.zeroExtend 32

/-- Up to 32 bits of `a` from `pos` (R180, R200): the length n and the position pos of a bit-field operand. -/
def fieldPos (b : Word) : Nat := (b.extractLsb' 0 5).toNat
def fieldLen (b : Word) : Nat := min (min (b.extractLsb' 5 6).toNat 32) (32 - fieldPos b)

/-- SBFX and VBFX (R180, R200). -/
def bitFieldX (a b : Word) : Word :=
  let n := fieldLen b
  let v := bitsOf a.toNat (fieldPos b) n
  if n = 0 then 0
  else if b.getLsbD 11 && bitsOf v (n - 1) 1 = 1 then BitVec.ofNat 32 (v + (2 ^ 32 - 2 ^ n)) else BitVec.ofNat 32 v

/-- SBFI and VBFI (R180, R200): `c` with the field replaced by the low bits of `a`. -/
def bitFieldI (a b c : Word) : Word :=
  let m := BitVec.ofNat 32 ((2 ^ fieldLen b - 1) * 2 ^ fieldPos b)
  (c &&& ~~~m) ||| ((a <<< fieldPos b) &&& m)

/-- Leading zero bits, 0 to 32. -/
def clz32 (a : Word) : Word := if a = 0 then 32 else BitVec.ofNat 32 (31 - Nat.log2 a.toNat)

/-- Set bits, 0 to 32. -/
def popc32 (a : Word) : Word := BitVec.ofNat 32 (popcount (a.zeroExtend 64))

def shl32 (a b : Word) : Word := if 32 ≤ b.toNat then 0 else a <<< b.toNat
def shr32 (a b : Word) : Word := if 32 ≤ b.toNat then 0 else a >>> b.toNat
def sar32 (a b : Word) : Word := a.sshiftRight (min b.toNat 32)
def mulh32 (a b : Word) : Word := BitVec.ofInt 32 (a.toInt * b.toInt / 2 ^ 32)
def mulhu32 (a b : Word) : Word := BitVec.ofNat 32 (a.toNat * b.toNat / 2 ^ 32)
def smin32 (a b : Word) : Word := if a.sle b then a else b
def smax32 (a b : Word) : Word := if a.sle b then b else a
def umin32 (a b : Word) : Word := if a.ule b then a else b
def umax32 (a b : Word) : Word := if a.ule b then b else a

/-- A sum or difference clamped to 32 signed bits (R198). -/
def clamp32 (v : Int) : Word := BitVec.ofInt 32 (max (-(2 ^ 31)) (min (2 ^ 31 - 1) v))

/-- `Src(code, swz, l)` (R191). -/
def Group.src (g : Group) (code : BitVec 7) (z : BitVec 6) (l : Nat) : Word :=
  if code.toNat < 0x10 then g.qget code.toNat (swzLane z l) else g.vget (g.bv + code.toNat - 0x10) (swzLane z l)

/-- Phase 3 of R191 for one lane: the named destination, if any, and the flags raised. -/
def Group.deliver (g : Group) (d : BitVec 7) (l : Nat) (v : Word) (f : FFlags) : Group :=
  let g := if d.toNat < 0x10 then g else g.vset (g.bv + d.toNat - 0x10) l v
  if f = 0 then g else g.orFlags l f

/-- A vector result with its flags in every active lane, delivered and pushed (R191). -/
def Group.result (g : Group) (d : BitVec 7) (r : Nat → Word × FFlags) : Group :=
  let g' := g.active.foldl (fun h l => h.deliver d l (r l).1 (r l).2) g
  { g' with Q := (g.pushVals g.exm (fun l => (r l).1)).Q }

/-- The operands an instruction of class VR3 reads and writes. -/
def vuses (d : BitVec 7) (r : List (BitVec 7 × BitVec 6)) : Uses :=
  { all := true, vr := r.map (fun e => (e.1.toNat, e.2)), vw := [d.toNat] }

/-- A VR3 instruction over A. -/
def vec1 (d a : BitVec 7) (m : Option Mod) (op : Word → Word × FFlags) (s : State) : Out :=
  let x := modOf m
  issueG s (vuses d [(a, x.swzA)]) (fun g =>
    (g.result d (fun l => op (g.src a x.swzA l))).adv (modWords m))

/-- A VR3 instruction over A and B. -/
def vec2 (d a b : BitVec 7) (m : Option Mod) (op : Word → Word → Word × FFlags) (s : State) : Out :=
  let x := modOf m
  issueG s (vuses d [(a, x.swzA), (b, x.swzB)]) (fun g =>
    (g.result d (fun l => op (g.src a x.swzA l) (g.src b x.swzB l))).adv (modWords m))

/-- A VR3 instruction over A, B and C. -/
def vec3 (d a b : BitVec 7) (x : Mod) (op : Word → Word → Word → Word × FFlags) (s : State) : Out :=
  issueG s (vuses d [(a, x.swzA), (b, x.swzB), (x.codeC, x.swzC)]) (fun g =>
    (g.result d (fun l => op (g.src a x.swzA l) (g.src b x.swzB l) (g.src x.codeC x.swzC l))).adv 2)

/-- A VRI instruction over A and an immediate. -/
def vecI (d a : BitVec 7) (op : Word → Word) (s : State) : Out :=
  issueG s (vuses d [(a, 0)]) (fun g => (g.result d (fun l => (op (g.src a 0 l), 0))).adv 1)

/-- A result without flags. -/
def pure2 (f : Word → Word → Word) (a b : Word) : Word × FFlags := (f a b, 0)

end Sys2Proof.Machine
end

