-- ==== Sys2Proof/Machine/Records.lean ====
section
/-! DEFINITION. Buffer records (R218-R225): fields, storage orders, extents, well-formedness, and the instructions that
hold and derive them (R227-R231). -/
namespace Sys2Proof.Machine

abbrev Rec := BitVec 256

/-- Bits [lo + n - 1 : lo] of a record as a number (R218). -/
def Rec.fld (r : Rec) (lo n : Nat) : Nat := (r.extractLsb' lo n).toNat

/-- A record with bits [lo + n - 1 : lo] set to `v`. -/
def Rec.put (r : Rec) (lo n v : Nat) : Rec :=
  (r &&& ~~~(BitVec.ofNat 256 ((2 ^ n - 1) * 2 ^ lo))) ||| BitVec.ofNat 256 (v % 2 ^ n * 2 ^ lo)

/-- A field of a derived record; a value that does not fit it is left open (R228-R230, notes/assumptions/19.md). -/
def Rec.set (r : Rec) (lo n v : Nat) : Rec := Rec.put r lo n (if v < 2 ^ n then v else Config.unfit lo v)

def Rec.obj (r : Rec) : Nat := Rec.fld r 0 24
def Rec.base (r : Rec) : Nat := Rec.fld r 24 40
/-- N_k: the size of storage dimension k. -/
def Rec.size (r : Rec) (k : Nat) : Nat :=
  match k with
  | 0 => Rec.fld r 64 16 + 1
  | 1 => Rec.fld r 80 16 + 1
  | _ => Rec.fld r 96 8 + 1
def Rec.s1 (r : Rec) : Nat := Rec.fld r 104 20
def Rec.m2 (r : Rec) : Nat := Rec.fld r 124 16
/-- o_j: the canonical origin of canonical dimension j. -/
def Rec.org (r : Rec) (j : Nat) : Nat :=
  match j with
  | 0 => Rec.fld r 140 16
  | 1 => Rec.fld r 156 16
  | _ => Rec.fld r 172 8
def Rec.key (r : Rec) : Word := r.extractLsb' 180 32
def Rec.sce (r : Rec) : Nat := Rec.fld r 212 8
def Rec.fmt (r : Rec) : Nat := Rec.fld r 220 5
def Rec.lay (r : Rec) : Nat := Rec.fld r 225 3
def Rec.bnd (r : Rec) : Nat := Rec.fld r 228 2
def Rec.rt (r : Rec) : Nat := Rec.fld r 230 5
def Rec.pol (r : Rec) : Nat := Rec.fld r 235 3
def Rec.bmode (r : Rec) : Nat := Rec.fld r 238 2
def Rec.brand (r : Rec) : Nat := Rec.fld r 240 16

/-- Rights (R218): bit 0 `r`, 1 `w`, 2 `a`, 3 `x`, 4 `c`. -/
def Rec.right (r : Rec) (i : Nat) : Bool := r.getLsbD (230 + i)

/-- π(0), π(1), π(2) of a storage order (R220). -/
def layRow (lay : Nat) : List Nat :=
  match lay with
  | 0 => [0, 1, 2]
  | 1 => [1, 0, 2]
  | 2 => [0, 2, 1]
  | 3 => [2, 1, 0]
  | 4 => [1, 2, 0]
  | _ => [2, 0, 1]

/-- The canonical dimension that storage dimension k carries; `lay` 6 as `lay` 0 (R222). -/
def Rec.pi (r : Rec) (k : Nat) : Nat := (layRow (if r.lay = 6 then 0 else r.lay)).getD k 0
/-- The storage dimension that carries canonical dimension j. -/
def Rec.pinv (r : Rec) (j : Nat) : Nat := (layRow (if r.lay = 6 then 0 else r.lay)).idxOf j
/-- The size of canonical dimension j. -/
def Rec.csize (r : Rec) (j : Nat) : Nat := r.size (r.pinv j)

/-- Row bytes R(n) of n elements (R219). -/
def rowBytes (f n : Nat) : Nat :=
  if blockBytes f ≠ 0 then (n + 31) / 32 * blockBytes f else (n * fmtBits f + 7) / 8

/-- Planes of a plane slab (R222). -/
def Rec.planes (r : Rec) : Nat := r.sce % 16 + 1
/-- Bytes of one 32-row slab (R56). -/
def Rec.slab (r : Rec) : Nat := (r.planes + 1) * 256

/-- The byte extent E (R219, R222). -/
def Rec.extent (r : Rec) : Nat :=
  if r.lay = 6 then r.size 1 / 32 * r.slab else r.s1 * (r.m2 * (r.size 2 - 1) + r.size 1)

def Rec.count (r : Rec) : Nat := r.size 0 * r.size 1 * r.size 2

def oBlock : Nat := 0xFFFFFF
def oShare : Nat := 0xFFFFFE
def oSpill : Nat := 0xFFFFFD

/-- Storage of the core rather than an object of the table (R222). -/
def Rec.special (r : Rec) : Bool := 0xFFFFFD ≤ r.obj

/-- Well-formed records (R221, R222). -/
def Rec.wf (r : Rec) : Bool :=
  decide (r.bmode ≤ 2) && decide (1 ≤ r.pol) && decide (r.pol ≤ 4) && decide (r.bnd ≤ 2) && decide (r.lay ≤ 6) &&
  decide (fmtBits r.fmt ≠ 0) && (decide (r.brand = 0) || decide (r.bmode = 2)) &&
  (List.range 3).all (fun k => decide (r.org (r.pi k) + r.size k ≤ if r.pi k = 2 then 256 else 65536)) &&
  (!isD r.fmt || decide (r.sce ≠ 0xFF)) && !(decide (0xFFFFF0 ≤ r.obj) && decide (r.obj ≤ 0xFFFFFC)) &&
  (if r.lay = 6 then
    decide (r.obj = oBlock) && decide (r.base % 256 = 0) && decide (r.fmt = 0) && decide (r.key = 0) &&
    decide (r.sce / 16 = 0) && decide (r.s1 = 0) && decide (r.m2 = 0) && decide (r.size 2 = 1) &&
    decide (r.size 0 ≤ 64) && decide (r.size 1 % 32 = 0)
  else
    decide (rowBytes r.fmt (r.size 0) ≤ r.s1) && (decide (r.size 2 = 1) || decide (r.size 1 ≤ r.m2)))

/-- The brand of an access (R223); the storage of a core is never branded (R222). -/
def Rec.effBrand (r : Rec) (cur : BitVec 16) : Nat :=
  if r.special then 0
  else match r.bmode with
    | 0 => 0
    | 1 => cur.toNat
    | _ => r.brand

/-- A brand of a context is live (R293, R297). -/
def State.brandLive (s : State) (cx b : Nat) : Bool :=
  b = 0 || (match mget s.br.table (cx * 65536 + b) with
    | some e => decide (e.st = 1)
    | none => false)

/-- Storage position (a0, a1, a2) of element index e (R236). -/
def Rec.pos (r : Rec) (e : Nat) : Nat × Nat × Nat :=
  (e % r.size 0, e / r.size 0 % r.size 1, e / (r.size 0 * r.size 1))

/-- Element index of a storage position. -/
def Rec.index (r : Rec) (a0 a1 a2 : Nat) : Nat := a0 + r.size 0 * (a1 + r.size 1 * a2)

/-- Canonical coordinate j of element index e (R220). -/
def Rec.coord (r : Rec) (e j : Nat) : Nat :=
  let p := r.pos e
  r.org j + (match r.pinv j with
    | 0 => p.1
    | 1 => p.2.1
    | _ => p.2.2)

/-- The dither top bits of element e (R52, R54). -/
def Rec.dither (r : Rec) (e : Nat) : Nat :=
  ditherTop r.key (BitVec.ofNat 32 (r.coord e 0)) (BitVec.ofNat 32 (r.coord e 1)) (BitVec.ofNat 32 (r.coord e 2))

/-- The bytes of element e, by object byte offset (R219, R31, R46). -/
def Rec.unit (r : Rec) (e : Nat) : AccUnit :=
  let (a0, a1, a2) := r.pos e
  let row := r.base + a2 * r.s1 * r.m2 + a1 * r.s1
  let w := fmtBits r.fmt
  if blockBytes r.fmt ≠ 0 then
    let blk := row + a0 / 32 * blockBytes r.fmt
    let bit := a0 % 32 * w
    { hdr := some blk, off := blk + 2 + bit / 8, n := (bit % 8 + w + 7) / 8, bit := bit % 8, elem := e, bytes := [] }
  else
    { hdr := none, off := row + a0 * w / 8, n := (w + 7) / 8, bit := a0 * w % 8, elem := e, bytes := [] }

/-! Deriving records. -/

/-- A record instruction: K[s] must be well formed, then `f` gives a cause or the new K[d]. -/
def derive (k src : BitVec 4) (sc : List Nat) (f : Group → Rec → Except Cause Rec) (s : State) : Out :=
  issue s (fun _ => { kr := [k, src], sc := sc })
    (fun g =>
      if Rec.wf (g.rdK src) then
        match f g (g.rdK src) with
        | .error c => some { cause := c }
        | .ok _ => none
      else some { cause := cRecordInvalid })
    (fun s g => match f g (g.rdK src) with
      | .ok r => s.setGroup s.cur ((g.wrK k r).adv 2)
      | .error _ => s)

/-- Byte stride of storage dimension k, and whether a cut at index f is aligned there (R228). -/
def Rec.cut (r : Rec) (k f : Nat) : Option Nat :=
  match k with
  | 0 =>
    if blockBytes r.fmt ≠ 0 then (if f % 32 = 0 then some (f / 32 * blockBytes r.fmt) else none)
    else if f * fmtBits r.fmt % 8 = 0 then some (f * fmtBits r.fmt / 8) else none
  | 1 => some (f * r.s1)
  | _ => some (f * r.s1 * r.m2)

/-- The record with storage dimension k cut to indices f … f + t − 1, `bytes` further into the object. -/
def Rec.window (r : Rec) (k f t bytes : Nat) : Rec :=
  let j := r.pi k
  let r' := Rec.set r 24 40 (r.base + bytes)
  let r' := match k with
    | 0 => Rec.set r' 64 16 (t - 1)
    | 1 => Rec.set r' 80 16 (t - 1)
    | _ => Rec.set r' 96 8 (t - 1)
  match j with
  | 0 => Rec.set r' 140 16 (r.org 0 + f)
  | 1 => Rec.set r' 156 16 (r.org 1 + f)
  | _ => Rec.set r' 172 8 (r.org 2 + f)

/-- KNARROW (R228). -/
def narrow (r : Rec) (f t : Nat) : Except Cause Rec :=
  let k := if r.lay = 6 then 1 else if 1 < r.size 2 then 2 else if 1 < r.size 1 then 1 else 0
  if t = 0 || decide (r.size k < f + t) then .error cBounds
  else if r.lay = 6 then
    if f % 32 = 0 && t % 32 = 0 then .ok (r.window 1 f t (f / 32 * r.slab)) else .error cBounds
  else match r.cut k f with
    | some b => .ok (r.window k f t b)
    | none => .error cBounds

/-- KVIEW (R229): both windows, or neither. -/
def view (r : Rec) (u0 u1 e0 e1 : Nat) : Except Cause Rec :=
  if r.lay = 6 then .error cRecordInvalid
  else
    let k0 := r.pinv 0
    let k1 := r.pinv 1
    if e0 = 0 || decide (r.size k0 < u0 + e0) || e1 = 0 || decide (r.size k1 < u1 + e1) then .error cBounds
    else match r.cut k0 u0, r.cut k1 u1 with
      | some b0, some b1 => .ok ((r.window k0 u0 e0 b0).window k1 u1 e1 b1)
      | _, _ => .error cBounds

/-- The `lay` code of a π row. -/
def layOf (row : List Nat) : Nat := ((List.range 6).find? (fun c => layRow c = row)).getD 0

/-- KPERM (R230). -/
def permute (r : Rec) (p : Nat) : Except Cause Rec :=
  if r.lay = 6 then .error cRecordInvalid
  else
    let q := layRow p
    let N (k : Nat) := r.size (q.getD k 0)
    let s1 := rowBytes r.fmt (N 0)
    let m2 := N 1
    if r.extent < s1 * (m2 * (N 2 - 1) + N 1) then .error cBounds
    else
      let r' := Rec.set r 225 3 (layOf (q.map r.pi))
      let r' := Rec.set (Rec.set (Rec.set r' 64 16 (N 0 - 1)) 80 16 (N 1 - 1)) 96 8 (N 2 - 1)
      .ok (Rec.set (Rec.set r' 104 20 s1) 124 16 m2)

/-- First bit and width of a record field by its number (R231). -/
def recField (f : Nat) : Nat × Nat :=
  ([(0, 24), (24, 32), (56, 8), (64, 16), (80, 16), (96, 8), (104, 20), (124, 16), (140, 16), (156, 16), (172, 8),
    (180, 32), (212, 8), (220, 5), (225, 3), (228, 2), (230, 5), (235, 3), (238, 2), (240, 16)]).getD f (0, 0)

/-- KFIELD.W (R231): the new record or the cause. -/
def writeField (r : Rec) (f : Nat) (v : Word) : Except Cause Rec :=
  let ok : Bool := f = 15 || (decide (17 ≤ f) && decide (f ≤ 19)) ||
    (f = 16 && (v.extractLsb' 0 5 &&& ~~~(r.extractLsb' 230 5)) = 0)
  if !ok then .error cRights
  else
    let (lo, n) := recField f
    let r' := Rec.put r lo n v.toNat
    if decide (v.toNat < 2 ^ n) && Rec.wf r' then .ok r' else .error cRecordInvalid

def recSrc (w : MemWord) : BitVec 4 := w.data.extractLsb' 0 4

/-- KMOV moves a record without using it (R221, R227). -/
def execKmov (w : MemWord) (s : State) : Out :=
  issueG s { kr := [w.k, recSrc w] } (fun g => (g.wrK w.k (g.rdK (recSrc w))).adv 2)

def execKnarrow (w : MemWord) (s : State) : Out :=
  derive w.k (recSrc w) [w.index.toNat, w.index.toNat + 1]
    (fun g r => narrow r (g.rdS w.index).toNat (g.sget' (g.sreg w.index + 1)).toNat) s

def execKview (w : MemWord) (s : State) : Out :=
  let c := w.index.toNat
  derive w.k (recSrc w) [c, c + 1, c + 2, c + 3]
    (fun g r =>
      let v (i : Nat) := (g.sget' (g.sreg w.index + i)).toNat
      view r (v 0) (v 1) (v 2) (v 3)) s

def execKperm (w : MemWord) (s : State) : Out :=
  derive w.k (recSrc w) [] (fun _ r => permute r (w.off.extractLsb' 0 3).toNat) s

/-- KFIELD reads a field of a well-formed record (R231). -/
def execKfield (w : MemWord) (s : State) : Out :=
  issue s (fun _ => { kr := [w.k], sc := [w.data.toNat] })
    (fun g => if Rec.wf (g.rdK w.k) then none else some { cause := cRecordInvalid })
    (fun s g =>
      let (lo, n) := recField w.off.toNat
      s.setGroup s.cur ((g.wrS w.data (BitVec.ofNat 32 (Rec.fld (g.rdK w.k) lo n))).adv 2))

def execKfieldW (w : MemWord) (s : State) : Out :=
  issue s (fun _ => { kr := [w.k], sc := [w.data.toNat] })
    (fun g => match writeField (g.rdK w.k) w.off.toNat (g.rdS w.data) with
      | .error c => some { cause := c }
      | .ok _ => none)
    (fun s g => match writeField (g.rdK w.k) w.off.toNat (g.rdS w.data) with
      | .ok r => s.setGroup s.cur ((g.wrK w.k r).adv 2)
      | .error _ => s)

/-- KLD copies a slot of the launch's binding-table copy, by section in a spliced kernel (R227, R136, R146), or of the
context's outrider table (R156). -/
def bindingOf (s : State) (g : Group) (slot : Nat) : Option Rec :=
  let t : List (BitVec 256 × Bool) := match g.outrider with
    | some _ => (s.ctx g.cx).obinds
    | none =>
      match s.grid? g.grid with
      | some gr =>
        if (gr.sections.filter (fun e => decide (e.1 ≤ g.cla))).getLast?.elim false (·.2) then gr.binds2 else gr.binds
      | none => []
  (t[slot]?).map (·.1)

def execKld (w : MemWord) (s : State) : Out :=
  issue s (fun _ => { kr := [w.k] })
    (fun g => if (bindingOf s g w.off.toNat).isSome then none else some { cause := cRecordInvalid })
    (fun s g => s.setGroup s.cur ((g.wrK w.k ((bindingOf s g w.off.toNat).getD 0)).adv 2))

end Sys2Proof.Machine
end

