-- ==== Sys2Proof/Machine/Walk.lean ====
section
/-! DEFINITION. Physical storage under a key (R26, R403), the walk of an object table (R243-R249), translation caches
(R251), and the translation of an access. -/
namespace Sys2Proof.Machine

/-! Physical memory. -/

def devBacked (a : Nat) : Bool := a ≤ 0x8FFFFFFFFF
def extBacked (a : Nat) : Bool :=
  decide (0x10000000000 ≤ a) && decide (a ≤ 0x2FFFFFFFFFF) &&
    decide ((a - 0x10000000000) % 2 ^ 38 < min (2 ^ 38) (Config.installed ((a - 0x10000000000) / 2 ^ 38)))
/-- A backed physical address (R403). -/
def backed (a : Nat) : Bool := devBacked a || extBacked a

/-- The tag of a unit written without encryption: no key has this value. -/
def plainKey : Nat := 2 ^ 512

/-- A byte of device or extended memory read under key `k`, or without encryption under `plainKey` (R26,
notes/assumptions/5.md). -/
def MemUnit.physByte (m : MemUnit) (k a : Nat) : Byte :=
  let t := sget 0 m.keyTag (a / 16)
  if t = 0 || t = k then Memory.byte m.phys a
  else Config.cipher k t (a / 16) (Memory.bytes m.phys (a / 16 * 16) 16) (a % 16)

/-- The sixteen bytes of the unit of `a`, as they read under key `k`. -/
def MemUnit.unitUnder (m : MemUnit) (k a : Nat) : List Byte :=
  (List.range 16).map (fun i => m.physByte k (a / 16 * 16 + i))

/-- A byte of device or extended memory written under key `k`. -/
def MemUnit.putPhys (m : MemUnit) (k a : Nat) (b : Byte) : MemUnit :=
  let t := sget 0 m.keyTag (a / 16)
  let ph := if t = 0 || t = k then m.phys else Memory.putBytes m.phys (a / 16 * 16) (m.unitUnder k a)
  { m with phys := Memory.put ph a b, keyTag := sset 0 m.keyTag (a / 16) k }

/-- Whether the sector of host address `a` is dirty in an L2 (R267). -/
def MemUnit.hostDirty (m : MemUnit) (a : Nat) : Bool := (mget m.dirtyCtx (a / 64)).isSome

/-- A byte of host memory as a device agent reads it. -/
def MemUnit.hostByte (m : MemUnit) (a : Nat) : Byte :=
  if m.hostDirty a then Memory.byte m.dirty a else Memory.byte m.host a

/-- A byte of host memory written by a device agent of context `cx`: its sector becomes dirty in the L2 (R267). -/
def MemUnit.putHost (m : MemUnit) (cx a : Nat) (b : Byte) : MemUnit :=
  let d := if m.hostDirty a then m.dirty
           else Memory.putBytes m.dirty (a / 64 * 64) (Memory.bytes m.host (a / 64 * 64) 64)
  { m with dirty := Memory.put d a b, dirtyCtx := mput m.dirtyCtx (a / 64) cx }

/-- One dirty sector written back to host memory. -/
def MemUnit.writeBack (m : MemUnit) (sec : Nat) : MemUnit :=
  if (mget m.dirtyCtx sec).isSome then
    let bs := Memory.bytes m.dirty (sec * 64) 64
    { m with host := Memory.putBytes m.host (sec * 64) bs
             dirty := Memory.putBytes m.dirty (sec * 64) (List.replicate 64 0)
             dirtyCtx := mdel m.dirtyCtx sec }
  else m

/-- Every dirty host-memory line of a context written back (R118, R120, R274). -/
def MemUnit.writeBackAll (m : MemUnit) (cx : Nat) : MemUnit :=
  (m.dirtyCtx.filter (fun e => decide (e.2 = cx))).foldl (fun m e => m.writeBack e.1) m

/-! The walk. -/

/-- A byte range lies in the table region, which holds device and extended memory only (R248): what is not backed is no
part of it (notes/assumptions/108.md). -/
def inRegion (s : State) (a n : Nat) : Bool :=
  decide (s.care.trbase.toNat ≤ a) && decide (a + n ≤ s.care.trlim.toNat) && backed a && backed (a + n - 1)

def overlapsRegion (s : State) (a n : Nat) : Bool :=
  decide (s.care.trbase.toNat < s.care.trlim.toNat) && decide (a < s.care.trlim.toNat) &&
    decide (s.care.trbase.toNat < a + n)

/-- `n` bytes of a table, read without encryption, or none outside the region (R243), of which addresses that are not
backed are no part (DEDUCED, notes/assumptions/108.md). -/
def readTable (s : State) (a n : Nat) : Option Nat :=
  if inRegion s a n then
    some (natOfBytes ((List.range n).map (fun i => s.mem.physByte plainKey (a + i))))
  else none

/-- Why a page does not translate: the cause recorded (R247), the page size, and `mq` (R249). -/
structure PageFault where
  cause : Cause
  lg : Bool
  mq : Bool
  deriving DecidableEq, Repr

def pageSize (lg : Bool) : Nat := if lg then 2097152 else 65536

/-- The walk of byte offset `off` of object `obj` (R247): the page with `mig` of its descriptor. Reserved identifiers
never enter a table (R243). -/
def walk (s : State) (cx obj off : Nat) : Except PageFault (PageTr × Bool) :=
  if 0xFFFFF0 ≤ obj then .error { cause := cPageMissing, lg := false, mq := false }
  else match readTable s ((s.ctx cx).objRoot + 8 * (obj / 4096)) 8 with
  | none => .error { cause := cRecordInvalid, lg := false, mq := false }
  | some d =>
    if bitsOf d 0 1 = 0 then .error { cause := cPageMissing, lg := false, mq := false }
    else match readTable s (d / 2 ^ 17 * 2 ^ 17 + 32 * (obj % 4096)) 32 with
      | none => .error { cause := cRecordInvalid, lg := false, mq := false }
      | some x =>
        let lg := decide (bitsOf x 6 1 = 1)
        let page := off / pageSize lg
        let bad (c : Cause) : Except PageFault (PageTr × Bool) := .error { cause := c, lg := lg, mq := false }
        if bitsOf x 7 1 = 0 || decide (bitsOf x 96 24 < page) then bad cPageMissing
        else if bitsOf d 1 16 ≠ 0 || bitsOf x 120 72 ≠ 0 || bitsOf x 8 88 ≠ 0 || bitsOf x 0 4 ≠ 0 ||
            bitsOf x 192 3 ≠ 0 then bad cRecordInvalid
        else match readTable s (bitsOf x 192 64 + 8 * page) 8 with
          | none => bad cRecordInvalid
          | some e =>
            let tier := bitsOf e 61 2
            let frame := bitsOf e 16 36 * 65536
            let last := frame + pageSize lg - 1
            if bitsOf e 52 5 ≠ 0 || bitsOf e 0 6 ≠ 0 || bitsOf e 57 2 = 3 || (lg && bitsOf e 16 5 ≠ 0) ||
                (tier = 0 && !(devBacked frame && devBacked last)) ||
                (tier = 1 && !(extBacked frame && extBacked last)) ||
                (tier ≤ 1 && overlapsRegion s frame (pageSize lg)) then bad cRecordInvalid
            else if bitsOf e 63 1 = 0 then bad cPageMissing
            else if bitsOf e 59 1 = 1 then bad cTierMigrating
            else
              let sp := match tier with
                | 2 => Space.host
                | 3 => Space.peer (bitsOf e 6 10)
                | _ => Space.phys
              .ok ({ obj := obj, page := page, lg := lg, base := { sp := sp, a := frame },
                     wp := decide (bitsOf e 60 1 = 1), brd := decide (bitsOf x 5 1 = 1),
                     det := BitVec.ofNat 2 (bitsOf e 57 2) }, decide (bitsOf x 4 1 = 1))

/-- A page holds byte offset `off` of object `obj`. -/
def PageTr.covers (t : PageTr) (obj off : Nat) : Bool :=
  decide (t.obj = obj) && decide (off / pageSize t.lg = t.page)

def PageTr.byte (t : PageTr) (off : Nat) : PByte :=
  { loc := { t.base with a := t.base.a + off % pageSize t.lg }, wp := t.wp, brd := t.brd, det := t.det }

def Space.isPeer : Space → Bool
  | .peer _ => true
  | .phys | .host | .block _ | .share _ _ | .spill _ => false

/-- The translation of an access: the table's entry, or an older one that a translation cache holds (R251); a lane access
does not reach peer memory (R249). -/
def translate (s : State) (cx obj off : Nat) (lane : Bool) : Except PageFault (PageTr × Bool) :=
  let fresh := walk s cx obj off
  let old := s.mem.tlb.filter (fun e =>
    decide (e.cx = cx) && e.tr.covers obj off && decide (fresh.toOption ≠ some (e.tr, e.mig)))
  let r := if old.isEmpty then fresh
    else
      -- one choice for the whole page, of either size
      let lg := old.any (·.tr.lg) || (match fresh with
        | .ok (t, _) => t.lg
        | .error f => f.lg)
      let k := Config.tlbOld s.tick obj (if lg then 2 ^ 40 + off / pageSize true else off / pageSize false)
      if k = 0 then fresh else match old[k - 1]? with
        | some e => .ok (e.tr, e.mig)
        | none => fresh
  match r with
  | .ok (t, mig) =>
    if lane && t.base.sp.isPeer then .error { cause := cRemotePage, lg := t.lg, mq := mig } else .ok (t, mig)
  | .error f => .error f

/-- Pages that translated enter the translation caches (R251). -/
def noteTlb (s : State) (cx : Nat) (ts : List (PageTr × Bool)) : State :=
  let add := ts.foldl (fun l t =>
    let e : TlbEntry := { cx := cx, mig := t.2, tr := t.1 }
    if l.contains e then l else l ++ [e]) s.mem.tlb
  { s with mem := { s.mem with tlb := add } }

/-! The storage a record reaches. -/

/-- Storage of the core and its size (R222): block memory, the context's share on the die, the spill stack. -/
def coreStore (s : State) (id : Nat) (g : Group) (obj : Nat) : Space × Nat :=
  if obj = oBlock then
    (.block g.block, if g.outrider.isSome then 0 else (s.grid? g.grid).elim 0 (·.scratch))
  else if obj = oShare then
    (.share g.cx (match g.outrider with
      | some c => Config.dieOfCluster c
      | none => Config.dieOfCore g.core), (s.ctx g.cx).dsh * 65536)
  else (.spill id, g.spillBytes)

/-- The 64 KiB chunks of an object that an instruction touches, each translated once. -/
abbrev Chunks := List (Nat × Except PageFault (PageTr × Bool))

def chunksOf (offs : List Nat) : List Nat := (offs.map (· / 65536)).eraseDups

def translateChunks (s : State) (cx obj : Nat) (lane : Bool) (offs : List Nat) : Chunks :=
  (chunksOf offs).map (fun c => (c, translate s cx obj (c * 65536) lane))

def Chunks.at (cs : Chunks) (off : Nat) : Except PageFault (PageTr × Bool) :=
  match cs.find? (fun e => decide (e.1 = off / 65536)) with
  | some e => e.2
  | none => .error { cause := cPageMissing, lg := false, mq := false }

def Chunks.good (cs : Chunks) : List (PageTr × Bool) :=
  cs.filterMap (fun e => match e.2 with
    | .ok t => some t
    | .error _ => none)

/-- The byte offsets of a unit, its block header first. -/
def AccUnit.offs (u : AccUnit) : List Nat :=
  (match u.hdr with
    | some h => [h, h + 1]
    | none => []) ++ (List.range u.n).map (u.off + ·)

def LaneAcc.offs (a : LaneAcc) : List Nat := a.units.flatMap (fun u => u.elim [] AccUnit.offs)

/-- The pages of one lane that do not translate, each with the lane's lowest offset in it. -/
def LaneAcc.faults (cs : Chunks) (a : LaneAcc) : List (PageFault × Nat) :=
  a.offs.foldl (fun l o =>
    match cs.at o with
    | .ok _ => l
    | .error f =>
      if l.any (fun e => decide (e.2 / pageSize e.1.lg = o / pageSize f.lg)) then
        l.map (fun e => if e.2 / pageSize e.1.lg = o / pageSize f.lg then (e.1, min e.2 o) else e)
      else l ++ [(f, o)]) []

/-- A lane access with its bytes translated. -/
def LaneAcc.bind (a : LaneAcc) (f : Nat → PByte) : LaneAcc :=
  { a with units := a.units.map (fun u => u.map (fun u => { u with bytes := u.offs.map f })) }

def Chunks.byte (cs : Chunks) (off : Nat) : PByte :=
  match cs.at off with
  | .ok t => t.1.byte off
  | .error _ => { loc := { sp := .phys, a := 0 }, wp := true, brd := false, det := 0 }

end Sys2Proof.Machine
end

