-- ==== Sys2Proof/Machine/Memory.lean ====
section
/-! DEFINITION. Locations (R271, R300), reads and writes at the home L2, the L1s (R266), the directory (R269), overlay
cells (R299-R303), and the orders that hold an access back (R273-R278). -/
namespace Sys2Proof.Machine

def Loc.line (l : Loc) : Loc := { l with a := l.a / 256 * 256 }
def Loc.sector (l : Loc) : Loc := { l with a := l.a / 64 * 64 }
def Loc.page (l : Loc) : Loc := { l with a := l.a / 65536 * 65536 }

/-- Memory behind the L2s, as against storage of a core. -/
def Loc.cached (l : Loc) : Bool :=
  match l.sp with
  | .phys | .host => true
  | .block _ | .share _ _ | .spill _ | .peer _ => false

/-- Bytes of a group's spill stack, which no other agent sees: accesses of the group to them take effect at issue (R235). -/
def Loc.inSpill (l : Loc) : Bool :=
  match l.sp with
  | .spill _ => true
  | .phys | .host | .block _ | .share _ _ | .peer _ => false

/-- A number for a cached address: host memory above the physical map. -/
def Loc.key (l : Loc) : Nat :=
  match l.sp with
  | .host => 2 ^ 64 + l.a
  | .phys | .block _ | .share _ _ | .spill _ | .peer _ => l.a

/-- The home die of a line (R21). -/
def homeDie (l : Loc) : Nat :=
  match l.sp with
  | .phys => if devBacked l.a then l.a / 0x2400000000 else (Nat.xor l.a (l.a / 4)) / 4096 % 4
  | .host => (Nat.xor l.a (l.a / 4)) / 4096 % 4
  | .share _ d => d
  | .block _ | .spill _ | .peer _ => 0

/-! Overlay cells. -/

/-- The pool line of a brand's materialised cell (R299). -/
def cell? (s : State) (cx b : Nat) (line : Loc) : Option Nat :=
  (s.br.cells.find? (fun c => decide (c.cx = cx) && decide (c.brand = b) && decide (c.line = line) && c.op.isNone)).map
    (·.pool)

def parentOf (s : State) (cx b : Nat) : Nat := (mget s.br.table (cx * 65536 + b)).elim 0 (·.parent)

/-- The brand whose cell a read of a line reaches, with its pool line; brand 0 reaches the physical line (R300). A
chain has at most four links (R294). -/
def ancestry : Nat → State → Nat → Nat → Loc → Nat × Option Nat
  | 0, _, _, _, _ => (0, none)
  | n + 1, s, cx, b, line =>
    if b = 0 then (0, none)
    else match cell? s cx b line with
      | some p => (b, some p)
      | none => ancestry n s cx (parentOf s cx b) line

/-- The place a read of a byte under a brand reaches, and the brand that holds it. -/
def resolve (s : State) (cx b : Nat) (p : PByte) : Nat × Loc :=
  if p.brd then
    match ancestry 5 s cx b p.loc.line with
    | (h, some q) => (h, { sp := .phys, a := q + p.loc.a % 256 })
    | (h, none) => (h, p.loc)
  else (0, p.loc)

/-- The brand under which the directory holds a byte's line. -/
def dirBrand (b : Nat) (p : PByte) : Nat := if p.brd then b else 0

/-- Pool lines of a context in use: by cells and by the commit buffer, 16 entries to a line (R288, R299). -/
def commitLines (s : State) (cx : Nat) : Nat :=
  ((s.mem.commit.filter (fun c => decide (c.cx = cx))).length + 15) / 16

/-- The lines of a context's pool extents, in order (R102). -/
def poolLines (s : State) (cx : Nat) : List Nat :=
  (s.ctx cx).pool.flatMap (fun e => (List.range e.2).map (fun i => e.1 + 256 * i))

/-- Pool lines free for cells. -/
def freePool (s : State) (cx : Nat) : List Nat :=
  let used := (s.br.cells.filter (fun c => decide (c.cx = cx))).map (·.pool)
  let free := (poolLines s cx).filter (fun l => !used.contains l)
  free.take (free.length - commitLines s cx)

/-! Reading and writing a place. -/

def shareAddr (cx die a : Nat) : Nat := (cx * 4 + die) * 2 ^ 27 + a

/-- A byte as it stands at L2, in host memory or in a core's storage; a peer's byte is given by `pg` (R354). -/
def readAt (s : State) (cx : Nat) (pg : List (Loc × Byte)) (l : Loc) : Byte :=
  match l.sp with
  | .phys => s.mem.physByte (s.ctx cx).key l.a
  | .host => s.mem.hostByte l.a
  | .block b => (s.block? b).elim (Config.goneByte s.tick b l.a) (fun k => Memory.byte k.bmem l.a)
  | .share c d => Memory.byte s.mem.share (shareAddr c d l.a)
  | .spill g => (s.group? g).elim 0 (fun k => Memory.byte k.spill l.a)
  | .peer _ => ((pg.find? (fun e => decide (e.1 = l))).map (·.2)).getD 0

/-- The hidden tag of the granule of a place (R226): granules of block memory, shares and peers hold none (DEDUCED,
notes/assumptions/137.md). -/
def tagOf (s : State) (l : Loc) : Bool :=
  match l.sp with
  | .phys | .host => s.mem.tags.contains (l.key / 32)
  | .spill g => (s.group? g).elim false (fun k => k.spillTags.contains (l.a / 32))
  | .block _ | .share _ _ | .peer _ => false

def setTag (s : State) (l : Loc) (v : Bool) : State :=
  match l.sp with
  | .phys | .host =>
    let t := s.mem.tags.filter (· ≠ l.key / 32)
    { s with mem := { s.mem with tags := if v then t ++ [l.key / 32] else t } }
  | .spill g => s.updGroup g (fun k =>
      let t := k.spillTags.filter (· ≠ l.a / 32)
      { k with spillTags := if v then t ++ [l.a / 32] else t })
  | .block _ | .share _ _ | .peer _ => s

/-- A byte written at a place. -/
def writeRaw (s : State) (cx : Nat) (l : Loc) (b : Byte) : State :=
  match l.sp with
  | .phys => { s with mem := s.mem.putPhys (s.ctx cx).key l.a b }
  | .host => { s with mem := s.mem.putHost cx l.a b }
  | .block k => { s with k := { s.k with blocks := mupd s.k.blocks k (fun x => { x with bmem := Memory.put x.bmem l.a b }) } }
  | .share c d => { s with mem := { s.mem with share := Memory.put s.mem.share (shareAddr c d l.a) b } }
  | .spill g => s.updGroup g (fun k => { k with spill := Memory.put k.spill l.a b })
  | .peer _ => s

/-- A byte written by anything but a record move: its granule's tag clears (R226). -/
def writeAt (s : State) (cx : Nat) (l : Loc) (b : Byte) : State := setTag (writeRaw s cx l b) l false

/-- The bits of `old` outside mask `m` kept. -/
def merge (old b m : Byte) : Byte := (b &&& m) ||| (old &&& ~~~m)

/-- L1 sectors dropped. -/
def l1Drop (s : State) (f : L1Sector → Bool) : State :=
  { s with mem := { s.mem with l1 := s.mem.l1.filter (fun e => !f e) } }

/-- The line of a brand materialised into a pool line (R300, R301): the line a read under the brand reaches is copied, a peer's line
as answered in `pg` (R354). No L1 holds anything of the pool line, and no granule of it is a record's (R226). -/
def materialise (s : State) (cx b : Nat) (line : Loc) (pool : Nat) (pg : List (Loc × Byte)) : State :=
  let src := (resolve s cx b { loc := line, wp := false, brd := true, det := 0 }).2
  let s := l1Drop s (fun x => decide (x.loc.line = ({ sp := .phys, a := pool } : Loc)))
  let s := (List.range 256).foldl (fun s i =>
    writeAt s cx { sp := .phys, a := pool + i } (readAt s cx pg { src with a := src.a + i })) s
  { s with br := { s.br with cells := { cx := cx, brand := b, line := line, pool := pool, op := none } :: s.br.cells } }

/-- A reservation of `op` for a line given up or used. -/
def dropReservation (s : State) (cx b : Nat) (line : Loc) : State :=
  { s with br := { s.br with cells := s.br.cells.filter (fun c =>
      !(decide (c.cx = cx) && decide (c.brand = b) && decide (c.line = line) && c.op.isSome)) } }

/-- The pool line reserved for a brand's line. -/
def reserved? (s : State) (cx b : Nat) (line : Loc) : Option Nat :=
  (s.br.cells.find? (fun c => decide (c.cx = cx) && decide (c.brand = b) && decide (c.line = line) && c.op.isSome)).map
    (·.pool)

/-- The place a write of a byte under a brand goes to, its cell materialised first from the reservation or, failing
that, a free pool line (R300, R301); none with the pool empty. -/
def writePlace (s : State) (cx b : Nat) (p : PByte) : Option (State × Loc) :=
  if p.brd && b ≠ 0 then
    match cell? s cx b p.loc.line with
    | some q => some (dropReservation s cx b p.loc.line, { sp := .phys, a := q + p.loc.a % 256 })
    | none =>
      match (match reserved? s cx b p.loc.line with
        | some q => some q
        | none => (freePool s cx).head?) with
      | some q => some (materialise (dropReservation s cx b p.loc.line) cx b p.loc.line q [],
          { sp := .phys, a := q + p.loc.a % 256 })
      | none => none
  else some (s, p.loc)

/-- A masked byte written under a brand. -/
def writeByte (s : State) (cx b : Nat) (e : PByte × Byte × Byte) : State :=
  match writePlace s cx b e.1 with
  | some (s, l) => writeAt s cx l (merge (readAt s cx [] l) e.2.1 e.2.2)
  | none => s

def writeBytes (s : State) (cx b : Nat) (es : List (PByte × Byte × Byte)) : State :=
  es.foldl (fun s e => writeByte s cx b e) s

/-- A WAIT whose walk has failed tests again at a write to its signal's location, as a walk made now finds it (R124). -/
def wakeWaits (s : State) (ls : List Loc) : State :=
  if s.q.qs.all (fun e => e.2.waitPark.isNone) then s
  else
    let hit (cx a : Nat) : Bool :=
      match translate { s with mem := { s.mem with tlb := [] } } cx (a / 2 ^ 40) (a % 2 ^ 40) true with
      | .ok t => ((List.range 8).map (fun i => (t.1.byte (a % 2 ^ 40 + i)).loc)).any ls.contains
      | .error _ => false
    { s with q := { s.q with qs := s.q.qs.map (fun e =>
        (e.1, { e.2 with waitPark := if e.2.waitPark.elim false (hit e.2.cx) then none else e.2.waitPark })) } }

/-- A write of an agent, seen by the WAITs that wait for one (R124); what stands in a cell of a brand is no signal. -/
def writeOut (s : State) (cx b : Nat) (es : List (PByte × Byte × Byte)) : State :=
  wakeWaits (writeBytes s cx b es) ((es.filter (fun e => !e.1.brd || decide (b = 0))).map (·.1.loc))

/-- A byte read under a brand at L2. -/
def readByte (s : State) (cx b : Nat) (pg : List (Loc × Byte)) (p : PByte) : Byte := readAt s cx pg (resolve s cx b p).2

/-! Level-one caches (R266, R268). -/

def l1Find (s : State) (core cx : Nat) (sec : Loc) : Option L1Sector :=
  s.mem.l1.find? (fun e => decide (e.core = core) && decide (e.cx = cx) && decide (e.loc = sec))

/-- Every L1 line of a context on a core invalidated (R275). -/
def l1Acquire (s : State) (core cx : Nat) : State := l1Drop s (fun e => decide (e.core = core) && decide (e.cx = cx))

/-- Whether a policy code looks L1 up. -/
def usesL1 (pol : Nat) : Bool := pol = 1

/-- The newest `n` sectors of a core kept. -/
def keepNewest (core : Nat) : Nat → List L1Sector → List L1Sector
  | _, [] => []
  | 0, e :: r => if e.core = core then keepNewest core 0 r else e :: keepNewest core 0 r
  | n + 1, e :: r => if e.core = core then e :: keepNewest core n r else e :: keepNewest core (n + 1) r

/-- The L1 of a core holds no more than its share of the pool (R17). -/
def l1Trim (s : State) (core : Nat) : State :=
  { s with mem := { s.mem with l1 := keepNewest core (Config.l1Bytes (sget Core.idle s.cores core).split / 64) s.mem.l1 } }

/-- A fill: the sector enters the core's L1 and the directory notes the cluster (R266, R269). -/
def l1Fill (s : State) (core cx : Nat) (sec : Loc) : State :=
  let d := (List.range 64).map (fun i => readAt s cx [] { sec with a := sec.a + i })
  let s := l1Drop s (fun e => decide (e.core = core) && decide (e.cx = cx) && decide (e.loc = sec))
  let line := sec.line.key / 256
  let bit : BitVec 32 := 1#32 <<< Config.clusterOf core
  l1Trim { s with mem := { s.mem with
      l1 := { core := core, cx := cx, loc := sec, data := d, upd := [] } :: s.mem.l1
      presence := sset 0 s.mem.presence line (sget 0 s.mem.presence line ||| bit) } } core

/-- Whether the core's L1 still holds the sector (notes/assumptions/7.md). -/
def l1Hit (s : State) (core cx : Nat) (sec : Loc) : Option L1Sector :=
  match l1Find s core cx sec with
  | some e => if Config.l1Kept s.tick core sec.key then some e else none
  | none => none

/-- A lane's read of a place: through L1 where `l1` says so, with a fill on a miss (R266); also the writes that updated
the sector it hit. -/
def laneRead (s : State) (core cx : Nat) (l1 : Bool) (l : Loc) : State × Byte × List Nat :=
  if l1 && l.cached && core < Config.cores then
    match l1Hit s core cx l.sector with
    | some e => (s, e.data.getD (l.a % 64) 0, e.upd)
    | none => (l1Fill s core cx l.sector, readAt s cx [] l, [])
  else (s, readAt s cx [] l, [])

/-- A sector of core `core` and context `cx` at a place. -/
def L1Sector.at (x : L1Sector) (core cx : Nat) (l : Loc) : Bool :=
  decide (x.core = core) && decide (x.cx = cx) && decide (x.loc = l.sector)

/-- The line of a place leaves the L1 of a core. -/
def l1DropLine (s : State) (core cx : Nat) (l : Loc) : State :=
  l1Drop s (fun x => decide (x.core = core) && decide (x.cx = cx) && decide (x.loc.line = l.line))

/-- What the issue of lane write `i` does to the writing core's L1: through `.L1` the sector that holds its place shows it
from now on, through any other policy the line is invalidated (R266, R268, R274). A write that makes its brand's cell
has no sector yet (R300). -/
def l1Issue (s : State) (core cx pol b i : Nat) (e : PByte × Byte × Byte) : State :=
  if !e.1.loc.cached || e.1.wp || (e.1.brd && decide (b ≠ 0) && (cell? s cx b e.1.loc.line).isNone) then s
  else
    let l := (resolve s cx b e.1).2
    if usesL1 pol then
      { s with mem := { s.mem with l1 := s.mem.l1.map (fun x =>
          if x.at core cx l && !x.upd.contains i then { x with upd := x.upd ++ [i] } else x) } }
    else l1DropLine s core cx l

/-- What a performed lane write does to the writing core's L1: a sector present takes the bytes, or the line goes (R266,
R268, R273). -/
def l1Performed (s : State) (core cx pol b : Nat) (e : PByte × Byte × Byte) : State :=
  if !e.1.loc.cached || e.1.wp then s
  else
    let l := (resolve s cx b e.1).2
    if usesL1 pol then
      { s with mem := { s.mem with l1 := s.mem.l1.map (fun x =>
          if x.at core cx l then { x with data := x.data.set (l.a % 64) (readAt s cx [] l) } else x) } }
    else l1DropLine s core cx l

/-- A line invalidated in the L1 of every core of every cluster of its presence mask, the mask cleared (R269). -/
def l1Invalidate (s : State) (line : Loc) : State :=
  let m := sget 0 s.mem.presence (line.key / 256)
  let s := l1Drop s (fun x => decide (x.loc.line = line) && m.getLsbD (Config.clusterOf x.core))
  { s with mem := { s.mem with presence := sset 0 s.mem.presence (line.key / 256) 0 } }

/-! The directory (R269). -/

/-- A program slot of a rein as an agent of the directory, above every operation's number. -/
def reinAgent (n sl : Nat) : Nat := 2 ^ 64 + 8 * n + sl

def dirOf (s : State) (line : Loc) (b : Nat) : Option DirLine :=
  s.mem.dir.find? (fun d => decide (d.line = line) && decide (d.brand = b))

def owned (s : State) (line : Loc) (b : Nat) : Bool := (dirOf s line b).isSome

/-- The L1 copies of a brand's line: the brand's cells where it has them, the line itself for brand 0. -/
def l1Grant (s : State) (line : Loc) (b : Nat) : State :=
  if b = 0 then l1Invalidate s line
  else ((s.br.cells.filter (fun c => decide (c.line = line) && decide (c.brand = b) && c.op.isNone)).map
    (fun c => ({ sp := .phys, a := c.pool } : Loc))).foldl l1Invalidate s

/-- The entry holds an access numbered `i` back (R269): one that came before the owner does not wait for it. -/
def DirLine.holds (d : DirLine) (line : Loc) (b i : Nat) : Bool :=
  decide (d.line = line) && decide (d.brand = b) && decide (d.since ≤ i)

/-- Lane access `i` to a byte waits while its line is Owned under its brand or the brand it falls back to (R269, R301). -/
def byteHeld (s : State) (cx b i : Nat) (p : PByte) : Bool :=
  p.loc.cached && s.mem.dir.any (fun d => d.holds p.loc.line (dirBrand b p) i || d.holds p.loc.line (resolve s cx b p).1 i)

/-- An access that comes to the directory now waits. -/
def byteOwned (s : State) (cx b : Nat) (p : PByte) : Bool := byteHeld s cx b s.fresh p

/-- Ownership asked by operation `op` (R278): granted where no one owns the line, queued otherwise. -/
def askOwner (s : State) (line : Loc) (b op : Nat) : State :=
  if owned s line b then
    { s with mem := { s.mem with dir := s.mem.dir.map (fun d =>
        if d.line = line && d.brand = b then { d with queue := d.queue ++ [op] } else d) } }
  else
    l1Grant { s with mem := { s.mem with dir :=
      { line := line, brand := b, owner := op, queue := [], since := s.fresh, first := 0 } :: s.mem.dir } } line b

/-- The owner completes a line: the next queued agent owns it, after the lane accesses that waited, or none (R269). -/
def dropOwner (s : State) (line : Loc) (b op : Nat) : State :=
  let next : DirLine → Option DirLine := fun d =>
    if d.line = line && d.brand = b then
      if d.owner = op then
        match d.queue with
        | [] => none
        | n :: r => some { d with owner := n, queue := r, since := s.fresh, first := s.fresh }
      else some { d with queue := d.queue.filter (· ≠ op) }
    else some d
  let had := (dirOf s line b).elim false (fun d => decide (d.owner = op))
  let s := { s with mem := { s.mem with dir := s.mem.dir.filterMap next } }
  if had then l1Grant s line b else s

/-- Every line an operation owns or waits for is given up (R280). -/
def dropAll (s : State) (op : Nat) : State :=
  (s.mem.dir.filter (fun d => decide (d.owner = op) || d.queue.contains op)).foldl
    (fun s d => dropOwner s d.line d.brand op) s

/-! Orders of a group's accesses. -/

/-- Two lists of bytes meet. -/
def meets (a b : List PByte) : Bool := a.any (fun p => b.any (fun q => decide (p.loc = q.loc)))

def LongOp.bytes (o : LongOp) : List PByte := o.lanes.flatMap (fun a => a.units.flatMap (fun u => u.elim [] (·.bytes)))

def acquires (ord : Nat) : Nat := if 1 ≤ ord ∧ ord ≤ 5 then ord else if 11 ≤ ord then ord - 10 else 0
def releases (ord : Nat) : Nat := if 6 ≤ ord ∧ ord ≤ 10 then ord - 5 else if 11 ≤ ord then ord - 10 else 0

def OpKind.isLaneAccess : OpKind → Bool
  | .load | .loadU | .loadQ | .store | .atom _ | .cas => true
  | .spill | .fill | .fillRec | .sfu | .probe | .copy | .rekey | .gather | .raw | .snap | .out | .sigAccess | .fetch
  | .signalWait | .brk => false

def OpKind.isRead : OpKind → Bool
  | .load | .loadU | .loadQ | .atom _ | .cas => true
  | .store | .spill | .fill | .fillRec | .sfu | .probe | .copy | .rekey | .gather | .raw | .snap | .out | .sigAccess
  | .fetch | .signalWait | .brk => false

def OpKind.isTile : OpKind → Bool
  | .snap | .out => true
  | _ => false

def OpKind.isAtomic : OpKind → Bool
  | .atom _ | .cas => true
  | .load | .loadU | .loadQ | .store | .spill | .fill | .fillRec | .sfu | .probe | .copy | .rekey | .gather | .raw
  | .snap | .out | .sigAccess | .fetch | .signalWait | .brk => false

/-- Writes of a group not yet performed. -/
def ownStores (s : State) (gid : Nat) : List (Nat × StoreOp) := s.mem.stores.filter (fun e => decide (e.2.gid = gid))

def ownOps (s : State) (gid : Nat) : List (Nat × LongOp) := s.mem.ops.filter (fun e => decide (e.2.gid = gid))

/-- Operations of the group that a new access must follow: an acquire not yet made (R275), and reads and atomics of
the same bytes (R273); with a release, every read and atomic, whose writes it carries (R275). -/
def opsBefore (s : State) (gid : Nat) (bs : List PByte) (rel : Bool) : List Nat :=
  ((ownOps s gid).filter (fun e =>
    e.2.kind.isRead && (rel || acquires e.2.ord ≠ 0 || meets e.2.bytes bs))).map (·.1)

/-- Writes that a new write or atomic must follow: the group's own towards the same home L2 (R263, R273), those of its
core to the same bytes, which its L1 may have shown (R272), and with a release all of its own (R275). -/
def storesBefore (s : State) (gid : Nat) (bs : List PByte) (rel : Bool) : List Nat :=
  let homes := (bs.map (fun p => homeDie p.loc.line)).eraseDups
  let core := (s.group? gid).elim Config.cores (·.core)
  (s.mem.stores.filter (fun e =>
    if e.2.gid = gid then rel || e.2.bytes.any (fun b => homes.contains (homeDie b.1.loc.line))
    else decide (e.2.core = core) && decide (core < Config.cores) && meets (e.2.bytes.map (·.1)) bs)).map (·.1)

/-- Every write that accesses of the group numbered below `n` have read has been performed (R275). -/
def readsSettled (s : State) (gid n : Nat) : Bool :=
  ((s.group? gid).elim [] (·.readFrom)).all (fun e => decide (n ≤ e.2) || (mget s.mem.stores e.1).isNone)

/-- Signal updates of the group itself to bytes it reads: their value is known only once they are performed (R273,
R346). -/
def signalsBefore (s : State) (gid : Nat) (bs : List PByte) : List Nat :=
  ((ownStores s gid).filter (fun e => decide (e.2.act ≠ .bytes) && meets (e.2.bytes.map (·.1)) bs)).map (·.1)

def noneLeft (s : State) (sts ops : List Nat) : Bool :=
  sts.all (fun i => (mget s.mem.stores i).isNone) && ops.all (fun i => (mget s.mem.ops i).isNone)

/-- Everything a release at scope `sc` of group `gid` waits for has been performed (R275). -/
def releaseReady (s : State) (gid sc : Nat) : Bool :=
  sc = 0 || ((ownStores s gid).isEmpty && (ownOps s gid).all (fun e => !e.2.kind.isRead) && readsSettled s gid s.fresh)

/-- What a release does once ready: at SYSTEM scope dirty host lines are written back (R274, R275). -/
def doRelease (s : State) (cx sc : Nat) : State :=
  if sc = 5 then { s with mem := s.mem.writeBackAll cx } else s

/-- What an acquire at scope `sc` does at its core (R275). -/
def doAcquire (s : State) (core cx sc : Nat) : State := if sc = 0 then s else l1Acquire s core cx

end Sys2Proof.Machine
end

