-- ==== Sys2Proof/Machine/Access.lean ====
section
/-! DEFINITION. The issue of a lane access (R232-R237): checks, capture, translation, the reservation of overlay cells, the
writes it leaves to be performed, and parking (R253-R255). -/
namespace Sys2Proof.Machine

def LongOp.blank : LongOp :=
  { gid := 0, cx := 0, core := 0, kind := .load, flag := none, rec1 := 0, rec2 := 0, brand := 0, brand2 := 0, ord := 0,
    pol := 0, exm := 0, dst := 0, ndst := 0, toReg := false, lanes := [], left := 0, fin := 0,
    res := [], cflags := 0, wpLanes := 0, wpOff := 0, count := 0, rows := [], lines := [],
    leave := false, tile := 0, ioff := 0, obj := 0, kindCode := 0, issueNo := 0, dseq := 0, after := [], afterOps := [],
    pmap := [], pgot := [], asked := 0, carry := [], pre := [], todo := [], pooled := false, recalled := false, parkNo := 0 }

/-- Deterministic mode (R140). -/
def detOf (s : State) (g : Group) : Bool := (s.grid? g.grid).elim false (·.det)

def blockNo (s : State) (g : Group) : Nat := (s.block? g.block).elim 0 (·.b)

/-- The `core` field of a fault record (R254). -/
def Group.coreField (g : Group) : Nat :=
  match g.outrider with
  | some c => 384 + c
  | none => g.core

/-- An operation of group `id` at its current word. -/
def opOf (s : State) (id : Nat) (g : Group) (kind : OpKind) (r : Rec) (brand : Nat) (w : MemWord) : LongOp :=
  let o := originOf s g g.pc
  { LongOp.blank with
    gid := id, cx := g.cx, core := g.core, kind := kind, flag := g.sideFlag w.sel, rec1 := r, brand := brand,
    ord := w.ord.toNat, pol := if w.pol = 0 then r.pol else w.pol.toNat, exm := g.exm, ioff := o.2, obj := o.1,
    issueNo := g.nIssued, wpOff := w.k.toNat }

/-! Fault records (R254, R255). -/

/-- A fault record with `valid` clear; `iobj` is the object address of the image. -/
def faultRec (last mq : Bool) (kind cx brand obj off : Nat) (lanes : Lanes) (iobj ioff core slice code : Nat)
    (cause : Cause) : BitVec 256 :=
  BitVec.ofNat 256 (cause.toNat + code % 65536 * 2 ^ 8 + slice % 64 * 2 ^ 25 + core % 512 * 2 ^ 31 +
    ioff % 2 ^ 32 * 2 ^ 40 + iobj / 2 ^ 40 % 2 ^ 24 * 2 ^ 72 + lanes.toNat * 2 ^ 96 + off % 2 ^ 40 * 2 ^ 160 +
    obj % 2 ^ 24 * 2 ^ 200 + brand % 65536 * 2 ^ 224 + cx % 1024 * 2 ^ 240 + kind % 8 * 2 ^ 250 +
    (if mq then 2 ^ 253 else 0) + (if last then 2 ^ 254 else 0))

/-- A page inserted by ascending offset. -/
def insertOff (f : PageFault × Nat) : List (PageFault × Nat) → List (PageFault × Nat)
  | [] => [f]
  | e :: r => if f.2 < e.2 then f :: e :: r else e :: insertOff f r

/-- The pages the unfinished lanes touch, by the lowest lane touching each, then by offset (R255). -/
def pageRows (ls : List (Nat × List (PageFault × Nat))) : List (PageFault × Nat × Lanes) :=
  ls.foldl (fun acc e =>
    (e.2.foldr insertOff []).foldl (fun acc f =>
      if acc.any (fun x => decide (x.2.1 / pageSize x.1.lg = f.2 / pageSize f.1.lg)) then
        acc.map (fun x => if x.2.1 / pageSize x.1.lg = f.2 / pageSize f.1.lg then
          (x.1, x.2.1, x.2.2 ||| (1#64 <<< e.1)) else x)
      else acc ++ [(f.1, f.2, 1#64 <<< e.1)]) acc) []

/-- The records of one parked instruction. -/
def parkRecords (g : Group) (op : LongOp) (brand : Nat) (obj : Nat) (rows : List (PageFault × Nat × Lanes)) :
    List (BitVec 256) :=
  let n := rows.length
  rows.zipIdx.map (fun e =>
    faultRec (decide (e.2 + 1 = n)) e.1.1.mq op.kindCode op.cx brand obj e.1.2.1
      (if g.outrider.isSome then 0 else if op.kind = .loadU || op.kind = .sigAccess || op.kind = .signalWait || op.kind = .fetch then op.exm else e.1.2.2) op.obj op.ioff g.coreField
      (if g.outrider.isSome then 0 else g.slice) 0 e.1.1.cause)

/-- The park of an operation takes its place in the order of parks (R255, R258). -/
def numberPark (s : State) (opid : Option Nat) (recs : List (BitVec 256)) : State :=
  match opid.bind s.op? with
  | some o =>
    let (n, s) := s.take
    s.setOp (opid.getD 0) { o with
      parkNo := n, pooled := recs.any (fun r => decide (r.extractLsb' 0 8 = cPoolEmpty)) }
  | none => s

/-- The group parks at its instruction with operation `opid` unfinished; the records wait for the fault queue. -/
def parkAt (s : State) (id : Nat) (g : Group) (opid : Option Nat) (recs : List (BitVec 256)) : State :=
  let s := numberPark (s.setGroup id { g with status := .parked, park := opid }) opid recs
  { s with fq := { s.fq with waiting := s.fq.waiting ++ [recs] } }

/-! Checks of R232. -/

/-- The effective brand of an access (R223); the accesses of an outrider's run carry brand 0 (R156). -/
def Group.brandOf (g : Group) (r : Rec) : Nat := if g.outrider.isSome then 0 else r.effBrand g.brd

/-- A record access: the right it needs, further records refused, the D formats refused, and the brand. -/
structure AccessForm where
  k : BitVec 4
  right : Nat
  badRec : Rec → Bool := fun _ => false
  ditherBad : Rec → Bool := fun _ => false
  brand : Group → Rec → Option Nat := fun g r => some (r.effBrand g.brd)

/-- The causes of R232 items 1 to 4, which are not per lane. -/
def AccessForm.check (a : AccessForm) (s : State) (g : Group) : Option Cause :=
  let r := g.rdK a.k
  if !Rec.wf r || a.badRec r then some cRecordInvalid
  else if !Rec.right r a.right then some cRights
  else if a.ditherBad r then some cDitherMap
  else match a.brand g r with
    | none => some cBrandInvalid
    | some b => if s.brandLive g.cx b then none else some cBrandInvalid

/-- The words or elements of one lane, or none for BOUNDS (R225). -/
abbrev Capture := Nat → Option LaneAcc

/-- No byte of the access passes storage of the core (R222). -/
def LaneAcc.within (a : LaneAcc) (limit : Nat) : Bool := a.offs.all (fun o => decide (o < limit))

/-- The lanes that raise BOUNDS. -/
def boundsLanes (s : State) (id : Nat) (g : Group) (r : Rec) (ls : List Nat) (c : Capture) : List Nat :=
  ls.filter (fun l => match c l with
    | none => true
    | some a => r.special && !a.within (coreStore s id g r.obj).2)

/-- `o` = u(index) · 2^scl + SignExtend(off, 24), or the offset alone (R71). -/
def laneOff (g : Group) (w : MemWord) (scl l : Nat) : Int :=
  (if w.idx then ((g.src w.index 0 l).toNat * 2 ^ scl : Nat) else 0) + w.off.toInt

/-- The words at byte offset `o` of a record (R225, R233). -/
def wordAcc (r : Rec) (load : Bool) (n : Nat) (o : Int) (l : Nat) (vals : List Word) : Option LaneAcc :=
  let E : Int := r.extent
  let unit (x : Int) : Option AccUnit :=
    some { hdr := none, off := (r.base + x).toNat, n := 4, bit := 0, elem := 0, bytes := [] }
  let inR (x : Int) : Bool := decide (0 ≤ x) && decide (x + 4 ≤ E)
  if o % 4 ≠ 0 then none
  else
    let xs : List Int := (List.range n).map (fun (j : Nat) => o + 4 * (j : Int))
    if xs.all inR then some { lane := l, off := o, units := xs.map unit, vals := vals }
    else match r.bnd with
      | 0 => none
      | 1 =>
        if load then
          if E < 4 * n then some { lane := l, off := o, units := xs.map (fun _ => none), vals := vals }
          else
            let b : Int := if o < 0 then 0 else E - 4 * n
            some { lane := l, off := b, units := (List.range n).map (fun (j : Nat) => unit (b + 4 * (j : Int))), vals := vals }
        else some { lane := l, off := o, units := xs.map (fun x => if inR x then unit x else none), vals := vals }
      | _ => some { lane := l, off := o, units := xs.map (fun x => if inR x then unit x else none), vals := vals }

/-- Elements e … e + n − 1 of a record (R225, R236, R237). -/
def elemAcc (r : Rec) (load : Bool) (n : Nat) (e : Int) (l : Nat) (vals : List Word) : Option LaneAcc :=
  let N : Int := r.count
  let inR (x : Int) : Bool := decide (0 ≤ x) && decide (x < N)
  let xs : List Int := (List.range n).map (fun (j : Nat) => e + (j : Int))
  let lowOff (us : List (Option AccUnit)) : Int :=
    (us.findSome? (fun u => u.map (fun u => ((u.off : Int) - r.base)))).getD 0
  if xs.all inR || r.bnd ≠ 0 then
    let us := xs.map (fun x =>
      if inR x then some (r.unit x.toNat)
      else if load && r.bnd = 1 then some (r.unit (if x < 0 then 0 else r.count - 1))
      else none)
    some { lane := l, off := lowOff us, units := us, vals := vals }
  else none

/-- The offset a BOUNDS fault reports for a lane (R177 FOFF): from the record base. -/
def faultOff (r : Rec) (quant : Bool) (o : Int) : Int :=
  if quant then
    if 0 ≤ o && o < r.count then ((r.unit o.toNat).off : Int) - r.base else o * fmtBits r.fmt / 8
  else o

/-! Bytes of a unit. -/

/-- A value of `bits` bits placed at the unit's bit position, as masked bytes. -/
def AccUnit.write (u : AccUnit) (bits : Nat) (v : Nat) : List (PByte × Byte × Byte) :=
  (u.bytes.zip (bytesOfNat u.n (v % 2 ^ bits * 2 ^ u.bit))).zip (bytesOfNat u.n ((2 ^ bits - 1) * 2 ^ u.bit)) |>.map
    (fun e => (e.1.1, e.1.2, e.2))

/-- The writes of a captured lane: 32-bit words, or elements of `bits` bits. -/
def LaneAcc.writes (a : LaneAcc) (bits : Nat) : List (List (PByte × Byte × Byte)) :=
  (a.units.zip a.vals).filterMap (fun e => e.1.map (fun u => u.write bits e.2.toNat))

/-! Overlay reservations and deterministic deferral at issue (R288, R301, R302). -/

/-- Branded lines of a write that hold neither a cell nor a reservation of the brand. -/
def linesNeeding (s : State) (cx b : Nat) (bs : List PByte) : List Loc :=
  if b = 0 then []
  else ((bs.filter (·.brd)).map (·.loc.line)).eraseDups.filter (fun l =>
    (cell? s cx b l).isNone && (reserved? s cx b l).isNone)

/-- One pool line reserved for a line of brand `b`; none with the pool empty. -/
def reserve (s : State) (cx b op : Nat) (line : Loc) : Option State :=
  match (freePool s cx).head? with
  | some q => some { s with br := { s.br with
      cells := { cx := cx, brand := b, line := line, pool := q, op := some op } :: s.br.cells } }
  | none => none

def reserveAll (cx b op : Nat) : State → List Loc → Option State
  | s, [] => some s
  | s, l :: r =>
    match reserve s cx b op l with
    | some s => reserveAll cx b op s r
    | none => none

/-- The commit buffer of a context can take one more entry: a place in its last pool line, or a free line (R288, R299). -/
def commitRoom (s : State) (cx : Nat) : Bool :=
  decide ((s.mem.commit.filter (fun c => decide (c.cx = cx))).length % 16 ≠ 0) || !(freePool s cx).isEmpty

/-- Cells of brand `b` made now for lines; none with the pool empty. -/
def makeCells (s : State) (cx b : Nat) (ls : List Loc) : Option State :=
  ls.foldl (fun (o : Option State) l => o.bind (fun s => (freePool s cx).head?.map (fun q => materialise s cx b l q []))) (some s)

/-- An entry appended to the commit buffer of its context; none with the pool empty (R288, R302). -/
def appendCommit (s : State) (c : Commit) : Option State :=
  if commitRoom s c.cx then some { s with mem := { s.mem with commit := s.mem.commit ++ [c] } } else none

/-- A deferred write of a lane appended to the commit buffer (R288): its cells are materialised now; none with the pool empty. -/
def defer (s : State) (gid : Nat) (g : Group) (lane b : Nat) (bytes : List (PByte × Byte × Byte)) (add : Option Word) :
    Option State :=
  (makeCells s g.cx b (linesNeeding s g.cx b (bytes.map (·.1)))).bind (fun s =>
    let seq := (s.group? gid).elim 0 (fun g => sget 0 g.nDefer lane)
    (appendCommit s { cx := g.cx, grid := g.grid, key := [blockNo s g, g.gidx, lane, seq], gid := gid, lane := lane
                      brand := b, bytes := bytes, addF32 := add, tags := [] }).map (fun s =>
      s.updGroup gid (fun g => { g with nDefer := sset 0 g.nDefer lane (seq + 1) })))

/-- Bytes by the 4-byte words of memory they lie in, in order: an entry of the commit buffer holds one (R288; DEDUCED,
notes/assumptions/135.md). -/
def byWord : List (PByte × Byte × Byte) → List (List (PByte × Byte × Byte))
  | [] => []
  | e :: r =>
    match byWord r with
    | (f :: w) :: ws =>
      if f.1.loc.sp = e.1.loc.sp ∧ f.1.loc.a / 4 = e.1.loc.a / 4 then (e :: f :: w) :: ws else [e] :: (f :: w) :: ws
    | ws => [e] :: ws

/-- Deferred writes of an engine or a tile, under lane 0 and the sequence number the instruction took at its issue (R288); a raw
copy's entries carry the tags of their granules. None with the pool empty. -/
def deferWords (s : State) (gid : Nat) (g : Group) (op : LongOp) (bytes : List (PByte × Byte × Byte)) (tags : List (Loc × Bool)) :
    Option State :=
  (makeCells s g.cx op.brand (linesNeeding s g.cx op.brand (bytes.map (·.1)))).bind (fun s =>
    (byWord bytes).foldl (fun (o : Option State) w => o.bind (fun s =>
      let (n, s) := s.take
      appendCommit s { cx := g.cx, grid := g.grid, key := [blockNo s g, g.gidx, 0, op.dseq, n], gid := gid, lane := 0
                       brand := op.brand, bytes := w, addF32 := none
                       tags := tags.filter (fun t => w.any (fun e => decide (e.1.loc.sp = t.1.sp) && decide (e.1.loc.a / 32 = t.1.a / 32))) }))
      (some s))

/-- An engine or tile instruction issues: its deferred writes will stand at this place of lane 0's sequence (R288). -/
def Group.takeSeq (g : Group) (det : Bool) : Group :=
  if det then { g with nDefer := sset 0 g.nDefer 0 (sget 0 g.nDefer 0 + 1) } else g

/-- The bytes that go to deterministic-shared pages are deferred in deterministic mode; one that meets `wp` is stopped at
its memory port like any other (R259, R288). -/
def deferred (det : Bool) (p : PByte) : Bool := det && p.det = 1 && !p.wp

/-- A line of a deterministic-private page owned by another block (R290). -/
def detForeign (s : State) (g : Group) (b : Nat) (p : PByte) : Bool :=
  p.det = 2 && s.mem.detOwn.any (fun o => decide (o.grid = g.grid) && decide (o.line = p.loc.line) &&
    decide (o.brand = dirBrand b p) && decide (o.block ≠ g.block))

/-- The writing block takes the lines of deterministic-private pages that no block owns. -/
def detTake (s : State) (g : Group) (b : Nat) (bs : List PByte) : State :=
  bs.foldl (fun s p =>
    if p.det = 2 && !s.mem.detOwn.any (fun o => decide (o.grid = g.grid) && decide (o.line = p.loc.line) &&
        decide (o.brand = dirBrand b p)) then
      { s with mem := { s.mem with detOwn :=
          { grid := g.grid, line := p.loc.line, brand := dirBrand b p, block := g.block } :: s.mem.detOwn } }
    else s) s

/-- One lane of a store leaves its writes (R274): to be performed, deferred, or done at once where they go to the spill
stack, its release to follow (R235, R275); none with the pool empty. `units` are its words or elements. -/
def issueWrite (s : State) (gid : Nat) (g : Group) (opid : Nat) (op : LongOp) (lane : Nat)
    (units : List (List (PByte × Byte × Byte))) : Option State :=
  let det := detOf s g
  let now := (units.flatten).filter (fun e => !deferred det e.1)
  match reserveAll g.cx op.brand opid s (linesNeeding s g.cx op.brand (now.map (·.1))) with
  | none => none
  | some s' =>
    match units.foldl (fun (o : Option State) u =>
      let d := u.filter (fun e => deferred det e.1)
      if d.isEmpty then o
      else o.bind (fun s => if op.kind.isTile then deferWords s gid g op d [] else defer s gid g lane op.brand d none)) (some s') with
    | none => none
    | some s' =>
      let rel := releases op.ord
      let spill := now.all (fun e => e.1.loc.inSpill)
      if now.isEmpty then some s'
      else if spill && rel = 0 then some (writeBytes s' g.cx op.brand now)
      else
        let s' := if spill then writeBytes s' g.cx op.brand now else s'
        let now := if spill then [] else now
        let bs := now.map (·.1)
        let s' := if det then detTake s' g op.brand (bs.filter (fun p => !p.wp)) else s'
        let before := storesBefore s' gid bs (rel ≠ 0)
        let beforeOps := (opsBefore s' gid bs (rel ≠ 0)).filter (· ≠ opid)
        let (i, s') := s'.take
        let st : StoreOp := { gid := gid, op := opid, cx := g.cx, core := g.core, brand := op.brand, lane := lane,
                              pol := op.pol, rel := rel, act := .bytes, after := before, afterOps := beforeOps,
                              bytes := now }
        let s' := { s' with mem := { s'.mem with stores := mput s'.mem.stores i st } }
        -- a release shows nothing before its writes are performed, and a lane that meets `wp` writes nothing (R259)
        some (if rel = 0 && !bs.any (·.wp) then now.foldl (fun s e => l1Issue s g.core g.cx op.pol op.brand i e) s' else s')

/-- Bytes at object offsets as one access. -/
def LaneAcc.ofOffs (offs : List Nat) : LaneAcc :=
  { lane := 0, off := 0, vals := []
    units := offs.map (fun o => some { hdr := none, off := o, n := 1, bit := 0, elem := 0, bytes := [] }) }

/-! Placing the lanes of an access. -/

/-- Where a lane of an access stands after its translation. -/
inductive Placed where
  | done (s : State) (a : LaneAcc)
  | stuck (fs : List (PageFault × Nat))

/-- A lane whose pool reservation failed: the pages it touches, with cause POOL_EMPTY (R302). -/
def poolFaults (cs : Chunks) (a : LaneAcc) : List (PageFault × Nat) :=
  a.offs.foldl (fun l o =>
    let lg := match cs.at o with
      | .ok t => t.1.lg
      | .error f => f.lg
    if l.any (fun e => decide (e.2 / pageSize e.1.lg = o / pageSize lg)) then l
    else l ++ [({ cause := cPoolEmpty, lg := lg, mq := false }, o)]) []

/-- What a translated lane of an access does at issue; none with the pool empty. -/
abbrev Put := State → Group → LaneAcc → Option (State × LaneAcc)

/-- A load does nothing before it completes. -/
def putLoad : Put := fun s _ a => some (s, a)

/-- A store issues its writes, of `bits` bits each. -/
def putStore (gid opid : Nat) (op : LongOp) (bits : Nat) : Put := fun s g a =>
  (issueWrite s gid g opid op a.lane (a.writes bits)).map (fun s => (s, a))

/-- One lane placed: translated, then put. -/
def placeLane (s : State) (gid : Nat) (g : Group) (op : LongOp) (put : Put) (cs : Chunks) (a : LaneAcc) : Placed :=
  if Rec.special op.rec1 then
    let sp := (coreStore s gid g (Rec.obj op.rec1)).1
    match put s g (a.bind (fun o => { loc := { sp := sp, a := o }, wp := false, brd := false, det := 0 })) with
    | some (s, b) => .done s b
    | none => .stuck (poolFaults cs a)
  else
    let fs := a.faults cs
    if !fs.isEmpty then .stuck fs
    else match put s g (a.bind cs.byte) with
      | some (s, b) => .done s b
      | none => .stuck (poolFaults cs a)

/-- The lanes of an access placed in ascending order: the state, the lanes placed and those left. -/
def placeAll (gid : Nat) (g : Group) (op : LongOp) (put : Put) (cs : Chunks) :
    State → List LaneAcc → State × List LaneAcc × List (LaneAcc × List (PageFault × Nat))
  | s, [] => (s, [], [])
  | s, a :: r =>
    match placeLane s gid g op put cs a with
    | .done s b =>
      let (s, ok, bad) := placeAll gid g op put cs s r
      (s, b :: ok, bad)
    | .stuck fs =>
      let (s, ok, bad) := placeAll gid g op put cs s r
      (s, ok, (a, fs) :: bad)

/-- A tied load that waits for held writes to be flushed before it (R147). -/
def LongOp.waitsTie (o : LongOp) : Bool := o.leave && o.kind.isRead

def lanesMask (ls : List LaneAcc) : Lanes := laneSet (ls.map (·.lane))

/-- An access of captured lanes (`count` of a read is the number below which the group's own writes precede it): translated and placed; the group goes on, or parks with what is left (R253). `next` is
the group after the instruction, `stay` the group parked at it. -/
def access (s : State) (id : Nat) (g : Group) (opid : Nat) (op : LongOp) (put : Put) (todo : List LaneAcc)
    (next stay : Group → Group) : State :=
  let s := s.setGroup id g
  let cs : Chunks := if Rec.special op.rec1 then [] else
    translateChunks s op.cx (Rec.obj op.rec1) true (todo.flatMap LaneAcc.offs)
  let s := noteTlb s op.cx cs.good
  let (s, ok, bad) := placeAll id g op put cs s todo
  let left := bad.map (·.1)
  let op := { op with lanes := op.lanes.filter (fun (a : LaneAcc) => !(lanesMask todo).getLsbD a.lane) ++ ok ++ left
                      left := lanesMask left }
  let rel : Bool := releases op.ord ≠ 0
  let op := if op.kind.isRead then
      { op with count := s.fresh
                pgot := (op.bytes.filter (fun p => p.loc.inSpill)).map (fun p => (p.loc, readAt s op.cx [] p.loc))
                after := if op.kind.isAtomic then storesBefore s id op.bytes rel else signalsBefore s id op.bytes
                afterOps := (opsBefore s id op.bytes rel).filter (· ≠ opid) }
    else op
  let s := s.setOp opid op
  match s.group? id with
  | none => s
  | some g =>
    if left.isEmpty then s.setGroup id (next g)
    else
      parkAt s id (stay g) (some opid)
        (parkRecords g op op.brand (Rec.obj op.rec1) (pageRows (bad.map (fun e => (e.1.lane, e.2)))))

/-! Stalls that precede the issue of an access. -/

/-- The store-fault record queue holds 16 while IH = 1 (R260). -/
def Group.reportsFull (g : Group) : Bool := g.ih && decide (16 ≤ g.sfq.length)

/-- The issue of a long-latency operation on side `sel`: a flag count of 63 stalls it (R62); `writes` marks those that
R260 holds back. -/
def withFlag (s : State) (id : Nat) (g : Group) (sel writes : Bool) (k : State → Group → State) : State :=
  if writes && g.reportsFull then s.setGroup id (g.stall .overflowed)
  else match g.sideFlag sel with
    | some f => if g.count f ≥ 63 then s.setGroup id (g.stall (.flagFull f)) else k s (g.countUp f)
    | none => k s g

/-- The pending pushes of an operation, in register order (R76, R162). -/
def Group.pushPending (g : Group) (opid n : Nat) (m : Lanes) : Group :=
  (List.range n).foldl (fun g j => g.push m (fun _ => { val := 0, pend := some (opid, j) })) g

/-- A lane access as a whole: R79, R232, BOUNDS by lane, the stalls, then its effect. -/
structure LaneForm where
  form : AccessForm
  uses : Uses
  lanes : Group → List Nat
  cap : Group → Rec → Capture
  off : Group → Rec → Nat → Int
  sel : Bool
  writes : Bool
  /-- Bytes refused at issue: a line of a deterministic-private page that another block owns (R290). -/
  detCheck : Bool := false
  /-- One access for the whole group: a BOUNDS fault is then not per lane (R234). -/
  once : Bool := false
  /-- Bytes whose write is deferred in deterministic mode (R288). -/
  defers : PByte → Bool := fun _ => false

/-- Lanes whose translated bytes lie in a line that another block owns (R290). -/
def detLanes (s : State) (g : Group) (r : Rec) (b : Nat) (as : List LaneAcc) : List Nat :=
  if detOf s g && !r.special then
    let cs := translateChunks s g.cx r.obj true (as.flatMap LaneAcc.offs)
    (as.filter (fun a => (a.faults cs).isEmpty && a.offs.any (fun o => detForeign s g b (cs.byte o)))).map (·.lane)
  else []

/-- A branded line that a deferred write would copy at its issue while it is Owned under an ancestor brand: the line and
that brand (R271, R301). -/
def recallOf (s : State) (g : Group) (r : Rec) (b : Nat) (defers : PByte → Bool) (as : List LaneAcc) : Option (Loc × Nat) :=
  if detOf s g && !r.special then
    let cs := translateChunks s g.cx r.obj true (as.flatMap LaneAcc.offs)
    let bs := ((as.filter (fun a => (a.faults cs).isEmpty)).flatMap (fun a => a.offs.map cs.byte)).filter defers
    (linesNeeding s g.cx b bs).findSome? (fun l =>
      let h := (resolve s g.cx b { loc := l, wp := false, brd := true, det := 0 }).1
      if owned s l h then some (l, h) else none)
  else none

def LaneForm.trap (f : LaneForm) (s : State) (id : Nat) (g : Group) : Option Trap :=
  match f.form.check s g with
  | some c => some { cause := c }
  | none =>
    let r := g.rdK f.form.k
    match boundsLanes s id g r (f.lanes g) (f.cap g r) with
    | l :: ls => some { cause := cBounds, lanes := if f.once then none else some (laneSet (l :: ls)), off := f.off g r l, kreg := f.form.k.toNat }
    | [] =>
      if f.detCheck then
        match detLanes s g r ((f.form.brand g r).getD 0) ((f.lanes g).filterMap (f.cap g r)) with
        | l :: ls => some { cause := cDetOwnership, lanes := some (laneSet (l :: ls)), off := f.off g r l,
                            kreg := f.form.k.toNat }
        | [] => none
      else none

/-- The issue of a lane access; `eff` gets the state, the group with its flag counted, the record and the lanes. -/
def LaneForm.run (f : LaneForm) (eff : State → Group → Rec → List LaneAcc → State) (s : State) : Out :=
  match s.group? s.cur with
  | none => .next s
  | some g =>
    match checkUses s s.cur g f.uses with
    | some c => .next (takeTrap s s.cur g { cause := c })
    | none =>
      match f.trap s s.cur g with
      | some t => .next (takeTrap s s.cur g t)
      | none =>
        let r := g.rdK f.form.k
        let as := (f.lanes g).filterMap (f.cap g r)
        match recallOf s g r ((f.form.brand g r).getD 0) f.defers as with
        | some (l, h) => .next (s.setGroup s.cur (g.stall (.recall l h)))
        | none => .next (withFlag s s.cur g f.sel f.writes (fun s g' => eff s g' r as))

end Sys2Proof.Machine
end

