-- ==== Sys2Proof/Machine/Approx.lean ====
section
/-! DEFINITION. The error bounds of R208: each approximated function computed far beyond its bound in fixed point, and the
test that an FP32 result keeps the bound. Functions are numbered 0 FRCP, 1 FRSQ, 2 FEXP2, 3 FLOG2, 4 FSIN, 5 FCOS, 6 FTANH. -/
namespace Sys2Proof.Machine

/-- One and ln 2 at scale 2^96. -/
def oneQ : Nat := 2 ^ 96
def ln2Q : Nat := 0xb17217f7d1cf79abc9e3b398

/-- π/2 at scale 2^320. -/
def halfPi : Nat := 0x1921fb54442d18469898cc51701b839a252049c1114cf98e804177d4c76273644a29410f31c6809bb

/-- The terms t, t·x/k, t·x²/(k(k+1)), … of a power series at scale 2^96, summed with the signs `alt` gives; `st` steps of
`k` go by at each term. -/
def series (x : Nat) (alt : Bool) (st : Nat) : Nat → Nat → Nat → Int
  | 0, _, _ => 0
  | n + 1, k, t =>
    let t' := (List.range st).foldl (fun u j => u * x / oneQ / (k + j)) t
    t + (if alt then - series x alt st n (k + st) t' else series x alt st n (k + st) t')

/-- e^x of 0 ≤ x < 1. -/
def expQ (x : Nat) : Nat := (series x false 1 40 1 oneQ).toNat

/-- 2^X of a signed X at scale 2^96: a significand at that scale and its exponent. -/
def exp2Q (X : Int) : Nat × Int := (expQ ((X % (oneQ : Int)).toNat * ln2Q / oneQ), X / (oneQ : Int))

/-- 2 · atanh z of 0 ≤ z ≤ 1/3, as a series in z². -/
def atanhQ (z2 : Nat) : Nat → Nat → Nat → Nat
  | 0, _, _ => 0
  | n + 1, k, t => 2 * t / k + atanhQ z2 n (k + 2) (t * z2 / oneQ)

/-- log₂ of a number m ≥ 1 taken as m / 2^⌊log₂ m⌋, in [0, 1). -/
def log2Q (m : Nat) : Nat :=
  let p := 2 ^ Nat.log2 m
  let z := (m - p) * oneQ / (m + p)
  atanhQ (z * z / oneQ) 64 1 z * oneQ / ln2Q

/-- sin and cos of m · 2^e (e ≥ −320): signed, at scale 2^96. -/
def sinCosQ (m : Nat) (e : Int) : Int × Int :=
  let X := m * 2 ^ (e + 320).toNat
  let r := X % halfPi / 2 ^ 224
  let sn : Int := series r true 2 24 2 r
  let cs : Int := series r true 2 24 1 oneQ
  match X / halfPi % 4 with
  | 0 => (sn, cs)
  | 1 => (cs, -sn)
  | 2 => (-sn, -cs)
  | _ => (-cs, sn)

/-- A signed number at scale 2^96 as a value. -/
def ofQ (v : Int) : FV := .fin (decide (v < 0)) v.natAbs (-96)

/-- x at scale 2^96, towards −∞. -/
def toQ (neg : Bool) (m : Nat) (e : Int) : Int :=
  let a : Int := if neg then -(m : Int) else m
  if 0 ≤ e + 96 then a * 2 ^ (e + 96).toNat else a / 2 ^ (-(e + 96)).toNat

/-- The function's value at ±m · 2^e, to far below its bound. -/
def nearValue (fn : Nat) (neg : Bool) (m : Nat) (e : Int) : FV :=
  match fn with
  | 0 => .fin neg (2 ^ 128 / m) (-e - 128)
  | 1 =>
    let s : Nat := (e % 2).toNat
    .fin false (isqrt 110 (2 ^ 208 / (m * 2 ^ s))) (-104 - (e - s) / 2)
  | 2 => let y := exp2Q (toQ neg m e); .fin false y.1 (y.2 - 96)
  | 3 => ofQ ((log2Q m : Int) + (e + Nat.log2 m) * (oneQ : Int))
  | 4 => let v := (sinCosQ m e).1; ofQ (if neg then -v else v)
  | 5 => ofQ (sinCosQ m e).2
  | _ =>
    let y := exp2Q (2 * toQ false m e * (oneQ : Int) / (ln2Q : Int))
    let w := y.1 * 2 ^ y.2.toNat
    ofQ ((if neg then -1 else 1) * (((w - oneQ) * oneQ / (w + oneQ) : Nat) : Int))

/-- The bound of R208 on the distance from an exact value `x` of argument ±m · 2^e, as k · 2^b (twice where the table
gives the larger of two). -/
def boundOf (fn : Nat) (m : Nat) (e : Int) (x : FV) : List (Nat × Int) :=
  let ulp : Int := match x with
    | .fin _ mx ex => max (ex + Nat.log2 mx - 23) (-149)
    | _ => -149
  let top := e + Nat.log2 m
  match fn with
  | 0 | 1 => [(1, ulp)]
  | 2 => [(2, ulp)]
  | 3 => if top = 0 || top = -1 || (top = 1 && decide (m = 2 ^ Nat.log2 m)) then [(1, -22)] else [(2, ulp)]
  | 4 | 5 => if top < 15 || (top = 15 && decide (m = 2 ^ Nat.log2 m)) then [(1, -21)] else [(1, -14)]
  | _ => [(2, ulp), (1, -22)]

/-- An FP32 result lies within the bound: it lies within the bound less 2^−60 of it from the computed value, whose distance from the
exact one is smaller than that (notes/assumptions/9.md). -/
def inBound (fn : Nat) (m : Nat) (e : Int) (x : FV) (r : Word) : Bool :=
  match fp32.decode r.toNat, x with
  | .fin n1 m1 e1, .fin n2 m2 e2 =>
    let d := sumFin n1 m1 e1 (!n2) m2 e2
    (boundOf fn m e x).any (fun b =>
      decide ((sumFin false d.1.natAbs d.2 true (b.1 * 2 ^ 60 - 1) (b.2 - 60)).1 ≤ 0))
  | _, _ => false

/-- The result of an approximated function at ±m · 2^e: the free value where it keeps the bound, else the nearest. -/
def boundedValue (fn : Nat) (neg : Bool) (m : Nat) (e : Int) (free : Word) : Word :=
  let x := nearValue fn neg m e
  if inBound fn m e x free then free
  else match x with
    | .fin n k q => BitVec.ofNat 32 (fp32.round .rne false n k q true).1
    | _ => 0

end Sys2Proof.Machine
end

