-- ==== Sys2Proof/Machine/LaneInt.lean ====
section
/-! DEFINITION. Integer lane instructions, compares and select (R197-R202) and top-k insertion (R217). -/
namespace Sys2Proof.Machine

/-- An integer result: no flag (R197). -/
def intr (v : Word) : Word × FFlags := (v, 0)

def execVmov (d a : BitVec 7) (m : Option Mod) (s : State) : Out := vec1 d a m intr s
/-- VBCAST: S[a] in every active lane (R199). -/
def execVbcast (d a : BitVec 7) (s : State) : Out :=
  issueG s { vw := [d.toNat], sc := [a.toNat] } (fun g => (g.result d (fun _ => intr (g.rdS a))).adv 1)
/-- VLANE: the lane's index (R199). -/
def execVlane (d : BitVec 7) (s : State) : Out :=
  issueG s { vw := [d.toNat] } (fun g => (g.result d (fun l => intr (BitVec.ofNat 32 l))).adv 1)
def execVadd (d a b : BitVec 7) (m : Option Mod) (s : State) : Out := vec2 d a b m (pure2 (· + ·)) s
def execVsub (d a b : BitVec 7) (m : Option Mod) (s : State) : Out := vec2 d a b m (pure2 (· - ·)) s
def execVadds (d a b : BitVec 7) (m : Option Mod) (s : State) : Out :=
  vec2 d a b m (pure2 (fun x y => clamp32 (x.toInt + y.toInt))) s
def execVsubs (d a b : BitVec 7) (m : Option Mod) (s : State) : Out :=
  vec2 d a b m (pure2 (fun x y => clamp32 (x.toInt - y.toInt))) s
def execVmul (d a b : BitVec 7) (m : Option Mod) (s : State) : Out := vec2 d a b m (pure2 (· * ·)) s
def execVmulh (d a b : BitVec 7) (m : Option Mod) (s : State) : Out := vec2 d a b m (pure2 mulh32) s
def execVmulhu (d a b : BitVec 7) (m : Option Mod) (s : State) : Out := vec2 d a b m (pure2 mulhu32) s
/-- VMAD: A · B + C modulo 2^32 (R200). -/
def execVmad (d a b : BitVec 7) (m : Mod) (s : State) : Out := vec3 d a b m (fun x y z => intr (x * y + z)) s
/-- VABS: the most negative number stays itself (R198). -/
def execVabs (d a : BitVec 7) (m : Option Mod) (s : State) : Out :=
  vec1 d a m (fun x => intr (if x.msb then -x else x)) s
def execVneg (d a : BitVec 7) (m : Option Mod) (s : State) : Out := vec1 d a m (fun x => intr (-x)) s
def execVmin (d a b : BitVec 7) (m : Option Mod) (s : State) : Out := vec2 d a b m (pure2 smin32) s
def execVmax (d a b : BitVec 7) (m : Option Mod) (s : State) : Out := vec2 d a b m (pure2 smax32) s
def execVminu (d a b : BitVec 7) (m : Option Mod) (s : State) : Out := vec2 d a b m (pure2 umin32) s
def execVmaxu (d a b : BitVec 7) (m : Option Mod) (s : State) : Out := vec2 d a b m (pure2 umax32) s
def execVand (d a b : BitVec 7) (m : Option Mod) (s : State) : Out := vec2 d a b m (pure2 (· &&& ·)) s
def execVor (d a b : BitVec 7) (m : Option Mod) (s : State) : Out := vec2 d a b m (pure2 (· ||| ·)) s
def execVxor (d a b : BitVec 7) (m : Option Mod) (s : State) : Out := vec2 d a b m (pure2 (· ^^^ ·)) s
def execVnot (d a : BitVec 7) (m : Option Mod) (s : State) : Out := vec1 d a m (fun x => intr (~~~x)) s
def execVshl (d a b : BitVec 7) (m : Option Mod) (s : State) : Out := vec2 d a b m (pure2 shl32) s
def execVshr (d a b : BitVec 7) (m : Option Mod) (s : State) : Out := vec2 d a b m (pure2 shr32) s
def execVsar (d a b : BitVec 7) (m : Option Mod) (s : State) : Out := vec2 d a b m (pure2 sar32) s
def execVbfx (d a b : BitVec 7) (m : Option Mod) (s : State) : Out := vec2 d a b m (pure2 bitFieldX) s
/-- VBFI replaces the field in C (R200). -/
def execVbfi (d a b : BitVec 7) (m : Mod) (s : State) : Out := vec3 d a b m (fun x y z => intr (bitFieldI x y z)) s
def execVclz (d a : BitVec 7) (m : Option Mod) (s : State) : Out := vec1 d a m (fun x => intr (clz32 x)) s
def execVpopc (d a : BitVec 7) (m : Option Mod) (s : State) : Out := vec1 d a m (fun x => intr (popc32 x)) s
/-- VLEA: A + B · 2^sh (R200). -/
def execVlea (sh : BitVec 2) (d a b : BitVec 7) (m : Option Mod) (s : State) : Out :=
  vec2 d a b m (pure2 (fun x y => x + (y <<< sh.toNat))) s

def execVmovi (d : BitVec 7) (i : BitVec 17) (s : State) : Out :=
  issueG s { vw := [d.toNat] } (fun g => (g.result d (fun _ => intr (i.signExtend 32))).adv 1)
def execVaddVri (d a : BitVec 7) (i : BitVec 10) (s : State) : Out := vecI d a (· + immS i) s
def execVmulVri (d a : BitVec 7) (i : BitVec 10) (s : State) : Out := vecI d a (· * immS i) s
def execVandVri (d a : BitVec 7) (i : BitVec 10) (s : State) : Out := vecI d a (· &&& immS i) s
def execVorVri (d a : BitVec 7) (i : BitVec 10) (s : State) : Out := vecI d a (· ||| immS i) s
def execVxorVri (d a : BitVec 7) (i : BitVec 10) (s : State) : Out := vecI d a (· ^^^ immS i) s
def execVshlVri (d a : BitVec 7) (i : BitVec 10) (s : State) : Out := vecI d a (fun x => shl32 x (immU i)) s
def execVshrVri (d a : BitVec 7) (i : BitVec 10) (s : State) : Out := vecI d a (fun x => shr32 x (immU i)) s
def execVsarVri (d a : BitVec 7) (i : BitVec 10) (s : State) : Out := vecI d a (fun x => sar32 x (immU i)) s
def execVminVri (d a : BitVec 7) (i : BitVec 10) (s : State) : Out := vecI d a (fun x => smin32 x (immS i)) s
def execVmaxVri (d a : BitVec 7) (i : BitVec 10) (s : State) : Out := vecI d a (fun x => smax32 x (immS i)) s
def execVminuVri (d a : BitVec 7) (i : BitVec 10) (s : State) : Out := vecI d a (fun x => umin32 x (immU i)) s
def execVmaxuVri (d a : BitVec 7) (i : BitVec 10) (s : State) : Out := vecI d a (fun x => umax32 x (immU i)) s

/-! Compares write the active lanes' bits of a mask and push nothing (R201). -/

def Group.maskBits (g : Group) (q : BitVec 4) (f : Nat → Bool) : Group :=
  g.wrM q (g.active.foldl (fun m l => if f l then m ||| (1#64 <<< l) else m &&& ~~~(1#64 <<< l)) (g.rdM q))

def execVcmp (c : BitVec 3) (q : BitVec 4) (a b : BitVec 7) (m : Option Mod) (s : State) : Out :=
  let x := modOf m
  issueG s { all := true, vr := [(a.toNat, x.swzA), (b.toNat, x.swzB)], msk := [q] } (fun g =>
    (g.maskBits q (fun l => condI c (g.src a x.swzA l) (g.src b x.swzB l))).adv (modWords m))

def execVcmpVri (c : BitVec 3) (q : BitVec 4) (a : BitVec 7) (i : BitVec 10) (s : State) : Out :=
  issueG s { all := true, vr := [(a.toNat, 0)], msk := [q] } (fun g =>
    (g.maskBits q (fun l => condI c (g.src a 0 l) (if condUnsigned c then immU i else immS i))).adv 1)

/-- VSEL: A where the lane's bit of M[c] is set, else B (R202). -/
def execVsel (d a b : BitVec 7) (m : Mod) (s : State) : Out :=
  let c : BitVec 4 := m.codeC.extractLsb' 0 4
  issueG s { (vuses d [(a, m.swzA), (b, m.swzB)]) with msk := [c] } (fun g =>
    (g.result d (fun l => intr (if (g.rdM c).getLsbD l then g.src a m.swzA l else g.src b m.swzB l))).adv 2)

/-! Top-k insertion (R217). -/

/-- `Better(s, i, t, u)`. -/
def better (sc : Word) (ix : Word) (t u : Word) : Bool :=
  let x := fp32.decode sc.toNat
  let y := fp32.decode t.toNat
  if x.isNaN || y.isNaN then false
  else decide (0 < FV.cmp false x y) || (decide (FV.cmp false x y = 0) && ix.ult u)

/-- A list of (score, index) pairs with the new pair in its place, and that place. -/
def topInsert (sc ix : Word) (ps : List (Word × Word)) : List (Word × Word) × Nat :=
  let p := (ps.findIdx? (fun e => better sc ix e.1 e.2)).getD ps.length
  if p < ps.length then ((ps.take p ++ [(sc, ix)] ++ ps.drop p).take ps.length, p) else (ps, p)

/-- TOPKI with k = `k` + 1 pairs (R217). -/
def execTopki (d a : BitVec 7) (k : BitVec 3) (i : BitVec 7) (s : State) : Out :=
  let n := k.toNat + 1
  let pair (g : Group) (l j : Nat) : Word × Word :=
    (g.src (d + BitVec.ofNat 7 (2 * j)) 0 l, g.src (d + BitVec.ofNat 7 (2 * j + 1)) 0 l)
  issueG s { all := true, vr := [(a.toNat, 0), (i.toNat, 0)], vw := (List.range (2 * n)).map (d.toNat + ·) } (fun g =>
    let ins (l : Nat) := topInsert (g.src a 0 l) (g.src i 0 l) ((List.range n).map (pair g l))
    let g' := g.active.foldl (fun h l =>
      ((ins l).1.zipIdx).foldl (fun h e =>
        (h.vset (g.bv + d.toNat - 0x10 + 2 * e.2) l e.1.1).vset (g.bv + d.toNat - 0x10 + 2 * e.2 + 1) l e.1.2) h) g
    ({ g' with Q := (g.pushVals g.exm (fun l => BitVec.ofNat 32 (ins l).2)).Q }).adv 1)

end Sys2Proof.Machine
end

