-- ==== Sys2Proof/Machine/LaneFloat.lean ====
section
/-! DEFINITION. Floating-point lane instructions (R203-R206), conversions and packing (R209-R211). -/
namespace Sys2Proof.Machine

/-- A result of an element operation as bits. -/
def bits32 (r : Nat × FFlags) : Word × FFlags := (BitVec.ofNat 32 r.1, r.2)

/-- The format of an x2 code: 1 FP16, 2 BF16 (R203). -/
def x2Fmt (f : BitVec 2) : FFmt := if f = 1 then fp16 else bf16

/-- An operation on each element of a lane: the whole word under F32, both halves under the x2 formats (R203). -/
def perElem (f : BitVec 2) (op : FFmt → Nat → Nat → Nat → Nat × FFlags) (a b c : Word) : Word × FFlags :=
  if f = 0 then bits32 (op fp32 a.toNat b.toNat c.toNat)
  else
    let h (x : Word) (i : Nat) : Nat := bitsOf x.toNat (16 * i) 16
    let r0 := op (x2Fmt f) (h a 0) (h b 0) (h c 0)
    let r1 := op (x2Fmt f) (h a 1) (h b 1) (h c 1)
    (BitVec.ofNat 32 (r1.1 * 65536 + r0.1), r0.2 ||| r1.2)

/-- A two-operand form over element values. -/
def floatBin (f : BitVec 2) (d a b : BitVec 7) (m : Option Mod)
    (op : FFmt → RMode → Bool → FV → FV → Nat × FFlags) (s : State) : Out :=
  let x := modOf m
  vec2 d a b m (fun p q => perElem f (fun F u v _ => op F (modMode x) (modSat x) (F.decode u) (F.decode v)) p q 0) s

def execFadd (f : BitVec 2) (d a b : BitVec 7) (m : Option Mod) (s : State) : Out :=
  floatBin f d a b m (fun F r t x y => F.addV r t x y) s
/-- FSUB: A − B; a NaN B keeps its sign (R40, R204). -/
def execFsub (f : BitVec 2) (d a b : BitVec 7) (m : Option Mod) (s : State) : Out :=
  floatBin f d a b m (fun F r t x y => F.addV r t x y.negate) s
def execFmul (f : BitVec 2) (d a b : BitVec 7) (m : Option Mod) (s : State) : Out :=
  floatBin f d a b m (fun F r t x y => F.mulV r t x y) s
def execFdiv (f : BitVec 2) (d a b : BitVec 7) (m : Option Mod) (s : State) : Out :=
  floatBin f d a b m (fun F r t x y => F.divV r t x y) s
/-- FFMA: one rounding (R204). -/
def execFfma (f : BitVec 2) (d a b : BitVec 7) (m : Mod) (s : State) : Out :=
  vec3 d a b m (perElem f (fun F u v w => F.fmaV (modMode m) (modSat m) (F.decode u) (F.decode v) (F.decode w))) s
/-- FSCALE reads the whole of B as one INT32 (R204). -/
def execFscale (f : BitVec 2) (d a b : BitVec 7) (m : Option Mod) (s : State) : Out :=
  let x := modOf m
  vec2 d a b m (fun p q => perElem f (fun F u _ _ => F.scaleV (modMode x) (modSat x) (F.decode u) q.toInt) p 0 0) s
def execFmin (f : BitVec 2) (d a b : BitVec 7) (m : Option Mod) (s : State) : Out :=
  vec2 d a b m (fun p q => perElem f (fun F u v _ => F.minmax false u v) p q 0) s
def execFmax (f : BitVec 2) (d a b : BitVec 7) (m : Option Mod) (s : State) : Out :=
  vec2 d a b m (fun p q => perElem f (fun F u v _ => F.minmax true u v) p q 0) s

/-- A one-operand form over element codes. -/
def floatUn (f : BitVec 2) (d a : BitVec 7) (m : Option Mod) (op : FFmt → Nat → Nat × FFlags) (s : State) : Out :=
  vec1 d a m (fun p => perElem f (fun F u _ _ => op F u) p 0 0) s

def execFabs (d a : BitVec 7) (f : BitVec 2) (m : Option Mod) (s : State) : Out :=
  floatUn f d a m (fun F u => (u % 2 ^ (F.width - 1), 0)) s
def execFneg (d a : BitVec 7) (f : BitVec 2) (m : Option Mod) (s : State) : Out :=
  floatUn f d a m (fun F u => (Nat.xor u (2 ^ (F.width - 1)), 0)) s
def execFrnd (d a : BitVec 7) (f : BitVec 2) (m : Option Mod) (s : State) : Out :=
  floatUn f d a m (fun F u => F.rnd (modMode (modOf m)) u) s
def execFsqrt (d a : BitVec 7) (f : BitVec 2) (m : Option Mod) (s : State) : Out :=
  floatUn f d a m (fun F u => F.sqrtV (modMode (modOf m)) (F.decode u)) s

/-- The class bit of an element (R206). -/
def FFmt.classBit (F : FFmt) (u : Nat) : Nat :=
  match F.decode u with
  | .nan _ q _ => if q then 9 else 8
  | .inf n => if n then 0 else 7
  | .fin n m _ =>
    if m = 0 then (if n then 3 else 4)
    else if m < 2 ^ F.t then (if n then 2 else 5)
    else if n then 1 else 6

def execFclass (d a : BitVec 7) (f : BitVec 2) (m : Option Mod) (s : State) : Out :=
  floatUn f d a m (fun F u => (2 ^ F.classBit u, 0)) s

/-- FCMP over FP32 (R201). -/
def execFcmp (c : BitVec 3) (q : BitVec 4) (a b : BitVec 7) (m : Option Mod) (s : State) : Out :=
  let x := modOf m
  issueG s { all := true, vr := [(a.toNat, x.swzA), (b.toNat, x.swzB)], msk := [q] } (fun g =>
    let r (l : Nat) := condF c (g.src a x.swzA l) (g.src b x.swzB l)
    let g' := g.maskBits q (fun l => (r l).1)
    (g.active.foldl (fun h l => if (r l).2 = 0 then h else h.orFlags l (r l).2) g').adv (modWords m))

/-! Conversions. -/

/-- CVTFF of one element in the low bits (R209). -/
def execCvtff (d a : BitVec 7) (y z : BitVec 3) (m : Option Mod) (s : State) : Out :=
  let x := modOf m
  let T := floatFmt y.toNat
  let F := floatFmt z.toNat
  vec1 d a m (fun v => bits32 (T.encode (modMode x) (modSat x) (F.decode (v.toNat % 2 ^ F.width)))) s

/-- The bits of the integer destination or source code `y` of CVTFI and CVTIF (R83). -/
def intBits (y : BitVec 3) : Nat := fmtBits (8 + y.toNat)

/-- CVTFI: saturating, extended to 32 bits (R210). -/
def execCvtfi (d a : BitVec 7) (u : Bool) (y z : BitVec 3) (m : Option Mod) (s : State) : Out :=
  let x := modOf m
  let F := floatFmt z.toNat
  let n := intBits y
  let lo : Int := if u then 0 else qlo n
  let hi : Int := if u then (2 ^ n - 1 : Nat) else qhi n
  vec1 d a m (fun v =>
    let r := toIntCode (modMode x) lo hi (F.decode (v.toNat % 2 ^ F.width))
    (BitVec.ofInt 32 r.1, r.2)) s

/-- CVTIF of an n-bit integer (R210). -/
def execCvtif (d a : BitVec 7) (u : Bool) (y z : BitVec 3) (m : Option Mod) (s : State) : Out :=
  let x := modOf m
  let T := floatFmt z.toNat
  let n := intBits y
  vec1 d a m (fun v =>
    let i : Int := if u then (v.toNat % 2 ^ n : Nat) else signExt v.toNat n
    bits32 (T.encode (modMode x) (modSat x) (FV.ofInt i))) s

/-- The 8-bit format of PACK8 and UNPK8 (R211). -/
def fmt8 (f : Bool) : FFmt := if f then e5m2 else e4m3

/-- PACK8: `f` is 2 · format + h; the old destination keeps its other half (R211). -/
def execPack8 (f : BitVec 2) (d a b : BitVec 7) (m : Option Mod) (s : State) : Out :=
  let x := modOf m
  let F := fmt8 (f.getLsbD 1)
  let lo := if f.getLsbD 0 then 16 else 0
  issueG s (vuses d [(a, x.swzA), (b, x.swzB)]) (fun g =>
    (g.result d (fun l =>
      let p := F.encode (modMode x) (modSat x) (fp32.decode (g.src a x.swzA l).toNat)
      let q := F.encode (modMode x) (modSat x) (fp32.decode (g.src b x.swzB l).toNat)
      let old := (g.src d 0 l).toNat
      let keep := if lo = 0 then old / 65536 * 65536 else old % 65536
      (BitVec.ofNat 32 (keep + (p.1 + 256 * q.1) * 2 ^ lo), p.2 ||| q.2))).adv (modWords m))

/-- UNPK8 of byte `y` (R211). -/
def execUnpk8 (y : BitVec 2) (d a : BitVec 7) (f : Bool) (m : Option Mod) (s : State) : Out :=
  vec1 d a m (fun v => bits32 (fp32.encode .rne false ((fmt8 f).decode (bitsOf v.toNat (8 * y.toNat) 8)))) s

end Sys2Proof.Machine
end

