-- ==== Sys2Proof/Machine/Cross.lean ====
section
/-! DEFINITION. The flag word (R212), cross-lane instructions (R213-R216) and the approximated functions (R207, R208). -/
namespace Sys2Proof.Machine

/-- VFLG, and VFLG.W with `w` (R212). -/
def execVflg (d a : BitVec 7) (w : Bool) (s : State) : Out :=
  issueG s { all := true, vr := if w then [(a.toNat, 0)] else [], vw := [d.toNat] } (fun g =>
    let g' := g.result d (fun l => ((g.flags l).zeroExtend 32, 0))
    let g' := if w then g.active.foldl (fun h l => h.setFlags l ((g.src a 0 l).extractLsb' 0 5)) g' else g'
    g'.adv 1)

/-- PERM: lane u(B) mod W of A (R213). -/
def execPerm (d a b : BitVec 7) (m : Option Mod) (s : State) : Out :=
  let x := modOf m
  issueG s (vuses d [(a, x.swzA), (b, x.swzB)]) (fun g =>
    (g.result d (fun l => (g.src a x.swzA ((g.src b x.swzB l).toNat % g.width), 0))).adv (modWords m))

/-- The source lane of QSWZ (R213). -/
def quadLane (sel : BitVec 3) (l : Nat) : Nat :=
  if 4 ≤ sel.toNat then 4 * (l / 4) + (sel.toNat - 4) else Nat.xor l (sel.toNat + 1)

def execQswz (d a : BitVec 7) (sel : BitVec 3) (m : Option Mod) (s : State) : Out :=
  let x := modOf m
  issueG s (vuses d [(a, x.swzA)]) (fun g =>
    (g.result d (fun l => (g.src a x.swzA (quadLane sel l), 0))).adv (modWords m))

/-- MATCH (R214): the keys of active lanes that are not helpers. -/
def execMatchKeys (d : BitVec 4) (a : BitVec 7) (m : Option Mod) (s : State) : Out :=
  let x := modOf m
  issueG s { all := true, vr := [(a.toNat, x.swzA)], msk := [d] } (fun g =>
    let key (l : Nat) := g.src a x.swzA l
    let P := g.activeReal
    let mt (l : Nat) : Lanes := laneSet (P.filter (fun p => key p = key l))
    let firsts := P.filter (fun p => P.all (fun q => !(decide (q < p) && decide (key q = key p))))
    let g' := (g.wrM d (laneSet firsts)).pushVals g.exm (fun l => (mt l).extractLsb' 0 32)
    let g' := if g.width ≤ 32 then g' else g'.pushVals g.exm (fun l => (mt l).extractLsb' 32 32)
    g'.adv (modWords m))

/-- `Op(x, y)` of SCAN and RED: type 0 I32, 1 U32, 2 F32 (R215). -/
def scanOp (t : BitVec 2) (o : BitVec 3) (r : RMode) (sat : Bool) (x y : Word) : Word × FFlags :=
  if t = 2 then
    match o.toNat with
    | 0 => bits32 (fp32.addV r sat (fp32.decode x.toNat) (fp32.decode y.toNat))
    | 1 => bits32 (fp32.minmax false x.toNat y.toNat)
    | _ => bits32 (fp32.minmax true x.toNat y.toNat)
  else
    match o.toNat with
    | 0 => intr (x + y)
    | 1 => intr (if t = 1 then umin32 x y else smin32 x y)
    | 2 => intr (if t = 1 then umax32 x y else smax32 x y)
    | 3 => intr (x &&& y)
    | 4 => intr (x ||| y)
    | _ => intr (x ^^^ y)

/-- The identity of an operation (R215). -/
def scanId (t : BitVec 2) (o : BitVec 3) : Word :=
  if t = 2 then
    match o.toNat with
    | 0 => 0x80000000
    | 1 => 0x7F800000
    | _ => 0xFF800000
  else
    match o.toNat with
    | 0 => 0
    | 1 => if t = 1 then 0xFFFFFFFF else 0x7FFFFFFF
    | 2 => if t = 1 then 0 else 0x80000000
    | 3 => 0xFFFFFFFF
    | _ => 0

/-- The serial scan (R216): results by lane with the flags of the lane's own operation. -/
def scanLanes (op : Word → Word → Word × FFlags) (excl : Bool) (act real : Nat → Bool) (v : Nat → Word) :
    Word → List Nat → List (Nat × Word × FFlags)
  | _, [] => []
  | acc, p :: r =>
    if real p then
      let (n, f) := op acc (v p)
      (p, if excl then acc else n, f) :: scanLanes op excl act real v n r
    else if act p then (p, acc, 0) :: scanLanes op excl act real v acc r
    else scanLanes op excl act real v acc r

/-- SCAN (R216). -/
def execScan (d a : BitVec 7) (e : Bool) (t : BitVec 2) (o : BitVec 3) (m : Option Mod) (s : State) : Out :=
  let x := modOf m
  issueG s { all := true, vr := [(a.toNat, x.swzA)], vw := [d.toNat] } (fun g =>
    let rs := scanLanes (scanOp t o (modMode x) (modSat x)) e (fun l => g.exm.getLsbD l)
      (fun l => (g.exm &&& ~~~g.hlp).getLsbD l) (fun l => g.src a x.swzA l) (scanId t o) (List.range g.width)
    let r (l : Nat) : Word × FFlags := ((rs.find? (fun e => decide (e.1 = l))).map (·.2)).getD (0, 0)
    (g.result d r).adv (modWords m))

/-- One level of the tree of RED: adjacent pairs combined. -/
def redLevel (op : Word → Word → Word × FFlags) : List Word → List Word × FFlags
  | x :: y :: r =>
    let (v, f) := op x y
    let (vs, fs) := redLevel op r
    (v :: vs, f ||| fs)
  | l => (l, 0)

/-- The tree of RED over 2^n elements. -/
def redTree (op : Word → Word → Word × FFlags) : Nat → List Word → Word × FFlags
  | 0, l => (l.headD 0, 0)
  | n + 1, l =>
    let (l', f) := redLevel op l
    let (v, fs) := redTree op n l'
    (v, f ||| fs)

/-- RED (R216): every flag raised is set in every active lane. -/
def execRed (d a : BitVec 7) (t : BitVec 2) (o : BitVec 3) (m : Option Mod) (s : State) : Out :=
  let x := modOf m
  issueG s { all := true, vr := [(a.toNat, x.swzA)], vw := [d.toNat] } (fun g =>
    let v (l : Nat) := if (g.exm &&& ~~~g.hlp).getLsbD l then g.src a x.swzA l else scanId t o
    let r := redTree (scanOp t o (modMode x) (modSat x)) (Nat.log2 g.width) ((List.range g.width).map v)
    (g.result d (fun _ => r)).adv (modWords m))

/-! Approximated functions (R207, R208): 0 FRCP, 1 FRSQ, 2 FEXP2, 3 FLOG2, 4 FSIN, 5 FCOS, 6 FTANH. -/

/-- The exponent k of a value ±2^k. -/
def pow2? (m : Nat) (e : Int) : Option Int := if m = 2 ^ Nat.log2 m then some (e + Nat.log2 m) else none

/-- The integer that a finite value is, if it is one of magnitude below 2^16. -/
def smallInt? (n : Bool) (m : Nat) (e : Int) : Option Int :=
  let q : Nat := if 0 ≤ e then m * 2 ^ (min e 40).toNat else m / 2 ^ (-e).toNat
  let whole : Bool := decide (0 ≤ e) || decide (m % 2 ^ (-e).toNat = 0)
  if whole && decide (q < 65536) then some (if n then -(q : Int) else q) else none

def fInf (n : Bool) : Word := if n then 0xFF800000 else 0x7F800000
def fZero (n : Bool) : Word := if n then 0x80000000 else 0
def fOne (n : Bool) : Word := if n then 0xBF800000 else 0x3F800000
def fNaN : Word := 0x7FC00000

/-- The special and exact operands of R208: their result and flags; none where only a bound is given. -/
def sfuExact (fn : Nat) (sat : Bool) (v : FV) : Option (Word × FFlags) :=
  let two (k : Int) : Word × FFlags := bits32 (fp32.round .rne false false 1 k false)
  match v with
  | .nan n q p => some (BitVec.ofNat 32 (fp32.nanCode n p), if q then 0 else fNV)
  | .inf n =>
    match fn with
    | 0 => some (fZero n, 0)
    | 1 => some (if n then (fNaN, fNV) else (0, 0))
    | 2 => some (if n then 0 else fInf false, 0)
    | 3 => some (if n then (fNaN, fNV) else (fInf false, 0))
    | 6 => some (fOne n, 0)
    | _ => some (fNaN, fNV)
  | .fin n m e =>
    if m = 0 then
      match fn with
      | 0 | 1 => some (fInf n, fDZ)
      | 2 | 5 => some (fOne false, 0)
      | 3 => some (fInf true, fDZ)
      | _ => some (fZero n, 0)
    else
      match fn with
      | 0 =>
        -- 1/A above the largest finite value: A at most 2^-128
        if decide (e + Nat.log2 m < -128) || (decide (e + Nat.log2 m = -128) && (pow2? m e).isSome) then
          some (fInf n, fOF ||| fNX)
        else match pow2? m e with
          | some k => if k ≤ 126 then some (bits32 (fp32.round .rne false n 1 (-k) false)) else none
          | none => none
      | 1 =>
        if n then some (fNaN, fNV)
        else match pow2? m e with
          | some k => if k % 2 = 0 then some (two (-(k / 2))) else none
          | none => none
      | 2 =>
        if !n && !FV.cmp false v (.fin false 128 0) < 0 then
          some (if sat then 0x7F7FFFFF else fInf false, fOF ||| fNX)
        else if FV.cmp false v (.fin true 149 0) < 0 then some (0, fUF ||| fNX)
        else match smallInt? n m e with
          | some k => if -126 ≤ k ∧ k ≤ 127 then some (two k) else none
          | none => none
      | 3 =>
        if n then some (fNaN, fNV)
        else match pow2? m e with
          | some k => some (bits32 (fp32.encode .rne false (FV.ofInt k)))
          | none => none
      | 6 => if FV.cmp false (.fin false m e) (.fin false 9 0) < 0 then none else some (fOne n, fNX)
      | _ => none

/-- The FP32 function with its flags: a result given only by a bound raises NX, and UF when tiny (R208): when the value delivered has
exponent field 0, ±0 among them (DEDUCED, notes/assumptions/9.md). -/
def sfu32 (fn : Nat) (sat : Bool) (a : Word) : Word × FFlags :=
  match sfuExact fn sat (fp32.decode a.toNat), fp32.decode a.toNat with
  | some r, _ => r
  | none, .fin n m e =>
    let r := boundedValue fn n m e (Config.sfu fn a)
    let tiny : Bool := r.extractLsb' 23 8 = 0
    (r, if tiny then fNX ||| fUF else fNX)
  | none, _ => (fNaN, fNV)

/-- A function under any format: x2 elements are widened, computed and rounded (R208). -/
def sfuVal (fn : Nat) (f : BitVec 2) (sat : Bool) (a : Word) : Word × FFlags :=
  if f = 0 then sfu32 fn sat a
  else
    perElem f (fun F u _ _ =>
      let w := fp32.encode .rne false (F.decode u)
      let r := sfu32 fn sat (BitVec.ofNat 32 w.1)
      let z := F.encode .rne (sat && decide (fn = 2)) (fp32.decode r.1.toNat)
      (z.1, w.2 ||| r.2 ||| z.2)) a 0 0

/-- The issue of an SFU operation (R196, R207): flags now, destination and Q0 entry pending. -/
def sfuRun (fn : Nat) (d a : BitVec 7) (sel : Bool) (f : BitVec 2) (m : Option Mod) (s : State) : Out :=
  let x := modOf m
  issue s (fun _ => vuses d [(a, x.swzA)]) (fun _ => none) (fun s g =>
    withFlag s s.cur g sel false (fun s g =>
      let (i, s) := s.take
      let r (l : Nat) := sfuVal fn f (modSat x) (g.src a x.swzA l)
      let op := { LongOp.blank with
        gid := s.cur, cx := g.cx, core := g.core, kind := .sfu, flag := g.sideFlag sel, exm := g.exm
        dst := g.bv + d.toNat - 0x10, ndst := 1, toReg := decide (0x10 ≤ d.toNat)
        res := g.active.map (fun l => (l, 0, (r l).1)), issueNo := g.nIssued }
      let g' := g.active.foldl (fun h l => if (r l).2 = 0 then h else h.orFlags l (r l).2) g
      (s.setOp i op).setGroup s.cur ((g'.pushPending i 1 g.exm).adv (modWords m))))

def execFrcp (d a : BitVec 7) (sel : Bool) (f : BitVec 2) (m : Option Mod) (s : State) : Out := sfuRun 0 d a sel f m s
def execFrsq (d a : BitVec 7) (sel : Bool) (f : BitVec 2) (m : Option Mod) (s : State) : Out := sfuRun 1 d a sel f m s
def execFexp2 (d a : BitVec 7) (sel : Bool) (f : BitVec 2) (m : Option Mod) (s : State) : Out := sfuRun 2 d a sel f m s
def execFlog2 (d a : BitVec 7) (sel : Bool) (f : BitVec 2) (m : Option Mod) (s : State) : Out := sfuRun 3 d a sel f m s
def execFsin (d a : BitVec 7) (sel : Bool) (f : BitVec 2) (m : Option Mod) (s : State) : Out := sfuRun 4 d a sel f m s
def execFcos (d a : BitVec 7) (sel : Bool) (f : BitVec 2) (m : Option Mod) (s : State) : Out := sfuRun 5 d a sel f m s
def execFtanh (d a : BitVec 7) (sel : Bool) (f : BitVec 2) (m : Option Mod) (s : State) : Out := sfuRun 6 d a sel f m s

end Sys2Proof.Machine
end

