-- ==== Sys2Proof/Machine/Scalar.lean ====
section
/-! DEFINITION. The scalar instructions of class SR3 and SRI (R178-R181). -/
namespace Sys2Proof.Machine

/-- A scalar instruction: the old S[d], va and vb give S[d] (R179). -/
def scalar3 (d a b : BitVec 7) (lit : Option Word) (f : Word → Word → Word → Word) (s : State) : Out :=
  issueG s { sc := (if lit.isSome then [d, a] else [d, a, b]).map (·.toNat) } (fun g =>
    (g.wrS d (f (g.rdS d) (g.rdS a) (g.rdB b lit))).adv (litWords lit))

/-- A two-operand form. -/
def scalar2 (d a b : BitVec 7) (lit : Option Word) (f : Word → Word → Word) (s : State) : Out :=
  scalar3 d a b lit (fun _ x y => f x y) s

/-- A one-operand form, or one with an immediate. -/
def scalar1 (d a : BitVec 7) (f : Word → Word) (s : State) : Out :=
  issueG s { sc := [d.toNat, a.toNat] } (fun g => (g.wrS d (f (g.rdS a))).adv 1)

/-- SMOV copies S[b] or its literal (R179). -/
def execSmov (d b : BitVec 7) (lit : Option Word) (s : State) : Out :=
  issueG s { sc := (if lit.isSome then [d] else [d, b]).map (·.toNat) } (fun g =>
    (g.wrS d (g.rdB b lit)).adv (litWords lit))
def execSadd (d a b : BitVec 7) (lit : Option Word) (s : State) : Out := scalar2 d a b lit (· + ·) s
def execSsub (d a b : BitVec 7) (lit : Option Word) (s : State) : Out := scalar2 d a b lit (· - ·) s
def execSmul (d a b : BitVec 7) (lit : Option Word) (s : State) : Out := scalar2 d a b lit (· * ·) s
def execSmulh (d a b : BitVec 7) (lit : Option Word) (s : State) : Out := scalar2 d a b lit mulh32 s
def execSmulhu (d a b : BitVec 7) (lit : Option Word) (s : State) : Out := scalar2 d a b lit mulhu32 s
def execSdivu (d a b : BitVec 7) (lit : Option Word) (s : State) : Out :=
  scalar2 d a b lit (fun x y => if y = 0 then 0xFFFFFFFF else x / y) s
def execSremu (d a b : BitVec 7) (lit : Option Word) (s : State) : Out :=
  scalar2 d a b lit (fun x y => if y = 0 then x else x % y) s
def execSand (d a b : BitVec 7) (lit : Option Word) (s : State) : Out := scalar2 d a b lit (· &&& ·) s
def execSor (d a b : BitVec 7) (lit : Option Word) (s : State) : Out := scalar2 d a b lit (· ||| ·) s
def execSxor (d a b : BitVec 7) (lit : Option Word) (s : State) : Out := scalar2 d a b lit (· ^^^ ·) s
def execSnot (d a : BitVec 7) (s : State) : Out := scalar1 d a (~~~ ·) s
def execSshl (d a b : BitVec 7) (lit : Option Word) (s : State) : Out := scalar2 d a b lit shl32 s
def execSshr (d a b : BitVec 7) (lit : Option Word) (s : State) : Out := scalar2 d a b lit shr32 s
def execSsar (d a b : BitVec 7) (lit : Option Word) (s : State) : Out := scalar2 d a b lit sar32 s
def execSclz (d a : BitVec 7) (s : State) : Out := scalar1 d a clz32 s
def execSmin (d a b : BitVec 7) (lit : Option Word) (s : State) : Out := scalar2 d a b lit smin32 s
def execSmax (d a b : BitVec 7) (lit : Option Word) (s : State) : Out := scalar2 d a b lit smax32 s
def execSminu (d a b : BitVec 7) (lit : Option Word) (s : State) : Out := scalar2 d a b lit umin32 s
def execSmaxu (d a b : BitVec 7) (lit : Option Word) (s : State) : Out := scalar2 d a b lit umax32 s
/-- SSEL reads the old S[d] as its condition (R180). -/
def execSsel (d a b : BitVec 7) (lit : Option Word) (s : State) : Out :=
  scalar3 d a b lit (fun o x y => if o ≠ 0 then x else y) s
def execSpopc (d a : BitVec 7) (s : State) : Out := scalar1 d a popc32 s
def execSbfx (d a b : BitVec 7) (lit : Option Word) (s : State) : Out := scalar2 d a b lit bitFieldX s
/-- SBFI keeps the other bits of S[d] (R180). -/
def execSbfi (d a b : BitVec 7) (lit : Option Word) (s : State) : Out :=
  scalar3 d a b lit (fun o x y => bitFieldI x y o) s
def execScmp (c : BitVec 3) (d a b : BitVec 7) (lit : Option Word) (s : State) : Out :=
  scalar2 d a b lit (fun x y => if condI c x y then 1 else 0) s

/-- SMOVI: S[d] := SignExtend(imm17, 17) (R181). -/
def execSmovi (d : BitVec 7) (i : BitVec 17) (s : State) : Out :=
  issueG s { sc := [d.toNat] } (fun g => (g.wrS d (i.signExtend 32)).adv 1)
/-- SLUI: S[d] := imm17 · 2^15 + S[d][14:0] (R181). -/
def execSlui (d : BitVec 7) (i : BitVec 17) (s : State) : Out :=
  issueG s { sc := [d.toNat] } (fun g => (g.wrS d (i ++ (g.rdS d).extractLsb' 0 15)).adv 1)
def execSaddi (d a : BitVec 7) (i : BitVec 10) (s : State) : Out := scalar1 d a (· + immS i) s
def execSandi (d a : BitVec 7) (i : BitVec 10) (s : State) : Out := scalar1 d a (· &&& immU i) s
def execSori (d a : BitVec 7) (i : BitVec 10) (s : State) : Out := scalar1 d a (· ||| immU i) s
def execSxori (d a : BitVec 7) (i : BitVec 10) (s : State) : Out := scalar1 d a (· ^^^ immU i) s
def execScmpi (c : BitVec 3) (d a : BitVec 7) (i : BitVec 10) (s : State) : Out :=
  scalar1 d a (fun x => if condI c x (if condUnsigned c then immU i else immS i) then 1 else 0) s

end Sys2Proof.Machine
end

