-- ==== Sys2Proof/Machine/Load.lean ====
section
/-! DEFINITION. The memory instructions LD, ST, LDU, LDQ, QST, LDB, SPL and FIL (R233-R237, R308), with the tied pairs of
spliced kernels (R147). -/
namespace Sys2Proof.Machine

/-- The value of an element read by a lane (R237): 32 bits and flags. -/
def quantRead (r : Rec) (e : Nat) (hdr code : Nat) : Word × FFlags :=
  let f := r.fmt
  if f = 0 then (BitVec.ofNat 32 code, 0)
  else if isInt f then (BitVec.ofInt 32 (signExt code (fmtBits f)), 0)
  else match elemValue f hdr r.sce (r.dither e) code with
    | none => (0x7FC00000, fNV)
    | some v => let x := fp32.encode .rne false v; (BitVec.ofNat 32 x.1, x.2)

/-- The code of an FP32 value stored as an element (R236); an FP32 element too follows R41 (log 103). -/
def quantWrite (r : Rec) (e : Nat) (m : RMode) (v : Word) : Nat × FFlags :=
  elemCode r.fmt r.sce (r.dither e) m (fp32.decode v.toNat)

/-- Records no quantising access reads or writes (R236, R237). -/
def badLdq (r : Rec) : Bool := r.lay = 6
def badQst (r : Rec) : Bool := r.lay = 6 || blockBytes r.fmt ≠ 0

/-! Tied pairs (R147). -/

/-- The tie whose store (`st`) or load stands at the group's word. -/
def tieAt (s : State) (g : Group) (st : Bool) : Option Nat :=
  ((s.grid? g.grid).elim [] (·.ties)).findSome? (fun t =>
    if (if st then t.2.1 else t.2.2) = g.pc then some t.1 else none)

/-- The stores of a tie that a group has issued in this pass, in order. -/
def Group.holdsOf (g : Group) (tie : Nat) : List TieHold := g.ties.filter (fun h => decide (h.tie = tie))

/-- A tied store has issued: what ELIDE holds of earlier ones stays held, and in FORWARD mode the newest stands for its lanes. -/
def Group.addTie (g : Group) (h : TieHold) : Group :=
  let news (k : TieHold) : TieHold :=
    if k.tie = h.tie ∧ !k.elide then { k with lanes := k.lanes.filter (fun a => !h.lanes.any (fun x => decide (x.lane = a.lane))) } else k
  { g with ties := (g.ties.map news).filter (fun k => !k.lanes.isEmpty) ++ [h] }

/-- The bits a tied store's lane wrote, in element order, as one number, with their width. -/
def LaneAcc.codes (a : LaneAcc) (bits : Nat) : Nat :=
  (a.vals.zipIdx).foldl (fun n e => n + e.1.toNat % 2 ^ bits * 2 ^ (bits * e.2)) 0

/-- What the load's unit j reads from a tied store's lane (R147). -/
def forwarded (h : TieHold) (a : LaneAcc) (load : Rec) (quant : Bool) (e j : Nat) : Word × FFlags :=
  let bits := if h.quant then fmtBits (Rec.fmt h.rec1) else 32
  let n := a.codes bits
  if quant then quantRead load e 0 (bitsOf n (fmtBits load.fmt * j) (fmtBits load.fmt))
  else (BitVec.ofNat 32 (bitsOf n (32 * j) 32), 0)

/-- The lane of the newest store of `hs` in lane `l`, where a load of brand `b` takes its value. -/
def tiedLane (hs : List TieHold) (b l : Nat) : Option (TieHold × LaneAcc) :=
  (hs.reverse.findSome? (fun h => (h.lanes.find? (fun a => decide (a.lane = l))).map (h, ·))).bind (fun e =>
    if e.1.brand = b then some e else none)

/-- What a load of brand `b` in the lanes `ls` leaves of a held store to be written (R147): lanes of another brand, and lanes
that are not active at the load (DEDUCED, notes/assumptions/133.md). -/
def TieHold.unpaired (h : TieHold) (b : Nat) (ls : List Nat) : Option TieHold :=
  let l := h.lanes.filter (fun a => !(decide (h.brand = b) && ls.contains a.lane))
  if h.elide && !l.isEmpty then some { h with lanes := l } else none

/-- A deferred write that would copy a line Owned under an ancestor waits parked, without a record, until the owner is gone
(R271, R301): OPERATION_COMPLETE tries it again. -/
def parkRecalled (s : State) (id : Nat) (g : Group) (opid : Nat) (op : LongOp) : State :=
  let (n, s) := s.take
  (s.setOp opid { op with parkNo := n, recalled := true }).setGroup id { g with status := .parked, park := some opid }

/-- The held writes of ELIDE performed as a store of its own (R147). The operation counts in no flag. -/
def flushTie (s : State) (id : Nat) (g : Group) (h : TieHold) : State :=
  let (i, s) := s.take
  let o := originOf s g h.ioff
  let bits := if h.quant then fmtBits (Rec.fmt h.rec1) else 32
  let op := { LongOp.blank with
    gid := id, cx := g.cx, core := g.core, kind := .store, rec1 := h.rec1, brand := h.brand, pol := h.pol, wpOff := h.kreg
    exm := lanesMask h.lanes, lanes := h.lanes, leave := true, ioff := o.2, obj := o.1, kindCode := 1, issueNo := g.nIssued
    ndst := bits }
  if (recallOf s g h.rec1 h.brand (deferred true) h.lanes).isSome then
    parkRecalled s id g i { op with left := lanesMask h.lanes }
  else access s id g i op (putStore id i op bits) h.lanes (fun g => g) (fun g => g)

/-- A held write reaches a line of a deterministic-private page that another block owns by now (R290). -/
def flushCause (s : State) (g : Group) (h : TieHold) : Option Trap :=
  match h.lanes.filter (fun a => (detLanes s g h.rec1 h.brand [a]).contains a.lane) with
  | a :: r => some { cause := cDetOwnership, lanes := some (laneSet ((a :: r).map (·.lane))), off := a.off, kreg := h.kreg }
  | [] => none

/-- A tied load that waits for the held writes before it. -/
def waitingTied (s : State) (id : Nat) : Option (Nat × LongOp) :=
  s.mem.ops.find? (fun e => decide (e.2.gid = id) && e.2.waitsTie)

/-- An access gives up its unfinished lanes; the others complete (R253). -/
def State.giveUp (s : State) (opid : Nat) (op : LongOp) : State :=
  s.setOp opid { op with parkNo := 0, pooled := false, recalled := false, left := 0
                         leave := op.leave && !op.waitsTie
                         lanes := op.lanes.filter (fun (a : LaneAcc) => !op.left.getLsbD a.lane) }

/-- Nothing fills what the unfinished lanes of an access would have pushed. -/
def Group.giveUp (g : Group) (opid : Nat) (op : LongOp) : Group :=
  { g with Q := g.Q.map (fun row => row.zipIdx.map (fun e =>
      if op.left.getLsbD e.2 && e.1.pend.elim false (fun p => decide (p.1 = opid)) then { e.1 with pend := none } else e.1)) }

/-- A trapping cause of a held write, raised at the word it is flushed at; a tied load that waits for it gives up the lanes it
has not taken. -/
def tieTrap (s : State) (id : Nat) (g : Group) (t : Trap) : State :=
  match waitingTied s id with
  | some (i, op) => takeTrap (s.giveUp i op) id (g.giveUp i op) t
  | none => takeTrap s id g t

/-- Held writes flushed one after the other, up to one that parks or traps; those after it are flushed when their turn comes
again. -/
def flushTies (id : Nat) : List TieHold → State → State
  | [], s => s
  | h :: r, s =>
    match s.group? id with
    | some g =>
      if g.status ≠ .issuing then s
      else match flushCause s g h with
        | some t => tieTrap s id g t
        | none => flushTies id r (flushTie s id { g with ties := g.ties.erase h } h)
    | none => s

/-! Loads. -/

/-- Values delivered to lanes: (lane, j, value) goes to V(dst + j) and to the entry pushed for value j (R64, R76). -/
def Group.deliverVals (g : Group) (opid : Nat) (op : LongOp) (vals : List (Nat × Nat × Word)) : Group :=
  let g := if op.toReg then vals.foldl (fun g v => g.vset (op.dst + v.2.1) v.1 v.2.2) g else g
  { g with Q := g.Q.map (fun row => row.zipIdx.map (fun e =>
      match e.1.pend with
      | some (i, j) =>
        if i = opid then
          match vals.find? (fun v => decide (v.1 = e.2) && decide (v.2.1 = j)) with
          | some v => { val := v.2.2, pend := none }
          | none => e.1
        else e.1
      | none => e.1)) }

/-- The operation is complete: its flag count falls, and a yielded group becomes ready (R62, R68, R172). -/
def finishOp (s : State) (opid : Nat) (op : LongOp) : State :=
  (s.delOp opid).updGroup op.gid (fun g =>
    let g := match op.flag with
      | some f => g.countDown f
      | none => g
    match g.yieldTo with
    | some y =>
      if y.op = opid then
        if g.status = .yielded then { g with status := .boundary, pc := y.pc, yieldTo := none }
        else { g with yieldTo := some { y with done := true } }
      else g
    | none => g)

/-- A tied load that has waited for the held writes before it: the lanes it does not take from a store are read, and it is
complete at once where there are none. -/
def placeTied (s : State) (id opid : Nat) : State :=
  match s.group? id, s.op? opid with
  | some g, some op =>
    if g.status ≠ .issuing then s
    else
      let todo := op.lanes.filter (fun (a : LaneAcc) => op.left.getLsbD a.lane)
      let op := { op with leave := false, lanes := op.lanes.filter (fun (a : LaneAcc) => !op.left.getLsbD a.lane) }
      let s := access s id g opid op putLoad todo (fun g => g.pass 2) (fun g => g)
      if todo.isEmpty then
        let s := doAcquire (s.updGroup id (fun g => g.deliverVals opid op op.res)) op.core op.cx (acquires op.ord)
        finishOp s opid op
      else s
  | _, _ => s

/-- The issue of a load of `n` units (R233, R237): captured, translated, its pushes made; a tied load takes the values
of its store, and is complete at once where every lane does (R147). Held lanes that take no part are written
(`TieHold.unpaired`; DEDUCED, notes/assumptions/133.md). -/
def loadEff (w : MemWord) (kind : OpKind) (brand : Group → Rec → Nat) (n : Nat) (quant : Bool) (s : State) (g : Group)
    (r : Rec) (as : List LaneAcc) : State :=
  let id := s.cur
  let b := brand g r
  let (i, s) := s.take
  let op := { opOf s id g kind r b w with
    dst := g.bv + w.data.toNat - 0x10, ndst := n, toReg := decide (0x10 ≤ w.data.toNat), kindCode := 0 }
  let g := g.counted.pushPending i n g.exm
  let hs := (tieAt s g false).elim [] g.holdsOf
  if hs.isEmpty then access s id g i op putLoad as (fun g => g.pass 2) (fun g => g)
  else
    let late := hs.filterMap (fun h => h.unpaired b (as.map (·.lane)))
    match late.findSome? (flushCause s g) with
    | some t => takeTrap s id ((s.group? id).getD g) t
    | none =>
      let vals : List (Nat × Nat × Word × FFlags) := as.flatMap (fun x => (tiedLane hs b x.lane).elim [] (fun e =>
        (List.range n).map (fun j =>
          (x.lane, j, forwarded e.1 e.2 r quant (((x.units[j]?).getD none).elim 0 (·.elem)) j))))
      let g := vals.foldl (fun (g : Group) (v : Nat × Nat × Word × FFlags) => g.orFlags v.1 v.2.2.2)
        { g with ties := g.ties.filter (fun h => !hs.contains h) ++ late }
      let rest := as.filter (fun a => (tiedLane hs b a.lane).isNone)
      let taken := (as.filter (fun a => (tiedLane hs b a.lane).isSome)).map (fun a => { a with units := [], vals := [] })
      let op := { op with res := vals.map (fun (v : Nat × Nat × Word × FFlags) => (v.1, v.2.1, v.2.2.1))
                          lanes := taken ++ rest, left := lanesMask rest, leave := true }
      placeTied (flushTies id late ((s.setOp i op).setGroup id g)) id i

/-- LD: `cnt` + 1 raw words per active lane (R233). -/
def ldForm (w : MemWord) : LaneForm :=
  { form := { k := w.k, right := 0 }
    uses := { kr := [w.k], vr := if w.idx then [(w.index.toNat, 0)] else []
              vw := (List.range (w.cnt + 1)).map (w.data.toNat + ·) }
    lanes := Group.active, cap := fun g r l => wordAcc r true (w.cnt + 1) (laneOff g w w.scl l) l []
    off := fun g _ l => laneOff g w w.scl l, sel := w.sel, writes := false }

def execLd (w : MemWord) (s : State) : Out :=
  (ldForm w).run (loadEff w .load (fun g r => r.effBrand g.brd) (w.cnt + 1) false) s

/-- LDQ: `cnt` + 1 elements per active lane, decoded (R237). -/
def ldqForm (w : MemWord) : LaneForm :=
  { form := { k := w.k, right := 0, badRec := badLdq }
    uses := { kr := [w.k], vr := if w.idx then [(w.index.toNat, 0)] else []
              vw := (List.range (w.cnt + 1)).map (w.data.toNat + ·) }
    lanes := Group.active, cap := fun g r l => elemAcc r true (w.cnt + 1) (laneOff g w w.scl l) l []
    off := fun g r l => faultOff r true (laneOff g w w.scl l), sel := w.sel, writes := false }

def execLdq (w : MemWord) (s : State) : Out :=
  (ldqForm w).run (loadEff w .loadQ (fun g r => r.effBrand g.brd) (w.cnt + 1) true) s

/-- LDB: a load under the brand in a scalar (R308). -/
def ldbForm (w : MemWord) : LaneForm :=
  { form := { k := w.k, right := 0
              brand := fun g _ => let v := g.rdS w.index; if (v >>> 16) = 0 then some v.toNat else none }
    uses := { kr := [w.k], sc := [w.index.toNat], vw := (List.range (w.cnt + 1)).map (w.data.toNat + ·) }
    lanes := Group.active, cap := fun _ r l => wordAcc r true (w.cnt + 1) w.off.toInt l []
    off := fun _ _ _ => w.off.toInt, sel := w.sel, writes := false }

def execLdb (w : MemWord) (s : State) : Out :=
  (ldbForm w).run (loadEff w .load (fun g r => if r.special then 0 else (g.rdS w.index).toNat) (w.cnt + 1) false) s

/-- LDU: `cnt` + 1 words once for the group, whatever EXM holds (R234). -/
def lduForm (w : MemWord) : LaneForm :=
  { form := { k := w.k, right := 0, brand := fun g r => some (g.brandOf r) }
    uses := { kr := [w.k], sc := (List.range (w.cnt + 1)).map (w.data.toNat + ·) }
    lanes := fun _ => [0], cap := fun _ r l => wordAcc r true (w.cnt + 1) w.off.toInt l []
    off := fun _ _ _ => w.off.toInt, sel := w.sel, writes := false, once := true }

def execLdu (w : MemWord) (s : State) : Out :=
  (lduForm w).run (fun s g r as =>
      let id := s.cur
      let (i, s) := s.take
      let op := { opOf s id g .loadU r (g.brandOf r) w with
        dst := g.sreg w.data, ndst := w.cnt + 1, toReg := true }
      access s id g.counted i op putLoad as (fun g => g.pass 2) (fun g => g)) s

/-! Stores. -/

/-- The operand a store or atomic names: a queue entry or a register run (R233). -/
def storeUses (w : MemWord) (n : Nat) : Uses :=
  { kr := [w.k]
    vr := (if w.idx then [(w.index.toNat, 0)] else []) ++
      (List.range n).map (fun j => (w.data.toNat + j, 0)) }

/-- The issue of a store: its writes leave the core lane by lane, in ascending order (R233, R274). -/
def storeEff (w : MemWord) (bits : Rec → Nat) (quant : Bool) (s : State) (g : Group) (r : Rec) (as : List LaneAcc) :
    State :=
  let id := s.cur
  let (i, s) := s.take
  let b := r.effBrand g.brd
  let op := { opOf s id g .store r b w with kindCode := 1, lanes := as, ndst := bits r }
  let g := g.counted
  let elide := (s.grid? g.grid).elim false (·.elide)
  match tieAt s g true with
  | some t =>
    let h : TieHold := { tie := t, elide := elide, brand := b, rec1 := r, pol := op.pol, ioff := g.pc, quant := quant,
                         kreg := w.k.toNat, lanes := as }
    let g := g.addTie h
    if elide then (s.setGroup id (g.pass 2)).setOp i { op with lanes := [] }
    else access s id g i op (putStore id i op (bits r)) as (fun g => g.pass 2) (fun g => g)
  | none =>
    access s id g i op (putStore id i op (bits r)) as (fun g => g.pass 2) (fun g => g)

/-- ST: `cnt` + 1 raw words per active lane, helper lanes excepted (R233, R160). -/
def stForm (w : MemWord) : LaneForm :=
  { form := { k := w.k, right := 1, ditherBad := fun r => isD r.fmt }
    uses := storeUses w (w.cnt + 1)
    lanes := Group.activeReal
    cap := fun g r l => wordAcc r false (w.cnt + 1) (laneOff g w w.scl l) l
      ((List.range (w.cnt + 1)).map (fun j => g.src (w.data + BitVec.ofNat 7 j) 0 l))
    off := fun g _ l => laneOff g w w.scl l, sel := w.sel, writes := true, detCheck := true, defers := deferred true }

def execSt (w : MemWord) (s : State) : Out := (stForm w).run (storeEff w (fun _ => 32) false) s

/-- The code of lane l's element of a QST, with its flags (R236); a lane outside the record is rounded at its own index, one below 0
at index 0 (DEDUCED, notes/assumptions/139.md). -/
def qstCode (w : MemWord) (g : Group) (r : Rec) (l : Nat) : Nat × FFlags :=
  quantWrite r (laneOff g w w.scl l).toNat (rmode (BitVec.ofNat 2 w.cnt)) (g.src w.data 0 l)

/-- QST: one FP32 value per active lane rounded into the record's format (R236). Its flags are set at issue, in
every active lane (R43). -/
def qstForm (w : MemWord) : LaneForm :=
  { form := { k := w.k, right := 1, badRec := badQst }
    uses := storeUses w 1
    lanes := Group.activeReal
    cap := fun g r l => elemAcc r false 1 (laneOff g w w.scl l) l [BitVec.ofNat 32 (qstCode w g r l).1]
    off := fun g r l => faultOff r true (laneOff g w w.scl l), sel := w.sel, writes := true, detCheck := true
    defers := deferred true }

def execQst (w : MemWord) (s : State) : Out :=
  (qstForm w).run
    (fun s g r as =>
      let g' := g.active.foldl (fun h l => h.orFlags l (qstCode w g r l).2) g
      storeEff w (fun r => fmtBits r.fmt) true s g' r as) s

/-! The spill stack (R235). -/

/-- Bytes of the vector form: word j of lane l at `off` + 4 (j W + l). -/
def spillFits (g : Group) (w : MemWord) : Bool :=
  let n := if w.idx then 32 else 4 * (w.cnt + 1) * g.width
  let a := if w.idx then 32 else 4
  decide (w.off.toInt ≥ 0) && decide (w.off.toNat % a = 0) && decide (w.off.toInt + n ≤ g.spillBytes)

/-- The trap of SPL and FIL. -/
def spillTrap (w : MemWord) (tag : Bool) (g : Group) : Option Trap :=
  if !spillFits g w then some { cause := cBounds }
  else if tag && w.idx && !g.spillTags.contains (w.off.toNat / 32) then some { cause := cRecordInvalid }
  else none

def spillUses (w : MemWord) (fill : Bool) : Uses :=
  let run := (List.range (w.cnt + 1)).map (w.data.toNat + ·)
  if w.idx then { kr := [w.k] }
  else if fill then { vw := run } else { vr := run.map (fun c => (c, 0)) }

/-- A register of the run has an operation outstanding, in any lane whose slice is not returned (R74, R159, R235). -/
def runPending (s : State) (id : Nat) (g : Group) (w : MemWord) : Bool :=
  !w.idx && (List.range (w.cnt + 1)).any (fun j => s.pending id 1 (g.bv + w.data.toNat + j - 0x10)
    (laneSet ((List.range 64).filter (fun l => !g.sliceGone l))))

/-- An SPL or FIL: every lane of the group moves, whatever EXM holds. -/
def spillRun (w : MemWord) (fill : Bool) (eff : State → Group → State) (s : State) : Out :=
  match s.group? s.cur with
  | none => .next s
  | some g =>
    match checkUses s s.cur g (spillUses w fill) with
    | some c => .next (takeTrap s s.cur g { cause := c })
    | none =>
      if runPending s s.cur g w then .next (takeTrap s s.cur g { cause := cOperandPending })
      else match spillTrap w fill g with
        | some t => .next (takeTrap s s.cur g t)
        | none => .next (withFlag s s.cur g w.sel false eff)

def spillAddr (g : Group) (w : MemWord) (j l : Nat) : Nat := w.off.toNat + 4 * (j * g.width + l)

/-- The stack with bytes written and the tags of their granules cleared (R226). -/
def Group.spillWrite (g : Group) (a : Nat) (bs : List Byte) : Group :=
  { g with spill := Memory.putBytes g.spill a bs
           spillTags := g.spillTags.filter (fun t => decide ((t + 1) * 32 ≤ a) || decide (a + bs.length ≤ t * 32)) }

/-- SPL writes the stack at issue, in issue order; its operation completes later (R235). -/
def execSpl (w : MemWord) (s : State) : Out :=
  spillRun w false (fun s g =>
    let (i, s) := s.take
    let op := { opOf s s.cur g .spill 0 0 w with kindCode := 1 }
    let g' :=
      if w.idx then
        let h := g.spillWrite w.off.toNat (bytesOfNat 32 (g.rdK w.k).toNat)
        { h with spillTags := h.spillTags ++ [w.off.toNat / 32] }
      else
        (List.range (w.cnt + 1)).foldl (fun h j => (List.range g.width).foldl (fun h l =>
          h.spillWrite (spillAddr g w j l) (bytesOfWord (g.src (w.data + BitVec.ofNat 7 j) 0 l))) h) g
    (s.setOp i op).setGroup s.cur (g'.adv 2)) s

/-- FIL reads the stack at issue; its destinations are pending until it completes (R235). -/
def execFil (w : MemWord) (s : State) : Out :=
  spillRun w true (fun s g =>
    let (i, s) := s.take
    let op := if w.idx then
        { opOf s s.cur g .fillRec 0 0 w with
          dst := w.k.toNat, ndst := 1, toReg := true
          rec2 := BitVec.ofNat 256 (natOfBytes (Memory.bytes g.spill w.off.toNat 32)) }
      else
        { opOf s s.cur g .fill 0 0 w with
          exm := firstLanes g.width, dst := g.bv + w.data.toNat - 0x10, ndst := w.cnt + 1, toReg := true
          res := (List.range (w.cnt + 1)).flatMap (fun j => (List.range g.width).map (fun l =>
            (l, j, BitVec.ofNat 32 (natOfBytes (Memory.bytes g.spill (spillAddr g w j l) 4))))) }
    (s.setOp i op).setGroup s.cur (g.adv 2)) s

end Sys2Proof.Machine
end

