-- ==== Sys2Proof/Machine/Atomic.lean ====
section
/-! DEFINITION. ATOM and CAS (R281-R285, R288) and store-fault records (R259). -/
namespace Sys2Proof.Machine

/-- `AtomOp(op, m, v)` with the flags of ADD.F32 (R282, R283). -/
def atomOp (o : Nat) (m v : Word) : Word × FFlags :=
  match o with
  | 0 => (m + v, 0)
  | 1 =>
    let x := fp32.addV .rne false (fp32.decode m.toNat) (fp32.decode v.toNat)
    (BitVec.ofNat 32 x.1, x.2)
  | 2 => (smin32 m v, 0)
  | 3 => (smax32 m v, 0)
  | 4 => (umin32 m v, 0)
  | 5 => (umax32 m v, 0)
  | 6 => (m &&& v, 0)
  | 7 => (m ||| v, 0)
  | 8 => (m ^^^ v, 0)
  | _ => (v, 0)

/-- A word as masked bytes. -/
def wordBytes (u : AccUnit) (v : Word) : List (PByte × Byte × Byte) := u.write 32 v.toNat

/-- A word as it stands at L2 under a brand. -/
def readWord (s : State) (cx b : Nat) (u : AccUnit) : Word :=
  BitVec.ofNat 32 (natOfBytes (u.bytes.map (readByte s cx b [])))

/-- What ATOM or CAS makes of the old value `m`: the new one, its flags, and whether it is written (R282, R284). -/
def atomNew (kind : OpKind) (vals : List Word) (m : Word) : Word × FFlags × Bool :=
  match kind with
  | .atom o => ((atomOp o m (vals.headD 0)).1, (atomOp o m (vals.headD 0)).2, true)
  | _ => (vals.getD 1 0, 0, decide (m = vals.headD 0))

/-- A translated lane of an atomic at issue: its cell is reserved (R301), and a line of a
deterministic-private page becomes its block's, as with a store's (R290, notes/assumptions/90.md); a deferred ADD.F32 is appended to the commit
buffer and keeps the value now at L2 as its old value (R288); on the spill stack it is performed (R235). A lane done at
issue keeps its old value and flags. -/
def putAtom (gid opid : Nat) (op : LongOp) (add : Bool) : Put := fun s g a =>
  match a.units.head? with
  | some (some u) =>
    let bs := wordBytes u (a.vals.headD 0)
    if add && detOf s g && !Rec.special op.rec1 && !u.bytes.any (·.wp) then
      (defer s gid g a.lane op.brand bs (some (a.vals.headD 0))).map (fun s' =>
        (s', { a with units := [], vals := [readWord s g.cx op.brand u] }))
    else if u.bytes.all (fun p => p.loc.inSpill) then
      let m := readWord s g.cx op.brand u
      let (v, fl, wr) := atomNew op.kind a.vals m
      some (if wr then writeBytes s g.cx op.brand (wordBytes u v) else s, { a with units := [], vals := [m, fl.setWidth 32] })
    else
      (reserveAll g.cx op.brand opid s (linesNeeding s g.cx op.brand u.bytes)).map (fun s =>
        (if detOf s g then detTake s g op.brand (u.bytes.filter (fun p => !p.wp)) else s, a))
  | _ => some (s, a)

/-- The access of ATOM (`nv` 1) and CAS (`nv` 2): helper lanes take no part (R282). -/
def atomForm (w : MemWord) (nv scl : Nat) : LaneForm :=
  { form := { k := w.k, right := 2, ditherBad := fun r => isD r.fmt }
    uses := { kr := [w.k], vw := [w.data.toNat]
              vr := (if w.idx then [(w.index.toNat, 0)] else []) ++
                (List.range nv).map (fun j => (w.data.toNat + j, 0)) }
    lanes := Group.activeReal
    cap := fun g r l => wordAcc r false 1 (laneOff g w scl l) l
      ((List.range nv).map (fun j => g.src (w.data + BitVec.ofNat 7 j) 0 l))
    off := fun g _ l => laneOff g w scl l, sel := w.sel, writes := true, detCheck := true
    defers := fun p => decide (nv = 1) && decide (w.mod.extractLsb' 0 4 = 1) && !p.wp }

/-- The issue of ATOM and CAS: the old value is pending in V[data] and Q0 (R282). -/
def atomRun (w : MemWord) (kind : OpKind) (nv scl : Nat) (s : State) : Out :=
  (atomForm w nv scl).run (fun s g r as =>
      let id := s.cur
      let (i, s) := s.take
      let m := g.exm &&& ~~~g.hlp
      let op := { opOf s id g kind r (r.effBrand g.brd) w with
        exm := m, dst := g.bv + w.data.toNat - 0x10, ndst := 1, toReg := true, kindCode := 2 }
      access s id (g.counted.pushPending i 1 m) i op (putAtom id i op (decide (kind = .atom 1))) as
        (fun g => g.pass 2) (fun g => g)) s

def execAtom (w : MemWord) (s : State) : Out := atomRun w (.atom (w.mod.extractLsb' 0 4).toNat) 1 2 s
def execCas (w : MemWord) (s : State) : Out := atomRun w .cas 2 w.scl s

/-! Store-fault records. -/

/-- A WRITE_PROTECT record for the lanes of an operation that met `wp`, appended to the group's queue and to the
device fault queue (R259). `off` is the object byte offset of the lowest lane's access, `foff` that from the base. -/
def appendWp (s : State) (op : LongOp) (kind : Nat) (lanes : Lanes) (obj off : Nat) (foff : Int) (kreg : Nat) : State :=
  match s.group? op.gid with
  | some g =>
    let r := faultRec true false kind op.cx op.brand obj off lanes op.obj op.ioff g.coreField g.slice 0 cWriteProtect
    let s := s.setGroup op.gid { g with sfq := g.sfq ++ [(r, BitVec.ofInt 32 foff, kreg)] }
    { s with fq := { s.fq with waiting := s.fq.waiting ++ [[r]] } }
  | none => s

/-- The lowest object offset at which a lane's access meets a write-protected page (R254, R259). -/
def LaneAcc.wpOff (a : LaneAcc) : Option Nat :=
  (a.units.filterMap (fun u => u.bind (fun u => if u.bytes.any (·.wp) then some u.off else none))).foldl
    (fun m o => some (m.elim o (min o))) none

/-- The record of a lane operation whose lanes `op.wpLanes` met `wp`, if any. -/
def appendWpLanes (s : State) (op : LongOp) : State :=
  if op.wpLanes = 0 then s
  else
    let a := (op.lanes.filter (fun a => op.wpLanes.getLsbD a.lane)).foldl (fun (m : Option LaneAcc) a =>
      match m with
      | some b => if a.lane < b.lane then some a else some b
      | none => some a) none
    let off := (a.bind LaneAcc.wpOff).getD 0
    appendWp s op op.kindCode op.wpLanes (Rec.obj op.rec1) off ((off : Int) - (Rec.base op.rec1 : Nat)) op.wpOff

/-- The cell of a branded atomic is materialised (R300), whether or not it then writes. -/
def atomCell (s : State) (cx b : Nat) (u : AccUnit) : State :=
  u.bytes.foldl (fun s p => (writePlace s cx b p).elim s (·.1)) s

/-- What a write performed leaves: its bytes at L2, none of them in the issuing core's L1 (R273, R281). -/
def atomWrite (s : State) (op : LongOp) (u : AccUnit) (v : Word) : State :=
  let s := writeOut s op.cx op.brand (wordBytes u v)
  u.bytes.foldl (fun s p => l1DropLine s op.core op.cx (resolve s op.cx op.brand p).2) s

/-- One lane of an atomic performed at L2 (R281, R282): its old value, its flags, and whether `wp` stopped it. -/
def atomLane (s : State) (op : LongOp) (a : LaneAcc) : State × Word × FFlags × Bool :=
  match a.units with
  | [] => (s, a.vals.headD 0, (a.vals.getD 1 0).setWidth 5, false)
  | none :: _ => (s, 0, 0, false)
  | some u :: _ =>
    let m := readWord s op.cx op.brand u
    let (v, fl, wr) := atomNew op.kind a.vals m
    if u.bytes.any (·.wp) then
      (u.bytes.foldl (fun s p => dropReservation s op.cx op.brand p.loc.line) s, m, 0, true)
    else
      let s := atomCell s op.cx op.brand u
      if wr then (atomWrite s op u v, m, fl, false) else (s, m, fl, false)

/-- The lanes of an atomic performed in ascending order. -/
def atomLanes (op : LongOp) : State → List LaneAcc → State × List (Nat × Word) × List (Nat × FFlags) × Lanes
  | s, [] => (s, [], [], 0)
  | s, a :: r =>
    let (s, v, fl, wp) := atomLane s op a
    let (s, vs, fs, ws) := atomLanes op s r
    (s, (a.lane, v) :: vs, if fl = 0 then fs else (a.lane, fl) :: fs, if wp then ws ||| (1#64 <<< a.lane) else ws)

end Sys2Proof.Machine
end

