-- ==== Sys2Proof/Machine/Service.lean ====
section
/-! DEFINITION. Requests of the memory service (R351, R354): their frames, the room for them, and how bytes are cut into them. -/
namespace Sys2Proof.Machine

/-- The flit of a request. -/
def msFlit (r : MsReq) : BitVec 512 :=
  BitVec.ofNat 512 ((r.len - 1) % 256 * 2 ^ 34 + (if r.write then 2 ^ 42 else 0) + r.rctx % 1024 * 2 ^ 44 +
    r.addr % 2 ^ 64 * 2 ^ 64)

/-- A frame of type `ft` on virtual channel `vc` with `nb` valid bytes less one; `seq`, `ack`, the credit and the CRC are
set when it is sent (R353). -/
def mkFrame (ft vc nb : Nat) (flit : BitVec 512) : Frame :=
  { flit := flit, side := BitVec.ofNat 64 (nb % 64 + ft % 8 * 2 ^ 6 + vc % 16 * 2 ^ 14) }

/-- A list cut into pieces of at most `n`; `fuel` bounds their number. -/
def pieces {α : Type} : Nat → Nat → List α → List (List α)
  | 0, _, _ => []
  | _ + 1, _, [] => []
  | f + 1, n, l => l.take n :: pieces f n (l.drop n)

/-- Bytes as data frames of type `ft`, the last with its valid count; `last` is the type of the last (R353). -/
def dataFrames (ft last vc : Nat) (bs : List Byte) : List Frame :=
  let ps := pieces (bs.length + 1) 64 bs
  ps.zipIdx.map (fun p =>
    mkFrame (if p.2 + 1 = ps.length then last else ft) vc (p.1.length - 1) (BitVec.ofNat 512 (natOfBytes p.1)))

/-- The frames of a request: `ft` 5, then for a write its data in `ft` 7. -/
def msFrames (r : MsReq) : List Frame :=
  mkFrame 5 0 0 (msFlit r) :: (if r.write then dataFrames 7 7 0 r.data else [])

/-- A request queued on rein `n` by agent `who`. -/
def msAsk (s : State) (n who : Nat) (r : MsReq) : State :=
  let x := s.rein n
  s.setRein n { x with msPend := x.msPend ++ [(who, r)], txq := x.txq ++ msFrames r }

/-- Flits that the buffers of the memory-service class of a rein hold: 16 KiB (R351). -/
def msBuffer : Nat := 256

/-- Rein `n` has room for a request beside those not yet answered (R351, R368). -/
def msFits (s : State) (n : Nat) (r : MsReq) : Bool :=
  decide (((s.rein n).msPend.map (fun e => (msFrames e.2).length)).foldl (· + ·) (msFrames r).length ≤ msBuffer)

/-- Requests of agent `who` queued on their reins as far as there is room, and how many were. -/
def msAskAll (s : State) (who : Nat) (rs : List (Nat × MsReq)) : State × Nat :=
  rs.foldl (fun a e => if msFits a.1 e.1 e.2 then (msAsk a.1 e.1 who e.2, a.2 + 1) else a) (s, 0)

/-- A request of agent `who` that is queued once rein `n` has room, after those that wait before it (R351). -/
def msQueue (s : State) (n who : Nat) (r : MsReq) : State :=
  let x := s.rein n
  if x.msWait.isEmpty && msFits s n r then msAsk s n who r else s.setRein n { x with msWait := x.msWait ++ [(who, r)] }

/-- Requests that waited for room on rein `n` queued as far as there is some; at most `k`. -/
def msPump : Nat → State → Nat → State
  | 0, s, _ => s
  | k + 1, s, n =>
    match (s.rein n).msWait with
    | [] => s
    | (who, r) :: rest =>
      if msFits s n r then msPump k (msAsk (s.setRein n { (s.rein n) with msWait := rest }) n who r) n else s

/-- Agent `who` awaits an answer of the memory service, or waits to ask for one. -/
def msAwaits (s : State) (who : Nat) : Bool := s.reins.any (fun r => (r.2.msPend ++ r.2.msWait).any (fun e => decide (e.1 = who)))

/-- The request for a run of peer bytes. -/
def peerReq (cx : Nat) (l : Loc) (n : Nat) (write : Bool) (data : List Byte) : MsReq :=
  { dev := (match l.sp with
      | .peer d => d
      | .phys | .host | .block _ | .share _ _ | .spill _ => 0)
    rctx := cx, addr := l.a, len := n, write := write, bad := false, data := data }

/-- The rein on which an engine reaches address `a` of a peer. -/
def peerRein (a : Nat) : Nat := a / 65536 % 32

/-- A run of consecutive bytes of a list of places: its first place and its bytes, cut at 256-byte boundaries. -/
def runsOf : List (Loc × Byte) → List (Loc × List Byte)
  | [] => []
  | (l, b) :: r =>
    match runsOf r with
    | (m, bs) :: q => if m = { l with a := l.a + 1 } && m.a % 256 ≠ 0 then (l, b :: bs) :: q else (l, [b]) :: (m, bs) :: q
    | [] => [(l, [b])]

end Sys2Proof.Machine
end

