-- ==== Sys2Proof/Machine/Perform.lean ====
section
/-! DEFINITION. What comes about after issue: a write performed at its home L2 (R259, R274), a load, an atomic, a spill or an
SFU operation delivering its result (R68), and the deterministic commit (R289). -/
namespace Sys2Proof.Machine

/-! Results. -/

/-- Finished unless lanes are left to a retry; `done` lanes have been delivered. -/
def finishLanes (s : State) (opid : Nat) (op : LongOp) (done : Lanes) : State :=
  if op.left = 0 then finishOp s opid op else s.setOp opid { op with fin := op.fin ||| done }

/-! Loads at L2 and in L1. -/

/-- The brands from `b` up its chain to `h`. -/
def brandChain : Nat → State → Nat → Nat → Nat → List Nat
  | 0, _, _, _, _ => []
  | n + 1, s, cx, b, h => if b = h then [b] else b :: brandChain n s cx (parentOf s cx b) h

/-- The lane of a write meets `wp`: it writes nothing, and no read is shown any of it (R259, R273). -/
def StoreOp.stopped (st : StoreOp) : Bool := st.bytes.any (·.1.wp)

/-- Writes not yet performed, in the order of their issue, over the byte at L2 or in L1: the group's own earlier ones
(R273) and those numbered in `seen`, which its core's L1 shows it (R274). -/
def ownBytes (s : State) (op : LongOp) (p : PByte) (h : Nat) (seen : List Nat) (old : Byte) : Byte :=
  let mine := s.mem.stores.filter (fun e =>
    !e.2.stopped && (if e.2.gid = op.gid then decide (e.1 < op.count) else seen.contains e.1))
  let above (ss : List (Nat × StoreOp)) (v : Byte) : Byte :=
    ss.foldl (fun v e => e.2.bytes.foldl (fun v b => if b.1.loc = p.loc then merge v b.2.1 b.2.2 else v) v) v
  if p.brd then
    (brandChain 6 s op.cx op.brand h).reverse.foldl (fun v b => above (mine.filter (fun e => decide (e.2.brand = b))) v) old
  else above mine old

/-- Writes of other groups, not yet performed, among `ids` that go to a byte. -/
def pendingTo (s : State) (op : LongOp) (p : PByte) (ids : List Nat) : List Nat :=
  (s.mem.stores.filter (fun e => ids.contains e.1 && decide (e.2.gid ≠ op.gid) && decide (e.2.act = .bytes) &&
    !e.2.stopped && e.2.bytes.any (fun b => decide (b.1.loc = p.loc)))).map (·.1)

/-- Access `opid` of a group has read writes not yet performed (R275). -/
def noteRead (s : State) (gid opid : Nat) (seen : List Nat) : State :=
  if seen.isEmpty then s
  else s.updGroup gid (fun g => { g with readFrom := (g.readFrom ++ seen.map (fun i => (i, opid))).eraseDups })

/-- A byte read by load `opid` (R266, R268): an acquire at BLOCK scope or wider does not look L1 up (R119). A write that
the group has seen in L1 it goes on seeing, whether or not the sector is still held (R272). -/
def loadByte (s : State) (opid : Nat) (op : LongOp) (p : PByte) : State × Byte :=
  let l1 := usesL1 op.pol && decide (acquires op.ord = 0)
  let (h, l) := resolve s op.cx op.brand p
  let (s, b, upd) := match op.pgot.find? (fun e => decide (e.1 = l)) with
    | some e => (s, e.2, [])
    | none => laneRead s op.core op.cx l1 l
  let old := ((s.group? op.gid).elim [] (·.readFrom)).map (·.1)
  let seen := if usesL1 op.pol then pendingTo s op p (upd ++ old) else []
  (noteRead s op.gid opid seen, ownBytes s op p h seen b)

def loadBytes (opid : Nat) (op : LongOp) : State → List PByte → State × List Byte
  | s, [] => (s, [])
  | s, p :: r =>
    let (s, b) := loadByte s opid op p
    let (s, bs) := loadBytes opid op s r
    (s, b :: bs)

/-- The value of one unit of a load: 0 where the bounds mode gives it (R225). -/
def loadUnit (s : State) (opid : Nat) (op : LongOp) (u : Option AccUnit) : State × Word × FFlags :=
  match u with
  | none => (s, 0, 0)
  | some u =>
    let (s, bs) := loadBytes opid op s u.bytes
    let hn := if u.hdr.isSome then 2 else 0
    let v := natOfBytes (bs.drop hn)
    match op.kind with
    | .loadQ =>
      let (w, f) := quantRead op.rec1 u.elem (natOfBytes (bs.take hn)) (bitsOf v u.bit (fmtBits (Rec.fmt op.rec1)))
      (s, w, f)
    | _ => (s, BitVec.ofNat 32 v, 0)

def loadUnits (opid : Nat) (op : LongOp) (lane : Nat) : State → Nat → List (Option AccUnit) →
    State × List (Nat × Nat × Word) × List (Nat × FFlags)
  | s, _, [] => (s, [], [])
  | s, j, u :: r =>
    let (s, v, f) := loadUnit s opid op u
    let (s, vs, fs) := loadUnits opid op lane s (j + 1) r
    (s, (lane, j, v) :: vs, if f = 0 then fs else (lane, f) :: fs)

def loadLanes (opid : Nat) (op : LongOp) : State → List LaneAcc → State × List (Nat × Nat × Word) × List (Nat × FFlags)
  | s, [] => (s, [], [])
  | s, a :: r =>
    let (s, vs, fs) := loadUnits opid op a.lane s 0 a.units
    let (s, vs', fs') := loadLanes opid op s r
    (s, vs ++ vs', fs ++ fs')

/-- The lanes of an operation translated and not yet delivered. -/
def LongOp.due (o : LongOp) : List LaneAcc := o.lanes.filter (fun a => !(o.left ||| o.fin).getLsbD a.lane)

/-- The bytes of an operation's lanes that are still to be accessed. -/
def LongOp.dueBytes (o : LongOp) : List PByte := o.due.flatMap (fun a => a.units.flatMap (fun u => u.elim [] (·.bytes)))

/-- A read or atomic can be performed: what must precede it has been, with a release also what earlier reads have shown
the group, and no line of it is held by an owner (R269, R273, R275). -/
def accessReady (s : State) (opid : Nat) (op : LongOp) : Bool :=
  noneLeft s op.after op.afterOps && (decide (releases op.ord = 0) || readsSettled s op.gid opid) &&
    op.dueBytes.all (fun p => !byteHeld s op.cx op.brand op.count p)

def orAll (g : Group) (fs : List (Nat × FFlags)) : Group := fs.foldl (fun g f => g.orFlags f.1 f.2) g

/-- A load delivers the lanes it has (R233, R237), and acquires once none is left (R275). -/
def completeLoad (s : State) (opid : Nat) (op : LongOp) : State :=
  if !op.waitsTie && accessReady s opid op then
    let due := op.due
    let (s, vs, fs) := loadLanes opid op s due
    let s := s.updGroup op.gid (fun g => orAll (g.deliverVals opid op (op.res ++ vs)) fs)
    let s := if op.left = 0 then doAcquire s op.core op.cx (acquires op.ord) else s
    finishLanes s opid op (lanesMask due)
  else s

/-- LDU writes its scalars (R234). -/
def completeLoadU (s : State) (opid : Nat) (op : LongOp) : State :=
  if op.left = 0 && accessReady s opid op then
    let (s, vs, _) := loadLanes opid op s op.due
    let s := s.updGroup op.gid (fun g => vs.foldl (fun g v => g.sset' (op.dst + v.2.1) v.2.2) g)
    finishOp (doAcquire s op.core op.cx (acquires op.ord)) opid op
  else s

/-- An atomic is performed, its release before and its acquire after (R281, R285). -/
def completeAtomic (s : State) (opid : Nat) (op : LongOp) : State :=
  if accessReady s opid op then
    let due := op.due
    let (s, vs, fs, wp) := atomLanes op (doRelease s op.cx (releases op.ord)) due
    let op := { op with wpLanes := op.wpLanes ||| wp }
    let s := s.updGroup op.gid (fun g =>
      let g := g.deliverVals opid op (vs.map (fun v => (v.1, 0, v.2)))
      match op.flag with
      | some f => { g with owed := g.owed ++ fs.map (fun e => { flag := f, lanes := 1#64 <<< e.1, bits := e.2 : Owed }) }
      | none => g)
    let s := if op.left = 0 then appendWpLanes (doAcquire s op.core op.cx (acquires op.ord)) op else s
    finishLanes s opid op (lanesMask due)
  else s

/-- Whether every write of a store operation has been performed. -/
def storesDone (s : State) (opid : Nat) : Bool := s.mem.stores.all (fun e => !decide (e.2.op = opid))

/-- An operation whose results were captured at issue: SFU, FIL (R207, R235). -/
def completeCaptured (s : State) (opid : Nat) (op : LongOp) : State :=
  finishOp (s.updGroup op.gid (fun g => g.deliverVals opid op op.res)) opid op

/-- FIL of a record (R226, R235). -/
def completeFillRec (s : State) (opid : Nat) (op : LongOp) : State :=
  finishOp (s.updGroup op.gid (fun g => g.wrK (BitVec.ofNat 4 op.dst) op.rec2)) opid op

/-- PROBE: the bits of its lanes in M[d]; every other bit is kept (R262). `fin` holds the lanes that translate. -/
def completeProbe (s : State) (opid : Nat) (op : LongOp) : State :=
  finishOp (s.updGroup op.gid (fun g =>
    let m := BitVec.ofNat 4 op.dst
    g.wrM m ((g.rdM m &&& ~~~op.exm) ||| op.fin))) opid op

/-! A write performed (R274). -/

/-- The groups whose reads a release carries: its own, or every group of its block at a block's exit (R141, R275). -/
def releasers (s : State) (st : StoreOp) : List Nat :=
  if st.core < Config.cores then [st.gid]
  else (s.group? st.gid).elim [] (fun g => (s.k.groups.filter (fun e => decide (e.2.block = g.block))).map (·.1))

/-- Write `i` may be performed now: what must precede it has been, a release also after the writes that earlier reads have
shown its group (R275), and no line of it is held by an owner (R269). -/
def storeReady (s : State) (i : Nat) (st : StoreOp) : Bool :=
  noneLeft s st.after st.afterOps && (decide (st.rel = 0) || (releasers s st).all (fun g => readsSettled s g i)) &&
    st.bytes.all (fun b => !byteHeld s st.cx st.brand i b.1)

/-- Some lane access that waited for an earlier owner of a line can be performed and precedes the line's owner (R269). -/
def lanesFirst (s : State) (line : Loc) (b : Nat) : Bool :=
  (dirOf s line b).elim false (fun d =>
    let here (cx br : Nat) (p : PByte) : Bool := decide (p.loc.line = line) &&
      (decide (dirBrand br p = b) || decide ((resolve s cx br p).1 = b))
    s.mem.stores.any (fun e => decide (e.1 < d.first) && e.2.bytes.any (fun x => here e.2.cx e.2.brand x.1) &&
      storeReady s e.1 e.2) ||
    s.mem.ops.any (fun e => e.2.kind.isRead && decide (e.2.count < d.first) && e.2.dueBytes.any (here e.2.cx e.2.brand) &&
      accessReady s e.1 e.2))

/-- A sector of host memory that a `.NA` write found in no L2 is written to memory at once (R268). -/
def naWrite (s t : State) (cx b pol : Nat) (ps : List PByte) : State :=
  if pol = 4 then
    let secs := (ps.filterMap (fun p =>
      let l := (resolve t cx b p).2
      if decide (l.sp = .host) && !s.mem.hostDirty l.a && !Config.l2Has s.tick (l.a / 64) then some (l.a / 64)
      else none)).eraseDups
    { t with mem := secs.foldl (fun m x => m.writeBack x) t.mem }
  else t

/-- A signal's value, 8 bytes (R344). -/
def sigValue (s : State) (cx b : Nat) (ps : List PByte) : Word64 :=
  BitVec.ofNat 64 (natOfBytes (ps.map (readByte s cx b [])))

/-- What a write does when it is performed: its bytes that are not write-protected, or a signal update (R259, R346). -/
def performStore (s : State) (st : StoreOp) : State :=
  let s := doRelease s st.cx st.rel
  match st.act with
  | .bytes =>
    if st.bytes.any (·.1.wp) then
      -- a lane that meets `wp` writes nothing; its reservations are returned
      (st.bytes.map (·.1.loc.line)).eraseDups.foldl (fun s l => dropReservation s st.cx st.brand l) s
    else
      let t := naWrite s (writeOut s st.cx st.brand st.bytes) st.cx st.brand st.pol (st.bytes.map (·.1))
      st.bytes.foldl (fun t e => l1Performed t st.core st.cx st.pol st.brand e) t
  | .sigAdd v => put s (sigValue s st.cx st.brand (st.bytes.map (·.1)) + v)
  | .sigSet v => put s v
where
  put (s : State) (v : Word64) : State :=
    if st.bytes.any (·.1.wp) then
      (st.bytes.map (·.1.loc.line)).eraseDups.foldl (fun s l => dropReservation s st.cx st.brand l) s
    else
      let s := writeOut s st.cx st.brand ((st.bytes.zip (bytesOfNat 8 v.toNat)).map (fun e => (e.1.1, e.2, 0xFF)))
      st.bytes.foldl (fun t e => l1DropLine t st.core st.cx (resolve t st.cx st.brand e.1).2) s

/-- The object offset of a place, by the pages an operation captured. -/
def offOfLoc (op : LongOp) (l : Loc) : Nat :=
  match op.pmap.find? (fun t => decide (t.base.sp = l.sp) && decide (t.base.a ≤ l.a) &&
      decide (l.a < t.base.a + pageSize t.lg)) with
  | some t => t.page * pageSize t.lg + (l.a - t.base.a)
  | none => l.a

/-- The write numbered `i` performed: `wp` is tested, and the record of its instruction is appended with the last of
the instruction's writes (R259). -/
def storePerformed (s : State) (i : Nat) : State :=
  match mget s.mem.stores i with
  | none => s
  | some st =>
    if storeReady s i st then
      let s := performStore s st
      let s := { s with mem := { s.mem with stores := mdel s.mem.stores i } }
      match s.op? st.op with
      | none => s
      | some op =>
        if op.kind = .sigAccess then
          -- an update for the group as a whole is no long-latency operation (R345)
          let s := if st.bytes.any (·.1.wp) then
              appendWp s op op.kindCode op.exm (Rec.obj op.rec1) (Rec.base op.rec1) 0 op.wpOff else s
          s.delOp st.op
        else if op.kind = .snap || op.kind = .out then
          -- the record of a tile's write is appended when its operation completes (R327)
          match (st.bytes.filter (·.1.wp)).head? with
          | some b => s.setOp st.op { op with rows := if op.rows.isEmpty then [(offOfLoc op b.1.loc, 0)] else op.rows }
          | none => s
        else
        let op := if st.bytes.any (·.1.wp) then { op with wpLanes := op.wpLanes ||| (1#64 <<< st.lane) } else op
        if storesDone s st.op && op.left = 0 then
          appendWpLanes (s.setOp st.op { op with wpLanes := 0 }) op
        else s.setOp st.op op
    else s

/-! The deterministic commit (R289). -/

/-- The first entry of a key order removed from a list of entries. -/
def minCommit : List Commit → Option (Commit × List Commit)
  | [] => none
  | c :: r =>
    match minCommit r with
    | none => some (c, [])
    | some (m, rest) => if m.key < c.key then some (m, c :: rest) else some (c, m :: rest)

/-- Deferred bytes of an entry in a peer's memory asked of it, on the rein of the slot or of the address, as it has room (R351,
R354); the answer is awaited by what completes with the entry. -/
def commitPeer (s : State) (c : Commit) : State :=
  let rs := runsOf (c.bytes.map (fun b => (b.1.loc, b.2.1)))
  rs.foldl (fun s r =>
    msQueue s (if c.gid = 0 then c.key.headD 0 else peerRein r.1.a) (8 + c.grid) (peerReq c.cx r.1 r.2.length true r.2)) s

/-- One entry applied: its bytes written, with the tags of a raw copy, or an addition with its flags (R226, R289). -/
def applyCommit (s : State) (c : Commit) : State :=
  -- a branded byte of a peer's page goes to its brand's cell (R300)
  let away (b : PByte × Byte × Byte) : Bool := b.1.loc.sp.isPeer && !(b.1.brd && decide (c.brand ≠ 0))
  if c.bytes.any (·.1.wp) then s
  else match c.addF32 with
    | none =>
      let s := commitPeer s { c with bytes := c.bytes.filter away }
      c.tags.foldl (fun s t => setTag s t.1 t.2) (writeOut s c.cx c.brand (c.bytes.filter (fun b => !away b)))
    | some v =>
      let m := BitVec.ofNat 32 (natOfBytes (c.bytes.map (fun b => readByte s c.cx c.brand [] b.1)))
      let x := fp32.addV .rne false (fp32.decode m.toNat) (fp32.decode v.toNat)
      (writeOut s c.cx c.brand ((c.bytes.zip (bytesOfNat 4 x.1)).map (fun e => (e.1.1, e.2, 0xFF)))).updGroup c.gid
        (fun g => g.orFlags c.lane x.2)

/-- An INVAL packet. -/
def pType8 (k : Packet) : Bool := decide (k.bits.extractLsb' 0 8 = 8)

/-- Entries applied in ascending key; `n` bounds their number. -/
def applyCommits : Nat → State → List Commit → State
  | 0, s, _ => s
  | n + 1, s, cs =>
    match minCommit cs with
    | none => s
    | some (c, rest) => applyCommits n (applyCommit s c) rest

/-- The commit buffer of a grid applied and emptied, and the owners of its deterministic-private lines cleared (R290). An INVAL
that watched its entries watches them no more (R124). -/
def commitApply (s : State) (grid : Nat) : State :=
  let cs := s.mem.commit.filter (fun c => decide (c.grid = grid))
  let s := applyCommits cs.length s cs
  { s with
    mem := { s.mem with commit := s.mem.commit.filter (fun c => !decide (c.grid = grid))
                        detOwn := s.mem.detOwn.filter (fun o => !decide (o.grid = grid)) }
    q := { s.q with pkts := s.q.pkts.map (fun e => (e.1,
      if pType8 e.2 then { e.2 with watch := e.2.watch.filter (· ≠ grid) } else e.2)) } }

end Sys2Proof.Machine
end

