-- ==== Sys2Proof/Machine/Signal.lean ====
section
/-! DEFINITION. Signals (R344-R348): updates and waits of groups, and the signal accesses that carry no record. -/
namespace Sys2Proof.Machine

/-! Signals named by a record. -/

/-- A signal's place: 8 bytes at the record's base. -/
def sigUnit (r : Rec) : AccUnit := { hdr := none, off := r.base, n := 8, bit := 0, elem := 0, bytes := [] }
def sigAcc (r : Rec) : LaneAcc := { lane := 0, off := 0, units := [some (sigUnit r)], vals := [] }

/-- BOUNDS of a signal instruction (R344, R222). -/
def sigOutside (s : State) (id : Nat) (g : Group) (r : Rec) : Bool :=
  decide (r.base % 8 ≠ 0) || decide (r.extent < 8) || (r.special && !(sigAcc r).within (coreStore s id g r.obj).2)

def sigForm (k : BitVec 4) (right : Nat) : AccessForm := { k := k, right := right, ditherBad := fun r => isD r.fmt, brand := fun g r => some (g.brandOf r) }

/-- The causes of a signal instruction, none of them per lane. -/
def sigTrap (s : State) (id : Nat) (k : BitVec 4) (right : Nat) (writes : Bool) (g : Group) : Option Trap :=
  match (sigForm k right).check s g with
  | some c => some { cause := c }
  | none =>
    let r := g.rdK k
    if sigOutside s id g r then some { cause := cBounds }
    else if writes && !(detLanes s g r (g.brandOf r) [sigAcc r]).isEmpty then some { cause := cDetOwnership }
    else none

/-- `V` = S[v + 1] · 2^32 + S[v] (R345). -/
def Group.pairS (g : Group) (v : BitVec 7) : Word64 := g.sget' (g.sreg v + 1) ++ g.rdS v

def sigUses (k : BitVec 4) (v : BitVec 7) : Uses := { kr := [k], sc := [v.toNat, v.toNat + 1] }

/-- The write of a signal update to the bytes `ps`, after every earlier access of its group (R346). -/
def sigStore (s : State) (gid opid : Nat) (g : Group) (op : LongOp) (vals : List Word) (ps : List PByte) : StoreOp :=
  let v : Word64 := vals.getD 1 0 ++ vals.headD 0
  { gid := gid, op := opid, cx := g.cx, core := g.core, brand := op.brand, lane := 0
    pol := op.pol, rel := releases op.ord, act := if op.ndst = 0 then .sigAdd v else .sigSet v
    after := storesBefore s gid ps true
    afterOps := ((ownOps s gid).filter (fun e => e.2.kind.isLaneAccess)).map (·.1)
    bytes := ps.map (fun p => (p, 0, 0xFF)) }

/-- An update leaves its group, to be performed after every earlier access of the group (R346). -/
def putSig (gid opid : Nat) (op : LongOp) : Put := fun s g a =>
  match a.units.head? with
  | some (some u) =>
    (reserveAll g.cx op.brand opid s (linesNeeding s g.cx op.brand u.bytes)).map (fun s =>
      let s := if detOf s g then detTake s g op.brand (u.bytes.filter (fun p => !p.wp)) else s
      let st := sigStore s gid opid g op a.vals u.bytes
      let (i, s) := s.take
      ({ s with mem := { s.mem with stores := mput s.mem.stores i st } }, a))
  | _ => some (s, a)

/-- The operation of a signal instruction at the current word. -/
def sigOp (s : State) (id : Nat) (g : Group) (kind : OpKind) (k : BitVec 4) (ord : BitVec 4) (kc : Nat) : LongOp :=
  let r := g.rdK k
  { opOf s id g kind r (g.brandOf r)
      { k := k, data := 0, index := 0, mod := 0, ord := ord, pol := 0, off := 0 } with
    flag := none, kindCode := kc }

/-- SIG.ADD and SIG.SET, once for the group (R345, R346). -/
def sigUpdate (k : BitVec 4) (v : BitVec 7) (ord : BitVec 4) (set : Bool) (s : State) : Out :=
  issue s (fun _ => sigUses k v) (sigTrap s s.cur k 2 true) (fun s g =>
    if g.reportsFull then s.setGroup s.cur (g.stall .overflowed)
    else
      let op := { sigOp s s.cur g .sigAccess k ord 2 with ndst := if set then 1 else 0 }
      let vals := [g.rdS v, g.sget' (g.sreg v + 1)]
      let sp := (coreStore s s.cur g (Rec.obj op.rec1)).1
      if Rec.special op.rec1 && ({ sp := sp, a := 0 } : Loc).inSpill then
        -- in the spill stack it takes effect at issue (R235), once every earlier access has (notes/assumptions/136.md)
        let ps := (sigUnit op.rec1).offs.map (fun o => ({ loc := { sp := sp, a := o }, wp := false, brd := false, det := 0 } : PByte))
        let st := sigStore s s.cur 0 g op vals ps
        if noneLeft s st.after st.afterOps && releaseReady s s.cur st.rel then (performStore s st).updGroup s.cur (fun g => g.adv 2)
        else s.setGroup s.cur (g.stall .fence)
      else
        let (i, s) := s.take
        access s s.cur g.counted i op (putSig s.cur i op) [{ sigAcc op.rec1 with vals := vals }] (fun g => g.pass 2)
          (fun g => g))

def execSigAdd (k : BitVec 4) (t : BitVec 7) (ord : BitVec 4) (s : State) : Out := sigUpdate k t ord false s
def execSigSet (k : BitVec 4) (t : BitVec 7) (ord : BitVec 4) (s : State) : Out := sigUpdate k t ord true s

/-- `signal cond V`: 0 GE, 1 EQ, 2 NE, 3 LT, unsigned (R345, R116). -/
def sigCond (c : Nat) (x v : Word64) : Bool :=
  match c with
  | 0 => v.ule x
  | 1 => decide (x = v)
  | 2 => decide (x ≠ v)
  | _ => x.ult v

/-- Where the test of a SIG.WAIT stands: parked, held back (an owned line, an access of the group's own to the signal not
yet performed, an acquire not yet made), or a value. -/
inductive SigTest where
  | parks (fs : List (PageFault × Nat)) (cs : Chunks)
  | waits (cs : Chunks)
  | value (v : Word64) (cs : Chunks)

/-- The value of the signal of record `r` as group `id` tests it now (R348). -/
def sigTest (s : State) (id : Nat) (g : Group) (r : Rec) (b : Nat) : SigTest :=
  let a := sigAcc r
  let late (ps : List PByte) : Bool := (ownStores s id).any (fun e => meets (e.2.bytes.map (·.1)) ps) ||
    !(opsBefore s id ps false).isEmpty
  if r.special then
    let sp := (coreStore s id g r.obj).1
    let ps := (sigUnit r).offs.map (fun o => ({ loc := { sp := sp, a := o }, wp := false, brd := false, det := 0 } : PByte))
    if late ps then .waits [] else .value (sigValue s g.cx 0 ps) []
  else
    let cs := translateChunks s g.cx r.obj true a.offs
    let fs := a.faults cs
    if !fs.isEmpty then .parks fs cs
    else
      let ps := (sigUnit r).offs.map cs.byte
      if ps.any (fun p => byteOwned s g.cx b p) || late ps then .waits cs
      else .value (sigValue s g.cx b ps) cs

/-- A test made at the group's SIG.WAIT: it goes on, with its acquire, waits in the barrier state, or parks (R348). -/
def sigWaitTest (s : State) (id : Nat) (g : Group) (w : SigWait) (op : LongOp) : State :=
  let hold (s : State) : State := s.setGroup id { g with status := .barrier, park := none, sigw := some w }
  match sigTest s id g w.rec1 w.brand with
  | .parks fs cs =>
    let s := noteTlb s g.cx cs.good
    let (i, s) := s.take
    let op := { op with left := g.exm }
    parkAt (s.setOp i op) id { g with sigw := some w } (some i)
      (parkRecords g op w.brand (Rec.obj w.rec1) (pageRows [(0, fs)]))
  | .waits cs => hold (noteTlb s g.cx cs.good)
  | .value x cs =>
    let s := noteTlb s g.cx cs.good
    if sigCond w.cond.toNat x w.value then
      doAcquire (s.setGroup id (({ g with sigw := none, park := none }).adv 2)) g.core g.cx w.ord
    else hold s

/-- SIG.WAIT (R348). -/
def execSigWait (k : BitVec 4) (t : BitVec 7) (ord : BitVec 4) (c : BitVec 2) (s : State) : Out :=
  issue s (fun _ => sigUses k t) (sigTrap s s.cur k 0 false) (fun s g =>
    let op := sigOp s s.cur g .signalWait k ord 0
    sigWaitTest s s.cur g { rec1 := op.rec1, brand := op.brand, value := g.pairS t, cond := c, ord := acquires ord.toNat }
      op)

/-- The word of a waiting SIG.WAIT as an operation, for its fault records. -/
def sigWaitOp (s : State) (id : Nat) (g : Group) (w : SigWait) : LongOp :=
  let o := originOf s g g.pc
  { LongOp.blank with
    gid := id, cx := g.cx, core := g.core, kind := .signalWait, rec1 := w.rec1, brand := w.brand, ord := w.ord,
    exm := g.exm, ioff := o.2, obj := o.1, issueNo := g.nIssued }

/-- A waiting group tests again (R348). -/
def execSigWaitResume (gid : Nat) (s : State) : Out :=
  match s.group? gid with
  | some g =>
    match g.sigw with
    | some w =>
      if g.status = .barrier && !g.saved && (s.ctx g.cx).st = 1 then
        .next (sigWaitTest s gid g w (sigWaitOp s gid g w))
      else .next s
    | none => .next s
  | none => .next s

/-! Signals named by an object address, under brand 0 (R344). -/

/-- The object and offset of an object address (R111). -/
def objOf (a : Nat) : Nat := a / 2 ^ 40 % 2 ^ 24
def offOf (a : Nat) : Nat := a % 2 ^ 40

/-- `n` bytes at object address `a` of a context as a unit; `near` bars an agent that reaches no peer (R249). -/
def agentBytes (s : State) (cx a n : Nat) (near : Bool) : Except PageFault (List PByte) :=
  let offs := (List.range n).map (offOf a + ·)
  let cs := translateChunks s cx (objOf a) near offs
  match offs.find? (fun o => match cs.at o with
    | .ok _ => false
    | .error _ => true) with
  | some o => match cs.at o with
    | .error f => .error f
    | .ok _ => .ok []
  | none => .ok (offs.map cs.byte)

/-- Bytes at an object address for a command sequencer or a block. -/
def seqBytes (s : State) (cx a n : Nat) : Except PageFault (List PByte) := agentBytes s cx a n true

/-- Bytes read for a sequencer at the home L2. -/
def seqRead (s : State) (cx : Nat) (ps : List PByte) : Nat := natOfBytes (ps.map (readByte s cx 0 []))

/-- A signal update without a record that a block makes, counted with its group `gid`, to be performed after `after` and
`afterOps`; `rel` is the scope of its release. -/
def seqUpdate (s : State) (cx gid a rel : Nat) (act : StoreAct) (after afterOps : List Nat) : State :=
  match seqBytes s cx a 8 with
  | .error _ => s
  | .ok ps =>
    let (i, s) := s.take
    let st : StoreOp := { gid := gid, op := 0, cx := cx, core := Config.cores, brand := 0, lane := 0, pol := 2, rel := rel,
                          act := act, after := after, afterOps := afterOps, bytes := ps.map (fun p => (p, 0, 0xFF)) }
    { s with mem := { s.mem with stores := mput s.mem.stores i st } }

end Sys2Proof.Machine
end

