-- ==== Sys2Proof/Machine/Finish.lean ====
section
/-! DEFINITION. The end of a group, of its block and of a node (R141, R153, R159, R167, R309). -/
namespace Sys2Proof.Machine

/-- The group of an operation is saved, or waits, resumed, for cores (R106): the operation is at no core. -/
def opSaved (s : State) (op : LongOp) : Bool := (s.group? op.gid).elim false (·.saved)

/-- A tile's MOUT that has not yet taken the tile's state (R326). -/
def unreadOut (s : State) (core z : Nat) : Bool :=
  s.mem.ops.any (fun e => decide (e.2.kind = .out) && decide (e.2.core = core) && decide (e.2.tile = z) &&
    decide (e.2.count = 0) && !opSaved s e.2)

def State.tile (s : State) (core z : Nat) : Tile := sget Tile.free (s.core core).tiles z
def State.setTile (s : State) (core z : Nat) (t : Tile) : State :=
  s.setCore core { (s.core core) with tiles := sset Tile.free (s.core core).tiles z t }

/-- A tile whose holder has ended is freed once nothing of it is outstanding (R309). -/
def freeOrphan (s : State) (core z : Nat) : State :=
  let t := s.tile core z
  if t.orphan && t.loops.isEmpty && !unreadOut s core z then s.setTile core z Tile.free else s

/-- Whether a loop of a group is outstanding on some core, or a tile of it is saved or waits for a core (R106, R334). -/
def loopsOut (s : State) (gid : Nat) : Bool :=
  s.cores.any (fun c => c.2.tiles.any (fun t => t.2.loops.any (fun l => decide (l.gid = gid)))) ||
    s.cx.ctxs.any (fun c => c.2.orphans.any (fun t => decide (t.tile.holder = some gid)))

/-- An ended group whose packet has left, kept for its loops (R309), goes with the last of them. -/
def forgetEnded (s : State) (gid : Nat) : State :=
  match s.group? gid with
  | some g =>
    if decide (g.status = .ended) && (s.grid? g.grid).isNone && g.outrider.isNone && !loopsOut s gid then
      { s with k := { s.k with groups := mdel s.k.groups gid } }
    else s
  | none => s

/-- The tiles of a group that ends. -/
def dropTiles (s : State) (core id : Nat) : State :=
  (List.range 8).foldl (fun s z =>
    if (s.tile core z).holder = some id then freeOrphan (s.setTile core z { (s.tile core z) with orphan := true }) core z
    else s) s

/-- The block-exit signal of a launch record (R133, R141): a release of all writes of the block. -/
def exitSignal (s : State) (cx : Nat) (l : BitVec 2048) (groups : List Nat) : State :=
  let a := bitsOf l.toNat 512 64
  if a = 0 then s
  else
    let own := (s.mem.stores.filter (fun e => groups.contains e.2.gid)).map (·.1)
    let ops := (s.mem.ops.filter (fun e => groups.contains e.2.gid)).map (·.1)
    seqUpdate s cx (groups.headD 0) a (if bitsOf l.toNat 653 1 = 1 then 4 else 5) (.sigAdd (BitVec.ofNat 64 (bitsOf l.toNat 576 64)))
      own ops

/-- A packet's work is done, with a status (R117); PACKET_COMPLETE completes it. -/
def finishPacket (s : State) (p : Nat) (status : BitVec 8) : State :=
  match s.pkt? p with
  | some k => if k.finished then s else s.setPkt p { k with finished := true, status := status }
  | none => s

/-- A grid of a packet earlier than a node's close (R154; DEDUCED, notes/assumptions/132.md). -/
def Node.before (nd : Node) (q grid : Nat) : Bool := decide (grid ≠ 0) && decide (grid < nd.closeAt) && nd.closeQs.contains q

/-- The grids of packets earlier than a node's close have completed (R141, R154). -/
def closeDue (s : State) (nd : Node) : Bool :=
  nd.closed && s.k.grids.all (fun x => !(nd.before x.2.q x.1 && x.2.node.isNone &&
    (s.pkt? x.2.pkt).elim false (fun k => !k.finished)))

/-- A closed node with no group left is done (R123, R153), a deterministic one not before its final part (R154): its
deferred writes are applied (R289) and its lines of deterministic-private pages are no one's (R290). -/
def nodeDone (s : State) (nid : Nat) : State :=
  match mget s.k.nodes nid with
  | none => s
  | some nd =>
    match s.grid? nd.grid with
    | none => s
    | some gr =>
      if nd.closed && decide (gr.nodeGroups = 0) && nd.held.isEmpty && nd.ready.isEmpty && (!nd.det || closeDue s nd) then
        let s := match s.pkt? nd.pkt with
          | some k => s.setPkt nd.pkt { k with blocks := gr.exited, cause := gr.cause }
          | none => s
        finishPacket (commitApply { s with k := { s.k with nodes := mdel s.k.nodes nid } } nd.grid) nd.pkt 0
      else s

/-- Closed deterministic nodes that waited for the end of a grid (R154). -/
def nodesDone (s : State) : State :=
  (s.k.nodes.filter (fun n => n.2.closed && n.2.det)).foldl (fun s n => nodeDone s n.1) s

/-- A block whose last group has ended exits (R141): its room is free and `tstep` is added to `tsig`. -/
def blockExit (s : State) (bid : Nat) : State :=
  match s.block? bid with
  | none => s
  | some b =>
    if b.groups.all (fun g => (s.group? g).elim true (fun g => decide (g.status = .ended))) then
      match s.grid? b.grid with
      | none => { s with k := { s.k with blocks := mdel s.k.blocks bid } }
      | some gr =>
        let s := exitSignal s b.cx gr.lrec b.groups
        let s := if gr.pkt2.isSome then exitSignal s b.cx gr.lrec2 b.groups else s
        let s := s.setGrid b.grid { gr with exited := gr.exited + 1
                                            nodeGroups := if gr.node.isSome then gr.nodeGroups - 1 else gr.nodeGroups }
        let s := { s with k := { s.k with
          blocks := mdel s.k.blocks bid
          bars := s.k.bars.filter (fun n => !(decide (n.lv = 0) && decide (n.id = bid))) } }
        match gr.node with
        | some nid => nodeDone s nid
        | none => s
    else s

/-- GROUP END (R141, R167, R172): slices, tiles and register bytes are returned; an outrider's run ends (R157). -/
def endGroup (s : State) (id : Nat) : State :=
  match s.group? id with
  | none => s
  | some g =>
    let s := s.setGroup id { g with
      status := .ended, park := none, live := 0, pth := 0, exm := 0, conts := [], holds := [], J := [], reenter := none
      V := [], Q := [], S := [], M := [], K := [], spill := [], spillTags := [], owed := [], dfaults := [], ties := []
      sigw := none, yieldTo := none }
    match g.outrider with
    | some c =>
      let o := sget Outrider.idle s.k.outriders c
      { s with k := { s.k with outriders := sset Outrider.idle s.k.outriders c { o with run := none } } }
    | none => blockExit (quitLeave (dropTiles s g.core id) id g) g.block

end Sys2Proof.Machine
end

