-- ==== Sys2Proof/Machine/Mask.lean ====
section
/-! DEFINITION. Mask instructions (R182) and special registers (R177, R190) but for `BRD`, which Brand writes. -/
namespace Sys2Proof.Machine

/-- A mask instruction over masks. -/
def maskOp (d : BitVec 4) (ms : List (BitVec 4)) (f : Group → Word64) (s : State) : Out :=
  issueG s { msk := d :: ms } (fun g => (g.wrM d (f g)).adv 1)

/-- A mask instruction that writes a scalar. -/
def maskToS (d : BitVec 7) (a : BitVec 4) (f : Word64 → Word) (s : State) : Out :=
  issueG s { msk := [a], sc := [d.toNat] } (fun g => (g.wrS d (f (g.rdM a))).adv 1)

def execMmov (d a : BitVec 4) (s : State) : Out := maskOp d [a] (fun g => g.rdM a) s
def execMand (d a b : BitVec 4) (s : State) : Out := maskOp d [a, b] (fun g => g.rdM a &&& g.rdM b) s
def execMor (d a b : BitVec 4) (s : State) : Out := maskOp d [a, b] (fun g => g.rdM a ||| g.rdM b) s
def execMxor (d a b : BitVec 4) (s : State) : Out := maskOp d [a, b] (fun g => g.rdM a ^^^ g.rdM b) s
def execMnot (d a : BitVec 4) (s : State) : Out := maskOp d [a] (fun g => ~~~ g.rdM a) s
def execMpopc (d : BitVec 7) (a : BitVec 4) (s : State) : Out := maskToS d a (fun m => BitVec.ofNat 32 (popcount m)) s
/-- MFFS: 64 for an empty mask (R182). -/
def execMffs (d : BitVec 7) (a : BitVec 4) (s : State) : Out :=
  maskToS d a (fun m => BitVec.ofNat 32 ((lowest m).getD 64)) s
/-- MTOS writes a pair of scalars (R182). -/
def execMtos (d : BitVec 7) (a : BitVec 4) (s : State) : Out :=
  issueG s { msk := [a], sc := [d.toNat, d.toNat + 1] } (fun g =>
    ((g.wrS d ((g.rdM a).extractLsb' 0 32)).sset' (g.sreg d + 1) ((g.rdM a).extractLsb' 32 32)).adv 1)
def execMfroms (d : BitVec 4) (a b : BitVec 7) (s : State) : Out :=
  issueG s { msk := [d], sc := [a.toNat, b.toNat] } (fun g => (g.wrM d (g.rdS b ++ g.rdS a)).adv 1)
def execExmrd (d : BitVec 4) (s : State) : Out := maskOp d [] (fun g => g.exm) s
/-- EXMWR: EXM := M[a] AND PTH, from the next instruction on (R164, R182). -/
def execExmwr (a : BitVec 4) (s : State) : Out :=
  issueG s { msk := [a] } (fun g => ({ g with exm := g.rdM a &&& g.pth }).adv 1)

/-! Special registers. -/

/-- `WINB` layout (R177). -/
def winb (bv bs : Nat) : Word := BitVec.ofNat 32 (bs * 65536 + bv)

/-- Block coordinate j of block b in a grid of gx by gy (R137). -/
def blockCoord (gx gy b j : Nat) : Nat :=
  match j with
  | 0 => b % gx
  | 1 => b / gx % gy
  | _ => b / (gx * gy)

/-- Registers 0x00-0x0C: what a group is and where it runs (R177, R140); an outrider run reads 0 but for `PCORE`
(R156). -/
def placeReg (s : State) (g : Group) (n : Nat) : Word :=
  match g.outrider with
  | some c => if n = 0x0C then BitVec.ofNat 32 (384 + c) else 0
  | none =>
    let b := (s.block? g.block).elim 0 (·.b)
    let cores := (s.block? g.block).elim [] (·.cores)
    let dim (j : Nat) : Nat := match s.grid? g.grid with
      | some gr =>
        if gr.node.isSome then Config.nodeDim j
        else match j with
          | 0 => gr.gx
          | 1 => gr.gy
          | _ => gr.gz
      | none => 0
    let unit : Nat := match s.grid? g.grid with
      | some gr => if gr.det && gr.node.isNone then b % ((bitsOf gr.lrec.toNat 672 9) / cores.length) else b
      | none => 0
    BitVec.ofNat 32 (match n with
      | 0 => g.gidx
      | 1 => b
      | 2 => blockCoord (dim 0) (dim 1) b 0
      | 3 => blockCoord (dim 0) (dim 1) b 1
      | 4 => blockCoord (dim 0) (dim 1) b 2
      | 5 => dim 0
      | 6 => dim 1
      | 7 => dim 2
      | 8 => (s.block? g.block).elim 0 (·.threads)
      | 9 => g.width
      | 10 => g.nregs
      | 11 => cores.length * unit + cores.idxOf g.core
      | _ => g.core)

/-- Lane sets 0x12-0x17, which an outrider run reads as 0 (R156). -/
def laneReg (g : Group) (n : Nat) : Word :=
  if g.outrider.isSome then 0
  else
    let m : Lanes := if n ≤ 0x13 then g.pth else if n ≤ 0x15 then g.live else g.hlp
    if n % 2 = 0 then m.extractLsb' 0 32 else m.extractLsb' 32 32

/-- The value SRD reads (R177). -/
def specialReg (s : State) (g : Group) (n : Nat) : Word :=
  if n ≤ 0x0C then placeReg s g n
  else if 0x12 ≤ n ∧ n ≤ 0x17 then laneReg g n
  else match n with
    | 0x10 => g.brd.zeroExtend 32
    | 0x11 => winb g.bv g.bs
    | 0x18 => g.flgs
    | 0x1C => BitVec.ofNat 32 s.cycle
    | 0x1D => g.cychL
    | 0x20 => g.fcla
    | 0x21 => g.fres
    | 0x22 => g.fcau
    | 0x23 => g.fln.extractLsb' 0 32
    | 0x24 => g.fln.extractLsb' 32 32
    | 0x25 => g.fex.extractLsb' 0 32
    | 0x26 => g.fex.extractLsb' 32 32
    | 0x27 => winb g.fbv g.fbs
    | 0x28 => g.foff
    | 0x29 => g.frec
    | 0x2A => g.forg
    | _ => 0

/-- The low or high half of a 64-bit lane set replaced. -/
def setHalf (m : Lanes) (high : Bool) (v : Word) : Lanes :=
  if high then v ++ m.extractLsb' 0 32 else m.extractLsb' 32 32 ++ v

/-- A write of a handler register, ignored while IH = 0 (R177). -/
def Group.writeFault (g : Group) (n : Nat) (v : Word) : Group :=
  if !g.ih then g
  else match n with
    | 0x20 => { g with fcla := v }
    | 0x21 => { g with fres := v }
    | 0x22 => { g with fcau := v &&& 0x00FFFFFF }
    | 0x23 => { g with fln := setHalf g.fln false v }
    | 0x24 => { g with fln := setHalf g.fln true v }
    | 0x25 => { g with fex := setHalf g.fex false v }
    | _ => { g with fex := setHalf g.fex true v }

/-- SRD (R190); a read of `CYCL` latches `CYCH`. -/
def execSrd (d n : BitVec 7) (s : State) : Out :=
  issue s (fun _ => { sc := [d.toNat] }) (fun _ => none) (fun s g =>
    let g' := if n = 0x1C then { g with cychL := BitVec.ofNat 32 (s.cycle / 2 ^ 32) } else g
    s.setGroup s.cur ((g'.wrS d (specialReg s g n.toNat)).adv 1))

end Sys2Proof.Machine
end

