-- ==== Sys2Proof/Machine/Brand.lean ====
section
/-! DEFINITION. Brands (R293-R306): allocation, selection, retirement and merging; a write of `BRD` (R177). -/
namespace Sys2Proof.Machine

def brandKey (cx b : Nat) : Nat := cx * 65536 + b
def State.brand? (s : State) (cx b : Nat) : Option Brand := mget s.br.table (brandKey cx b)
def State.setBrand (s : State) (cx b : Nat) (e : Brand) : State :=
  { s with br := { s.br with table := mput s.br.table (brandKey cx b) e } }

/-- Brands of a context, other than 0, that are not free (R295). -/
def brandCount (s : State) (cx : Nat) : Nat := (s.br.table.filter (fun e => decide (e.1 / 65536 = cx))).length

/-- A source brand value names a live brand of the context (R305). -/
def liveValue (s : State) (cx : Nat) (v : Word) : Bool := v >>> 16 = 0 && s.brandLive cx v.toNat

def hasChild (s : State) (cx b : Nat) : Bool :=
  s.br.table.any (fun e => decide (e.1 / 65536 = cx) && decide (e.2.parent = b))

/-- The depth of a brand; that of brand 0 is 0 (R294). -/
def brandDepth (s : State) (cx b : Nat) : Nat := if b = 0 then 0 else (s.brand? cx b).elim 0 (·.depth)

/-- The lowest of the `k` identifiers from `n` that the context has not allocated. -/
def lowestFree (s : State) (cx : Nat) : Nat → Nat → Option Nat
  | 0, _ => none
  | k + 1, n => if (s.brand? cx n).isNone then some n else lowestFree s cx k (n + 1)

/-- The identifier an allocation takes (R296): none while it is not free. -/
def nextBrand (s : State) (g : Group) : Option Nat :=
  if detOf s g then
    let G := (s.grid? g.grid).elim 0 (·.ngroups)
    let n := 1 + (16 * (G * blockNo s g + g.gidx) + g.nAlloc % 16) % 65535
    if (s.brand? g.cx n).isNone then some n else none
  else
    lowestFree s g.cx 65535 1

/-- An allocation stalls (R295, R296). -/
def allocStalls (s : State) (g : Group) : Bool :=
  decide ((s.ctx g.cx).brandQuota ≤ brandCount s g.cx) || decide (65535 ≤ s.br.table.length) || (nextBrand s g).isNone

/-- `Allocate(parent p)` into S[d] (R306). -/
def allocBrand (d : BitVec 7) (p : Nat) (s : State) (g : Group) : State :=
  if allocStalls s g then s.setGroup s.cur (g.stall .brandQuota)
  else match nextBrand s g with
    | none => s
    | some n =>
      let s := s.setBrand g.cx n { parent := p, depth := brandDepth s g.cx p + 1, st := 1, waiter := none, returned := false }
      s.setGroup s.cur (({ (g.wrS d (BitVec.ofNat 32 n)) with nAlloc := g.nAlloc + 1 }).adv 1)

def badBrand : Option Trap := some { cause := cBrandInvalid }

def execBndNew (d : BitVec 7) (s : State) : Out :=
  issue s (fun _ => { sc := [d.toNat] }) (fun _ => none) (allocBrand d 0)

/-- BND.FORK of a live parent of depth at most 3; of brand 0 it is BND.NEW (R306). -/
def execBndFork (d p : BitVec 7) (s : State) : Out :=
  issue s (fun _ => { sc := [d.toNat, p.toNat] })
    (fun g => if liveValue s g.cx (g.rdS p) && decide (brandDepth s g.cx (g.rdS p).toNat ≤ 3) then none else badBrand)
    (fun s g => allocBrand d (g.rdS p).toNat s g)

/-- BRD := b for a live brand (R306), by BND.SET or SWR (R177). -/
def selectBrand (b : BitVec 7) (s : State) : Out :=
  issue s (fun _ => { sc := [b.toNat] }) (fun g => if liveValue s g.cx (g.rdS b) then none else badBrand)
    (fun s g => s.setGroup s.cur (({ g with brd := (g.rdS b).extractLsb' 0 16 }).adv 1))

def execBndSet (b : BitVec 7) (s : State) : Out := selectBrand b s

/-- SWR (R190). -/
def execSwr (n a : BitVec 7) (s : State) : Out :=
  if n = 0x10 then selectBrand a s
  else issueG s { sc := [a.toNat] } (fun g => (g.writeFault n.toNat (g.rdS a)).adv 1)

/-- The check of BND.RET and BND.MRG: live, not 0, no child (R297, R306). -/
def endable (s : State) (g : Group) (v : Word) : Bool := liveValue s g.cx v && decide (v ≠ 0) && !hasChild s g.cx v.toNat

/-- A brand leaves the live state, waited for by `w`. -/
def endBrand (s : State) (cx b st : Nat) (w : Option Nat) : State :=
  match s.brand? cx b with
  | some e => s.setBrand cx b { e with st := st, waiter := w }
  | none => s

/-- BND.RET completes at issue (R306). -/
def execBndRet (b : BitVec 7) (s : State) : Out :=
  issue s (fun _ => { sc := [b.toNat] }) (fun g => if endable s g (g.rdS b) then none else badBrand)
    (fun s g => (endBrand s g.cx (g.rdS b).toNat 2 none).setGroup s.cur (g.adv 1))

/-- BND.MRG stalls until every cell is applied (R306); STALL_RELEASE completes it. -/
def execBndMrg (b : BitVec 7) (s : State) : Out :=
  issue s (fun _ => { sc := [b.toNat] }) (fun g => if endable s g (g.rdS b) then none else badBrand)
    (fun s g => (endBrand s g.cx (g.rdS b).toNat 3 (some s.cur)).setGroup s.cur (g.stall (.merge (g.rdS b).toNat)))

/-- Whether an operation is an access in flight: a parked one is not, but for lanes of a read still to be performed; the
writes of a store are counted by themselves (R297). -/
def LongOp.inFlight (o : LongOp) : Bool :=
  !o.waitsTie && ((decide (o.parkNo = 0) && decide (o.left = 0)) || (o.kind.isRead && !o.due.isEmpty))

/-- The G register that names a rein instruction's brand (R379). -/
def reinBrandReg : Instr → Option (BitVec 5)
  | .xmit _ b _ _ | .xmitA _ b _ _ _ | .stow _ b _ _ | .stowA _ b _ _ | .fold _ b _ _ _ _ | .foldf _ b _ _ _ _ _ => some b
  | _ => none

/-- A running slot's instruction under a brand has issued and has not completed (R298, R389). -/
def slotBusy (s : State) (cx b : Nat) : Bool :=
  s.reins.any (fun r => r.2.slots.any (fun e =>
    let x := e.2
    decide (x.st = 3) && decide (x.cx = cx) && x.issued &&
      (((decodeReinWords (x.words.drop x.pc)).bind reinBrandReg).elim false (fun g =>
        decide (bitsOf (sget 0 x.G g.toNat).toNat 0 16 = b)))))

/-- A SIG.WAIT under a brand that waits: its read is past its checks (R297, R348). -/
def waitsUnder (cx b : Nat) (g : Group) : Bool :=
  decide (g.cx = cx) && decide (g.status = .barrier) && g.sigw.elim false (fun w => decide (w.brand = b))

/-- A write under a brand that ELIDE holds: its store has issued (R147). -/
def heldUnder (cx b : Nat) (g : Group) : Bool := decide (g.cx = cx) && g.ties.any (fun h => h.elide && decide (h.brand = b))

/-- Accesses issued under a brand that have not completed, deferred and held writes among them (R147, R288, R297). -/
def brandBusy (s : State) (cx b : Nat) : Bool :=
  slotBusy s cx b || s.k.groups.any (fun e => waitsUnder cx b e.2 || heldUnder cx b e.2) ||
  s.mem.commit.any (fun c => decide (c.cx = cx) && decide (c.brand = b)) ||
  s.mem.stores.any (fun e => decide (e.2.cx = cx) && decide (e.2.brand = b)) ||
    s.mem.ops.any (fun e => decide (e.2.cx = cx) && e.2.inFlight && (decide (e.2.brand = b) ||
      ((e.2.kind = .copy || e.2.kind = .rekey || e.2.kind = .gather || e.2.kind = .raw) && decide (e.2.brand2 = b)))) ||
    s.cores.any (fun c => c.2.tiles.any (fun t => t.2.loops.any (fun l => decide (l.cx = cx) && decide (l.brand = b) &&
      !l.paused)))

/-- The cell of a brand at the lowest line. -/
def firstCell (s : State) (cx b : Nat) : Option OCell :=
  (s.br.cells.filter (fun c => decide (c.cx = cx) && decide (c.brand = b) && c.op.isNone)).foldl (fun m c =>
    match m with
    | none => some c
    | some d => if c.line.key < d.line.key then some c else some d) none

/-- One cell of a merging brand applied to its parent p (R304): a write under brand 0, for the WAITs that wait for one (R124). -/
def applyCell (s : State) (cx p : Nat) (c : OCell) : State :=
  let rest := s.br.cells.filter (fun d => decide (d ≠ c))
  let dest : Option Loc := if p = 0 then some c.line else (cell? s cx p c.line).map (fun q => { sp := .phys, a := q })
  match dest with
  | some d =>
    let s := (List.range 256).foldl (fun s i =>
      writeAt s cx { d with a := d.a + i } (readAt s cx [] { sp := .phys, a := c.pool + i })) s
    let s := if p = 0 then wakeWaits s ((List.range 256).map (fun i => { d with a := d.a + i })) else s
    let s := l1Invalidate s d
    let s := { s with br := { s.br with cells := rest } }
    match s.brand? cx c.brand with
    | some e => s.setBrand cx c.brand { e with returned := true }
    | none => s
  | none => l1Invalidate { s with br := { s.br with cells := { c with brand := p } :: rest } } { sp := .phys, a := c.pool }

/-- The group that waits for a brand's merge, if any, stands at its BND.MRG: not saved, nor waiting to return (R105, R306). -/
def mergerHere (s : State) (e : Brand) (b : Nat) : Bool :=
  e.waiter.elim true (fun w => (s.group? w).elim true (fun g => !g.saved && decide (g.status = .stalled (.merge b))))

/-- BRAND_MERGE_APPLY: the overlay unit applies the next cell, once no access is in flight, the merging group's earlier
writes are visible at DEVICE scope, and the line has no owner under the parent (R304, R306). -/
def execBrandMergeApply (cx b : Nat) (s : State) : Out :=
  match s.brand? cx b with
  | some e =>
    if e.st = 3 && decide ((s.ctx cx).st = 1) && !brandBusy s cx b && mergerHere s e b &&
        e.waiter.elim true (fun w => releaseReady s w 4) then
      match firstCell s cx b with
      | some c => if owned s c.line e.parent then .next s else .next (applyCell s cx e.parent c)
      | none => .next s
    else .next s
  | none => .next s

end Sys2Proof.Machine
end

