-- ==== Sys2Proof/Machine/Fetch.lean ====
section
/-! DEFINITION. The words of a group's code (R60, R131, R145): translation of the image's pages and the clause they form. -/
namespace Sys2Proof.Machine

/-- The words of a spliced kernel, which the sequencer keeps (R145). -/
def splicedCode (s : State) (g : Group) : Option (List Word) := (s.grid? g.grid).bind (·.code)

/-- The pages that the code bytes at offset `pc` of a group's image touch; a fetch that is retried uses no entry that a translation
cache holds (R258). -/
def codeChunks (s : State) (g : Group) (pc n : Nat) : Chunks :=
  let s := if g.afresh then { s with mem := { s.mem with tlb := [] } } else s
  if (splicedCode s g).isSome then []
  else translateChunks s g.cx (objOf g.img) true ((List.range (4 * n)).map (offOf g.img + pc + ·))

/-- `n` words of a group's code from offset `pc`, or the pages that do not translate with their offsets. -/
def codeWords (s : State) (g : Group) (pc n : Nat) : Except (List (PageFault × Nat)) (List Word) :=
  match splicedCode s g with
  | some ws => .ok ((List.range n).map (fun i => (ws[(pc - 256) / 4 + i]?).getD 0))
  | none =>
    let cs := codeChunks s g pc n
    let offs := (List.range (4 * n)).map (offOf g.img + pc + ·)
    let fs := LaneAcc.faults cs
      { lane := 0, off := 0, vals := []
        units := [some { hdr := none, off := offOf g.img + pc, n := 4 * n, bit := 0, elem := 0, bytes := [] }] }
    if fs.isEmpty then .ok (wordsOfBytes (offs.map (fun o => readByte s g.cx 0 [] (cs.byte o)))) else .error fs

/-- An offset within the image's code (R183). -/
def Group.inCode (g : Group) (t : Int) : Bool := decide (256 ≤ t) && decide (t < g.codeEnd)

/-- Offsets of the first words of the instructions among the words from `off`; `skip` extension words come first. -/
def instrStarts : Nat → Nat → List Word → List Nat
  | _, _, [] => []
  | off, 0, w :: r => off :: instrStarts (off + 4) (extWords w) r
  | off, k + 1, _ :: r => instrStarts (off + 4) k r

/-- The header at offset `cla` with the starts of its instructions and the offset after its clause, where the bytes form
a clause; or the pages of it that do not translate, with their offsets. -/
def clauseAt (s : State) (g : Group) (cla : Nat) : Except (List (PageFault × Nat)) (Option (Header × List Nat × Nat)) :=
  match codeWords s g cla 1 with
  | .error fs => .error fs
  | .ok [] => .ok none
  | .ok (w :: _) =>
    match decodeHeader w with
    | none => .ok none
    | some h =>
      let n := h.len.toNat + 1
      match codeWords s g (cla + 4) n with
      | .ok ws => .ok (some (h, instrStarts (cla + 4) 0 ws, cla + 4 + 4 * n))
      | .error fs => .error fs

/-- The words left of a clause that the instruction at `pc` may take: one, or two where its first word asks for an
extension word that the clause still holds. -/
def wordsLeft (g : Group) (w : Word) : Nat := if extWords w ≠ 0 ∧ g.pc + 8 ≤ g.cend then 2 else 1

/-- The pages that a group's fetch does not translate: of a run's image header before its first clause, of the header at a clause
boundary (`edge`), or of the word at its program counter. -/
def fetchFaults (s : State) (g : Group) (edge : Bool) : List (PageFault × Nat) :=
  if g.outrider.isSome && decide (g.codeEnd = 0) then
    match seqBytes s g.cx g.img 128 with
    | .error f => [(f, offOf g.img)]
    | .ok _ => []
  else match codeWords s g g.pc 1 with
    | .error fs => fs
    | .ok ws =>
      if edge || wordsLeft g (ws.headD 0) = 1 then []
      else match codeWords s g g.pc 2 with
        | .error fs => fs
        | .ok _ => []

/-- A fetch that does not translate parks its group where it stands (R253, R174): `edge` at a clause boundary. -/
def parkFetch (s : State) (id : Nat) (g : Group) (edge : Bool) (fs : List (PageFault × Nat)) : State :=
  let o := originOf s g g.pc
  let (i, s) := s.take
  let op := { LongOp.blank with gid := id, cx := g.cx, core := g.core, kind := .fetch, left := g.exm, exm := g.exm, leave := edge
                                obj := o.1, ioff := o.2 }
  parkAt (s.setOp i op) id g (some i) (parkRecords g op 0 (objOf g.img) (pageRows [(0, fs)]))

/-- Words a run of an outrider executes (R156). -/
def outriderWord : Instr → Bool
  | .smov .. | .sadd .. | .ssub .. | .smul .. | .smulh .. | .smulhu .. | .sdivu .. | .sremu .. | .sand .. | .sor ..
  | .sxor .. | .snot .. | .sshl .. | .sshr .. | .ssar .. | .sclz .. | .smin .. | .smax .. | .sminu .. | .smaxu ..
  | .ssel .. | .spopc .. | .sbfx .. | .sbfi .. | .scmp .. | .smovi .. | .slui .. | .saddi .. | .sandi .. | .sori ..
  | .sxori .. | .scmpi .. | .mmov .. | .mand .. | .mor .. | .mxor .. | .mnot .. | .mpopc .. | .mffs .. | .mtos ..
  | .mfroms .. | .srd .. | .bra .. | .brc .. | .brcZ .. | .call .. | .ret .. | .winS .. | .syncf .. | .yieldW | .nop
  | .exit | .brk .. | .trap .. | .rft | .kld .. | .kmov .. | .knarrow .. | .kview .. | .kperm .. | .kfield .. | .kfieldW ..
  | .ldu ..
  | .fence .. | .spawn .. | .padClose .. | .sigAdd .. | .sigSet .. => true
  | .swr n _ => n ≠ 0x10
  | _ => false

end Sys2Proof.Machine
end

