-- ==== Sys2Proof/Machine/Control.lean ====
section
/-! DEFINITION. Control transfers (R66, R183-R189), divergence (R164-R168), windows (R185), waits (R186) and breakpoints
(R188). -/
namespace Sys2Proof.Machine

/-- A control transfer: it stands last in its clause, else ILLEGAL_CLAUSE (R66, R79). -/
def issueT (s : State) (u : Uses) (own : Group → Option Trap) (eff : State → Group → State) : Out :=
  match s.group? s.cur with
  | none => .next s
  | some g =>
    if g.pc + 4 ≠ g.cend then .next (takeTrap s s.cur g { cause := cIllegalClause })
    else issue s (fun _ => u) own eff

/-- The target of a branch: words from the clause's header (R66). -/
def Group.target (g : Group) (o : BitVec 17) : Int := g.cla + 4 * o.toInt

def outside (g : Group) (t : Int) : Option Trap := if g.inCode t then none else some { cause := cBounds }

/-- Held writes of ELIDE flushed at the closing branch of a body pass, whose pairs end with it (R147), then `k`. -/
def closingFlush (s : State) (id : Nat) (g : Group) (k : State → Group → State) : State :=
  let gr := s.grid? g.grid
  let close := gr.elim 0 (fun gr => (gr.sections.getD 5 (0, false)).1 - 4)
  if g.ties.isEmpty || decide (g.pc ≠ close) then k s g
  else
    let hs := g.ties.filter (·.elide)
    let s := flushTies id hs (s.setGroup id { g with ties := hs })
    match s.group? id with
    | some g' => if g'.status = .issuing then k s g' else s
    | none => s

/-- BRA (R183). -/
def execBra (o : BitVec 17) (s : State) : Out :=
  issueT s {} (fun g => outside g (g.target o)) (fun s g =>
    closingFlush s s.cur g (fun s g => s.setGroup s.cur (g.jump (g.target o).toNat)))

/-- BRC and BRC.Z (R183). -/
def branchIf (r : BitVec 7) (o : BitVec 17) (c : Word → Bool) (s : State) : Out :=
  issueT s { sc := [r.toNat] } (fun g => outside g (g.target o)) (fun s g =>
    closingFlush s s.cur g (fun s g => s.setGroup s.cur (g.jump (if c (g.rdS r) then (g.target o).toNat else g.cend))))

def execBrc (r : BitVec 7) (o : BitVec 17) (s : State) : Out := branchIf r o (fun v => decide (v ≠ 0)) s
def execBrcZ (r : BitVec 7) (o : BitVec 17) (s : State) : Out := branchIf r o (fun v => decide (v = 0)) s

/-- CALL: S[n] is the offset of the header after the clause (R183). -/
def execCall (r : BitVec 7) (o : BitVec 17) (s : State) : Out :=
  issueT s { sc := [r.toNat] } (fun g => outside g (g.target o)) (fun s g =>
    s.setGroup s.cur ((g.wrS r (BitVec.ofNat 32 g.cend)).jump (g.target o).toNat))

/-- RET (R183). -/
def execRet (r : BitVec 7) (s : State) : Out :=
  issueT s { sc := [r.toNat] }
    (fun g => if (g.rdS r).toNat % 4 ≠ 0 then some { cause := cIllegalClause } else outside g (g.rdS r).toNat)
    (fun s g => s.setGroup s.cur (g.jump (g.rdS r).toNat))

/-! Divergence. -/

def Group.joinCount (g : Group) (j : Nat) : Nat := sget 0 g.J j
def emptyHold : Hold := { hp := 0, ha := 0, after := 0 }
def Group.hold (g : Group) (j : Nat) : Hold := sget emptyHold g.holds j
def Group.setHold (g : Group) (j : Nat) (h : Hold) : Group := { g with holds := sset emptyHold g.holds j h }

/-- BRV: the side with more lanes stays, the taken side on equal counts; the other is ejected (R165). -/
def Group.split (g : Group) (j : Nat) (m : Lanes) (target : Nat) : Group :=
  let tk := g.exm &&& m
  let nt := g.exm &&& ~~~m
  if tk = 0 then g.jump g.cend
  else if nt = 0 then g.jump target
  else
    let takenStays : Bool := popcount nt ≤ popcount tk
    let c : Cont := { pc := if takenStays then g.cend else target, mask := if takenStays then nt else tk, j := j,
                      inHandler := g.ih }
    let g' := { g with conts := c :: g.conts, pth := g.pth &&& ~~~c.mask, exm := if takenStays then tk else nt
                       J := sset 0 g.J j (g.joinCount j + 1) }
    g'.jump (if takenStays then target else g.cend)

def execBrv (j : BitVec 3) (m : BitVec 4) (o : BitVec 17) (s : State) : Out :=
  issueT s { msk := [m] } (fun g => outside g (g.target o)) (fun s g =>
    closingFlush s s.cur g (fun s g => s.setGroup s.cur (g.split j.toNat (g.rdM m) (g.target o).toNat)))

/-- JOIN: an arrival that requests a re-entry, or the merge of every side that has arrived (R166). -/
def Group.join (g : Group) (j : Nat) : Group :=
  let h := g.hold j
  match (if g.joinCount j = 0 then none else g.conts.find? (fun c => decide (c.j = j))) with
  | some c =>
    let h' : Hold := { hp := h.hp ||| g.pth, ha := h.ha ||| g.exm, after := if h.hp = 0 then g.cend else h.after }
    { ((g.setHold j h').jump c.pc) with pth := 0, exm := 0, reenter := some c }
  | none => ({ (g.setHold j emptyHold) with pth := g.pth ||| h.hp, exm := g.exm ||| h.ha }).jump g.cend

def execJoin (j : BitVec 3) (s : State) : Out :=
  issueT s {} (fun _ => none) (fun s g => s.setGroup s.cur (g.join j.toNat))

/-- The path a group takes once PTH is empty (R167): a continuation, else the lanes of a hold record; none ends it. -/
def Group.nextPath (g : Group) : Option Cont :=
  match g.conts with
  | c :: _ => some c
  | [] =>
    ((List.range 8).find? (fun j => decide ((g.hold j).hp ≠ 0))).map (fun j =>
      { pc := (g.hold j).after, mask := (g.hold j).hp, j := j, inHandler := false })

/-- A matrix data fault due for report is taken (R333); none where none is due. -/
def takeDataFault (s : State) (id : Nat) (g : Group) (due : DataFault → Bool) : Option State :=
  (g.dfaults.find? due).map (fun d =>
    takeTrap s id { g with dfaults := g.dfaults.erase d } { cause := d.cause, lanes := some d.lanes })

/-- EXIT (R187, R176). -/
def exitGroup (s : State) (g : Group) : State :=
  let live := g.live &&& ~~~g.exm
  let g := { g with live := live }
  if g.ih || g.outrider.isSome then endGroup (s.setGroup s.cur g) s.cur
  else
    let pth := g.pth &&& ~~~g.exm
    if pth ≠ 0 then s.setGroup s.cur (({ g with pth := pth, exm := pth }).jump g.cend)
    else match g.nextPath with
      | some c => s.setGroup s.cur { (g.jump c.pc) with pth := 0, exm := 0, reenter := some c }
      | none => endGroup (s.setGroup s.cur { g with pth := 0, exm := 0 }) s.cur

def execExit (s : State) : Out :=
  match s.group? s.cur with
  | none => .next s
  | some g =>
    if g.pc + 4 ≠ g.cend then .next (takeTrap s s.cur g { cause := cIllegalClause })
    else
      match (if g.ih || decide (g.live &&& ~~~g.exm = 0) then takeDataFault s s.cur g (fun _ => true) else none) with
      | some s' => .next s'
      | none => .next (exitGroup s g)

/-- The re-entry a group has asked for (R166-R168). -/
def Group.reenterPath (g : Group) (c : Cont) : Group :=
  if g.conts.contains c then
    { g with conts := g.conts.erase c, J := sset 0 g.J c.j (g.joinCount c.j - 1), pth := c.mask, exm := c.mask
             pc := c.pc, reenter := none }
  else
    { (g.setHold c.j emptyHold) with pth := (g.hold c.j).hp, exm := (g.hold c.j).ha, pc := c.pc, reenter := none }

/-- An outrider serves its cluster between the clauses of a run and while it is idle, stalled or parked (R157, R158). -/
def outriderFree (s : State) (c : Nat) : Bool :=
  match (sget Outrider.idle s.k.outriders c).run with
  | none => true
  | some r => (s.group? r).elim true (fun g => decide (g.status ≠ .issuing))

/-- CONTINUATION_REENTRY on cluster `c` (R168): the first group that asks. -/
def execContinuationReentry (c : Nat) (s : State) : Out :=
  if outriderFree s c then
    match s.k.groups.find? (fun e => e.2.outrider.isNone && decide (Config.clusterOf e.2.core = c) &&
        e.2.reenter.isSome && !e.2.saved && decide ((s.ctx e.2.cx).st = 1) && decide (e.2.status = .boundary)) with
    | some (id, g) =>
      match g.reenter with
      | some k => .next (s.setGroup id (g.reenterPath k))
      | none => .next s
    | none => .next s
  else .next s

/-! The other control instructions. -/

def execNop (s : State) : Out := issueG s {} (fun g => g.adv 1)

/-- WIN.V (R185): the base from the next clause on. -/
def execWinV (n : BitVec 17) (s : State) : Out :=
  issue s (fun _ => {})
    (fun g => if decide (g.nregs ≤ 16 * n.toNat) then some { cause := cWindowRange } else none)
    (fun s g => s.setGroup s.cur (({ g with nbv := 16 * n.toNat }).adv 1))

def execWinS (n : BitVec 17) (s : State) : Out :=
  issue s (fun _ => {})
    (fun g => if decide (g.sblk ≤ n.toNat) then some { cause := cWindowRange } else none)
    (fun s g => s.setGroup s.cur (({ g with nbs := 128 * n.toNat }).adv 1))

/-- SYNCF stalls until every named flag is clear (R186). -/
def execSyncf (f : BitVec 12) (s : State) : Out :=
  issue s (fun _ => {}) (fun _ => none) (fun s g =>
    s.setGroup s.cur (if g.clearOf f then g.adv 1 else g.stall (.syncf f)))

/-- YIELD (R187). -/
def execYieldW (s : State) : Out :=
  issueT s {} (fun _ => none) (fun s g => s.setGroup s.cur { (g.jump g.cend) with age := 0, yielding := true })

/-- BRK parks the group with a breakpoint record (R188, R254). -/
def execBrk (c : BitVec 16) (s : State) : Out :=
  issue s (fun _ => {}) (fun _ => none) (fun s g =>
    let o := originOf s g g.pc
    let (i, s) := s.take
    let s := s.setOp i { LongOp.blank with gid := s.cur, cx := g.cx, core := g.core, kind := .brk, left := g.exm
                                           obj := o.1, ioff := o.2, exm := g.exm }
    parkAt s s.cur g.counted (some i)
      [faultRec true false 6 g.cx 0 0 0 (if g.outrider.isSome then 0 else g.exm) o.1 o.2 g.coreField
        (if g.outrider.isSome then 0 else g.slice) c.toNat cBreakpoint])

/-- TRAP (R188). -/
def execTrap (c : BitVec 16) (s : State) : Out :=
  issueT s {} (fun _ => some { cause := cTrap, code := c }) (fun s _ => s)

/-- Where RFT resumes (R189): a clause boundary, or within the clause at FCLA; none for ILLEGAL_CLAUSE. The words of that
clause are fetched for it, and pages of them that do not translate are named (R249, R253). -/
def rftResume (s : State) (g : Group) : Except (List (PageFault × Nat)) (Option Group) :=
  if g.fres = g.fcla then .ok (leaveHandler g [] 0 { len := 0, wait := 0, seta := 0, setb := 0, yld := false })
  else match clauseAt s g g.fcla.toNat with
    | .ok (some (h, starts, after)) => .ok (leaveHandler g starts after h)
    | .ok none => .ok none
    | .error fs => .error fs

/-- The causes of RFT (R176, R183, R189); no clause stands at an FCLA that is no multiple of 4 (DEDUCED,
notes/assumptions/144.md). -/
def rftTrap (s : State) (g : Group) : Option Trap :=
  if !g.ih || g.conts.any (·.inHandler) || decide (g.fcla.toNat % 4 ≠ 0) then some { cause := cIllegalClause }
  else match rftResume s g with
    | .ok none => some { cause := cIllegalClause }
    | .ok (some g') => outside g g'.pc
    | .error _ => none

/-- RFT (R189). It parks for a page of the clause at FCLA and is tried again (R253). -/
def execRft (s : State) : Out :=
  issueT s {} (rftTrap s) (fun s g => match rftResume s g with
    | .ok (some g') => s.setGroup s.cur g'
    | .ok none => s
    | .error fs => parkFetch s s.cur g false fs)

end Sys2Proof.Machine
end

