-- ==== Sys2Proof/Machine/Convert.lean ====
section
/-! DEFINITION. Conversions between element formats (R240), blocks (R49, R51) and plane slabs (R56, R312-R314). -/
namespace Sys2Proof.Machine

/-- A malformed element as its readers take it: the default NaN of the destination, with NV (R48, R314). -/
def badElem : FV := .nan false false 0

/-- An element's value with a malformed one as a NaN. -/
def elemVal (r : Rec) (e hdr code : Nat) : FV := (elemValue r.fmt hdr r.sce (r.dither e) code).getD badElem

/-! Blocks of integers under one exponent (R312). -/

def isSpecial (v : FV) : Bool := v.isNaN || v.isInf

/-- `Round(x / 2^(E-127), RNE)` of a finite value, and whether it is inexact. -/
def roundScaled (E : Nat) : FV → Int × Bool
  | .fin n m e =>
    let (q, i) := roundMag .rne n m ((E : Int) - 127 - e) false
    (if n then -(q : Int) else q, i)
  | _ => (0, false)

/-- The rule of R312: the exponent, the integers (0 for a special value) and the flags, from natural exponent `e0`. -/
def fitBlock (W e0 : Nat) (xs : List FV) : Nat × List Int × FFlags :=
  let fits (E : Nat) : Bool := xs.all (fun x =>
    let q := (roundScaled E x).1
    decide (qlo W ≤ q) && decide (q ≤ qhi W))
  let E := leastExp e0 fits
  let one (x : FV) : Int × FFlags :=
    let (q, i) := roundScaled E x
    let c := max (qlo W) (min (qhi W) q)
    (c, if isSpecial x then 0 else
      (if i || c ≠ q then fNX else 0) ||| (if c ≠ q then fOF else 0) ||| (if c = 0 && !x.isZero then fUF else 0))
  let cs := xs.map one
  (E, cs.map (·.1), cs.foldl (fun f c => f ||| c.2) 0)

/-- A column block of a slab of `P` planes (R314): the exponent byte, which is the starting one where no element is
finite, the 32 integers and the flags. -/
def slabColumn (P e0 : Nat) (xs : List FV) : Nat × List Int × FFlags :=
  let (E, as, fl) := fitBlock P e0 xs
  let ys := (xs.zip as).map (fun e => match e.1 with
    | .nan _ _ _ => 0
    | .inf n => if n then qlo P else qhi P
    | .fin _ _ _ => e.2)
  (if xs.all isSpecial then e0 else E, ys, if xs.any isSpecial then fl ||| fNV else fl)

/-- Bit `i` of plane `p` of a column, as the plane's 32-bit word (R56). -/
def planeWord (p : Nat) (bs : List Int) : Nat :=
  (bs.zipIdx).foldl (fun w e => if (BitVec.ofInt 32 e.1).getLsbD p then w + 2 ^ e.2 else w) 0

/-- The integer of a column element from its plane bits (R56). -/
def planeInt (P : Nat) (bits : Nat) : Int := signExt bits P

/-! Elements of an engine operation: the destination element, the source element (none: reads 0), and the row's lane. -/

structure Pair where
  dst : Nat
  src : Option Nat
  deriving DecidableEq, Repr

/-- The source element at canonical coordinates c, by the source's bounds mode (R225, R240): `none` for BOUNDS. -/
def srcElem (r : Rec) (c : Nat → Int) : Option (Option Nat) :=
  let rel (j : Nat) : Int := c j - r.org j
  let inR (j : Nat) : Bool := decide (0 ≤ rel j) && decide (rel j < r.csize j)
  let at_ (f : Nat → Nat) : Nat := r.index (f (r.pi 0)) (f (r.pi 1)) (f (r.pi 2))
  if inR 0 && inR 1 && inR 2 then some (some (at_ (fun j => (rel j).toNat)))
  else match r.bnd with
    | 0 => none
    | 1 => some (some (at_ (fun j => (max 0 (min ((r.csize j - 1 : Nat) : Int) (rel j))).toNat)))
    | _ => some none

/-- The pairs of an XCOPY or QREKEY of `n` elements (R240, R241). -/
def copyPairs (d src : Rec) (n : Nat) : Option (List Pair) :=
  (List.range n).mapM (fun e => (srcElem src (fun j => d.coord e j)).map (fun x => { dst := e, src := x : Pair }))

/-- The pairs of an XGATH: row r of the source to row l of the destination, for each (l, r) (R242). -/
def gatherPairs (d src : Rec) (rows : List (Nat × Nat)) : Option (List Pair) :=
  (rows.mapM (fun (lr : Nat × Nat) => (List.range (d.csize 0)).mapM (fun i =>
    let f (j : Nat) : Nat := match j with
      | 0 => i
      | 1 => lr.1
      | _ => 0
    (srcElem src (fun j => match j with
      | 0 => (src.org 0 + i : Nat)
      | 1 => (src.org 1 + lr.2 : Nat)
      | _ => (src.org 2 : Nat))).map (fun x =>
        { dst := d.index (f (d.pi 0)) (f (d.pi 1)) (f (d.pi 2)), src := x : Pair })))).map List.flatten

/-! Bytes of an element of a plane slab (R56). -/

/-- The exponent byte and the plane words of element (column n, row k) of a slab record: object byte offsets. -/
def slabExp (r : Rec) (n k : Nat) : Nat := r.base + k / 32 * r.slab + n
def slabWord (r : Rec) (n k p : Nat) : Nat := r.base + k / 32 * r.slab + 256 * (p + 1) + 4 * n

/-- The bytes an element is read from: header or exponent byte first. -/
def srcOffs (r : Rec) (e : Nat) : List Nat :=
  if r.lay = 6 then
    let (n, k, _) := r.pos e
    slabExp r n k :: (List.range r.planes).map (fun p => slabWord r n k p + k % 32 / 8)
  else (r.unit e).offs

/-- The value of a slab element from the bytes of `srcOffs`. -/
def slabVal (r : Rec) (e : Nat) (bs : List Byte) : FV :=
  let k := (r.pos e).2.1
  let bits := (bs.drop 1).zipIdx.foldl (fun v b => if b.1.getLsbD (k % 8) then v + 2 ^ b.2 else v) 0
  if bs.headD 0 = 0xFF then badElem
  else (FV.ofInt (planeInt r.planes bits)).scale (((bs.headD 0).toNat : Int) - 127)

/-- An element read from the bytes of `srcOffs`: its header or exponent and its code. -/
def srcParts (r : Rec) (e : Nat) (bs : List Byte) : Nat × Nat :=
  let u := r.unit e
  let hn := if u.hdr.isSome then 2 else 0
  (natOfBytes (bs.take hn), bitsOf (natOfBytes (bs.drop hn)) u.bit (fmtBits r.fmt))

def srcVal (r : Rec) (e : Nat) (bs : List Byte) : FV :=
  if r.lay = 6 then slabVal r e bs else let p := srcParts r e bs; elemVal r e p.1 p.2

/-- `Convert` of one element into a format that is neither a block format nor a slab (R240, R241). -/
def convert (d src : Rec) (rekey : Bool) (p : Pair) (bs : List Byte) : Nat × FFlags :=
  let quant (v : FV) : Nat × FFlags := elemCode d.fmt d.sce (d.dither p.dst) .rne v
  -- equal formats, or one code under one key and scale: the bits, those of an element that reads as 0 being 0
  let same : Bool := src.lay ≠ 6 && !rekey && d.fmt = src.fmt
  match p.src with
  | none => if same then (0, 0) else quant (.fin false 0 0)
  | some e =>
    if same then ((srcParts src e bs).2, 0)
    else
      let v := srcVal src e bs
      let (c, f) := quant v
      (c, if v = badElem then f ||| fNV else f)

/-- The natural exponent of source elements (R312, R314), 255 where none has a finite value's exponent. -/
def naturalExp (r : Rec) (hdrs : List Nat) : Nat :=
  if r.lay = 6 then hdrs.foldl min 255
  else if isInt r.fmt then 127
  else if isAQ r.fmt then hdrs.foldl (fun m h => min m (bitsOf h 0 8)) 255
  else if isPB r.fmt then hdrs.foldl (fun m h => min m (min (bitsOf h 0 8) (bitsOf h 8 8))) 255
  else if isD r.fmt then r.sce - 3
  else 0

end Sys2Proof.Machine
end

