-- ==== Sys2Proof/Machine/Govern.lean ====
section
/-! DEFINITION. Leave of the power governors (R390, R391), the memory-service requests of engines and reins (R354), and which
contexts run. -/
namespace Sys2Proof.Machine

/-- A context whose work runs (R104). -/
def State.active (s : State) (cx : Nat) : Bool := decide ((s.ctx cx).st = 1)

/-- A context whose work in progress goes on: to its next boundary where it is pre-empted or faulted (R105, R108). -/
def State.draining (s : State) (cx : Nat) : Bool :=
  decide ((s.ctx cx).st = 1) || decide ((s.ctx cx).st = 2) || decide ((s.ctx cx).st = 4)

/-! Leave. -/

def lvmaxOf (s : State) : Nat := s.care.conf.elim 0 (·.lvmax)
def lvnearOf (s : State) : Nat := s.care.conf.elim 0 (·.lvnear)

/-- The governor of a die can grant (R390). -/
def canGrant (s : State) (die : Nat) : Bool :=
  decide ((heldGrants s die).length < lvmaxOf s) && decide (s.care.withhold = 0)

/-- A die is near its budget (R391); 100 µs are 100 samples of R392. -/
def nearBudget (s : State) (die : Nat) : Bool :=
  decide (lvnearOf s ≤ (heldGrants s die).length) || decide (0 < s.care.withhold) ||
    decide (0 < s.care.sinceWithheld)

/-- Agent `who` (a group, loop or operation) asks for leave, or holds it already. -/
def askLeave (s : State) (die who : Nat) : State :=
  if (heldGrants s die).contains who || (waitingGrants s die).contains who then s
  else if (waitingGrants s die).isEmpty && canGrant s die then
    setGrants s die (heldGrants s die ++ [who]) (waitingGrants s die)
  else setGrants s die (heldGrants s die) (waitingGrants s die ++ [who])

def hasLeave (s : State) (die who : Nat) : Bool := (heldGrants s die).contains who

/-- A grant passes from a group to what it started. -/
def moveLeave (s : State) (die a b : Nat) : State :=
  setGrants s die ((heldGrants s die).map (fun x => if x = a then b else x)) (waitingGrants s die)

/-- The slot of pipe `p`, or with `p` = 4 the engine cycle, of a core that comes now is one of the w of each 16 in which
the limiter withholds (R392). -/
def withheld (s : State) (co p : Nat) : Bool :=
  decide (s.care.withhold ≠ 0) &&
    decide ((sget 0 (s.core co).slots p + Config.withholdFrom s.care.withhold) % 16 < s.care.withhold)

/-- The slot is counted while the limiter withholds. -/
def countSlot (s : State) (co p : Nat) : State :=
  if s.care.withhold = 0 then s
  else s.setCore co { (s.core co) with slots := supd 0 (s.core co).slots p (fun n => (n + 1) % 16) }

/-- LEAVE_GRANT: the oldest waiting request of a die (R390). -/
def execLeaveGrant (die : Nat) (s : State) : Out :=
  match waitingGrants s die with
  | w :: r => if canGrant s die then .next (setGrants s die (heldGrants s die ++ [w]) r) else .next s
  | [] => .next s

end Sys2Proof.Machine
end

