-- ==== Sys2Proof/Machine/Copy.lean ====
section
/-! DEFINITION. The copy and gather engines (R238-R242): XCOPY, QREKEY and XGATH, the ownership of their destination lines
(R278), and each line's writes (R279, R280). -/
namespace Sys2Proof.Machine

/-! The units an engine writes. -/

/-- What an engine converts and writes as a whole: an element, a block at a byte offset, a column block of a slab, or
granule `i` of a raw copy. -/
inductive EUnit where
  | elem (p : Pair)
  | block (off : Nat) (ps : List Pair)
  | column (n j : Nat) (ps : List Pair)
  | raw (i : Nat)
  deriving DecidableEq, Repr

/-- Values collected under their keys, keys in order of first appearance. -/
def groupBy (key : Pair → Nat) (ps : List Pair) : List (Nat × List Pair) :=
  ps.foldl (fun acc p =>
    if acc.any (fun e => decide (e.1 = key p)) then
      acc.map (fun e => if e.1 = key p then (e.1, e.2 ++ [p]) else e)
    else acc ++ [(key p, [p])]) []

/-- The units of paired elements, by the destination's format and storage order. -/
def unitsOf (d : Rec) (ps : List Pair) : List EUnit :=
  if d.lay = 6 then
    (groupBy (fun p => let (n, k, _) := d.pos p.dst; k / 32 * 65536 + n) ps).map (fun e =>
      .column (e.1 % 65536) (e.1 / 65536) e.2)
  else if blockBytes d.fmt ≠ 0 then
    (groupBy (fun p => (d.unit p.dst).hdr.getD 0) ps).map (fun e => .block e.1 e.2)
  else ps.map .elem

/-- The object offsets a unit writes, the first of its bytes first. -/
def EUnit.offs (d : Rec) : EUnit → List Nat
  | .elem p => (d.unit p.dst).offs
  | .block o _ => (List.range (blockBytes d.fmt)).map (o + ·)
  | .column n j _ =>
    slabExp d n (32 * j) :: (List.range d.planes).flatMap (fun p =>
      (List.range 4).map (fun i => slabWord d n (32 * j) p + i))
  | .raw i => (List.range 32).map (fun b => d.base + 32 * i + b)

def EUnit.pairs : EUnit → List Pair
  | .elem p => [p]
  | .block _ ps | .column _ _ ps => ps
  | .raw _ => []

/-- The object offsets a unit reads. -/
def EUnit.reads (src : Rec) : EUnit → List Nat
  | .raw i => (List.range 32).map (fun b => src.base + 32 * i + b)
  | .elem p => p.src.elim [] (srcOffs src)
  | .block _ ps | .column _ _ ps => ps.flatMap (fun p => p.src.elim [] (srcOffs src))

/-- A unit placed by its first byte among units in ascending order. -/
def insertUnit (d : Rec) (u : EUnit) : List EUnit → List EUnit
  | [] => [u]
  | v :: r => if (u.offs d).headD 0 < (v.offs d).headD 0 then u :: v :: r else v :: insertUnit d u r

/-- The units of an operation in ascending order of their first bytes; none for BOUNDS of the source. -/
def engineUnits (kind : OpKind) (d src : Rec) (n : Nat) (rows : List (Nat × Nat)) : Option (List EUnit) :=
  match kind with
  | .raw => some ((List.range n).map .raw)
  | .gather => (gatherPairs d src rows).map (fun ps => (unitsOf d ps).foldr (insertUnit d) [])
  | _ => (copyPairs d src n).map (fun ps => (unitsOf d ps).foldr (insertUnit d) [])

/-! Places. -/

/-- The place of a byte of record `r` for an operation, by its captured pages. -/
def engineByte (s : State) (op : LongOp) (r : Rec) (off : Nat) : PByte :=
  if r.special then
    match s.group? op.gid with
    | some g => { loc := { sp := (coreStore s op.gid g r.obj).1, a := off }, wp := false, brd := false, det := 0 }
    | none => { loc := { sp := .phys, a := 0 }, wp := true, brd := false, det := 0 }
  else
    match op.pmap.find? (fun t => t.covers r.obj off) with
    | some t => t.byte off
    | none => { loc := { sp := .phys, a := 0 }, wp := true, brd := false, det := 0 }

/-- The place a source byte is read from. -/
def srcPlace (s : State) (op : LongOp) (off : Nat) : Loc := (resolve s op.cx op.brand2 (engineByte s op op.rec2 off)).2

/-- A source byte, from before the operation where the operation has overwritten it (R239). -/
def srcByte (s : State) (op : LongOp) (off : Nat) : Byte :=
  let l := srcPlace s op off
  match op.pre.find? (fun e => decide (e.1 = l)) with
  | some e => e.2.1
  | none => readAt s op.cx op.pgot l

def srcBytes (s : State) (op : LongOp) (offs : List Nat) : List Byte := offs.map (srcByte s op)

/-! Conversion of a unit. -/

/-- A number placed in the bytes at `offs` under a mask. -/
def placed (s : State) (op : LongOp) (offs : List Nat) (v m : Nat) : List (PByte × Byte × Byte) :=
  ((offs.map (engineByte s op op.rec1)).zip ((bytesOfNat offs.length v).zip (bytesOfNat offs.length m)))

/-- The header and codes of a destination block: the bits of the source's elements where the formats are equal (R240),
else encoded by R49 or R51. -/
def blockParts (s : State) (op : LongOp) (o : Nat) (ps : List Pair) : Nat × List Nat × FFlags :=
  let d : Rec := op.rec1
  let src : Rec := op.rec2
  let w := fmtBits d.fmt
  let read (p : Pair) : Option (Nat × Nat × FV) := p.src.map (fun e =>
    let bs := srcBytes s op (srcOffs src e)
    let x := srcParts src e bs
    (x.1, x.2, srcVal src e bs))
  let rs := ps.map read
  if d.fmt = src.fmt then
    let hs := (rs.filterMap (fun r => r.map (·.1))).eraseDups
    (match hs with
      | [] => 0
      | [h] => h
      | _ => Config.mixedHeader o hs % 2 ^ 16, rs.map (fun r => r.elim 0 (fun r => r.2.1)), 0)
  else
    let xs := rs.map (fun r => r.elim (FV.fin false 0 0) (fun r => r.2.2))
    let (h, cs, f) := if isPB d.fmt then pbEncode w .rne xs else aqEncode w .rne xs
    (h, cs, if xs.contains badElem then f ||| fNV else f)

/-- The bytes and flags of one unit (R240, R241, R226). -/
def unitWrite (s : State) (op : LongOp) (u : EUnit) : List (PByte × Byte × Byte) × FFlags :=
  let d : Rec := op.rec1
  let src : Rec := op.rec2
  match u with
  | .raw _ => (((u.offs d).zip (srcBytes s op (u.reads src))).map (fun e => (engineByte s op d e.1, e.2, 0xFF)), 0)
  | .elem p =>
    let (c, f) := convert d src (decide (op.kind = .rekey)) p (srcBytes s op (p.src.elim [] (srcOffs src)))
    let x := d.unit p.dst
    let w := fmtBits d.fmt
    (placed s op x.offs (c % 2 ^ w * 2 ^ x.bit) ((2 ^ w - 1) * 2 ^ x.bit), f)
  | .block o ps =>
    let (h, cs, f) := blockParts s op o ps
    let w := fmtBits d.fmt
    let at_ := ps.zip cs
    -- a copy of bits leaves the codes it does not name
    let code (i : Nat) : Nat × Nat := match at_.find? (fun e => decide ((d.pos e.1.dst).1 % 32 = i)) with
      | some e => (e.2 % 2 ^ w, 2 ^ w - 1)
      | none => if d.fmt = src.fmt then (0, 0) else (Config.padCode o i % 2 ^ w, 2 ^ w - 1)
    let all (f : Nat × Nat → Nat) (h : Nat) : Nat := (List.range 32).foldl (fun v i => v + f (code i) * 2 ^ (16 + w * i)) h
    (placed s op (u.offs d) (all (·.1) h) (all (·.2) 0xFFFF), f)
  | .column n j ps =>
    let parts := ps.map (fun p => p.src.map (fun e =>
      let bs := srcBytes s op (srcOffs src e)
      (if src.lay = 6 then (bs.headD 0).toNat else (srcParts src e bs).1, srcVal src e bs)))
    let e0 := naturalExp src (parts.filterMap (fun x => x.map (·.1)))
    let (E, ys, f) := slabColumn d.planes e0 (parts.map (fun x => x.elim (FV.fin false 0 0) (·.2)))
    let words := (List.range d.planes).flatMap (fun p =>
      placed s op ((List.range 4).map (fun i => slabWord d n (32 * j) p + i)) (planeWord p ys) (2 ^ 32 - 1))
    (placed s op [slabExp d n (32 * j)] E 0xFF ++ words, f)

/-! Checks at issue (R224, R232, R240-R242). -/

/-- What an XCOPY, QREKEY or XGATH is: its kind once its records are known. -/
def engineKind (base : OpKind) (d src : Rec) : OpKind :=
  match base with
  | .copy => if d.right 4 && src.right 4 then .raw else .copy
  | k => k

/-- Every element of an encoded destination block within the record is written (R240). -/
def blocksWhole (d src : Rec) (us : List EUnit) : Bool :=
  d.fmt = src.fmt || us.all (fun u => match u with
    | .block _ ps => match ps.head? with
      | some p => decide (ps.length = min 32 (d.size 0 - (d.pos p.dst).1 / 32 * 32))
      | none => true
    | _ => true)

/-- BOUNDS of an engine operation: the units it writes, or none. A raw copy is bound by the extents alone, whatever its bases
(DEDUCED, notes/assumptions/31.md). -/
def engineBounds (s : State) (id : Nat) (g : Group) (kind : OpKind) (d src : Rec) (n : Nat) (rows : List (Nat × Nat)) :
    Option (List EUnit) :=
  let sized : Bool := match kind with
    | .raw => decide (32 * n ≤ d.extent) && decide (32 * n ≤ src.extent)
    | .gather => decide (d.csize 0 ≤ src.csize 0) && rows.all (fun r => decide (r.1 < d.csize 1))
    | _ => decide (n ≤ d.count) && (d.lay ≠ 6 || decide (n % (32 * d.size 0) = 0))
  if !sized then none
  else match engineUnits kind d src n rows with
    | none => none
    | some us =>
      let inside (r : Rec) (offs : List Nat) : Bool :=
        !r.special || offs.all (fun o => decide (o < (coreStore s id g r.obj).2))
      if blocksWhole d src us && inside d (us.flatMap (EUnit.offs d)) && inside src (us.flatMap (EUnit.reads src)) then
        some us
      else none

/-- The first cause of an engine instruction, in the order of R232. -/
def engineCause (s : State) (id : Nat) (g : Group) (base : OpKind) (d src : Rec) (n : Nat) (rows : List (Nat × Nat)) :
    Option Cause :=
  let kind := engineKind base d src
  let badRec : Bool := match kind with
    | .raw => false
    | .rekey => !isD d.fmt || !isD src.fmt
    | .gather => d.lay = 6 || src.lay = 6 || decide (d.csize 2 ≠ 1) || decide (src.csize 2 ≠ 1)
    | _ => src.lay = 6 && d.lay ≠ 6
  let dither : Bool := match kind with
    | .copy => isD d.fmt && isD src.fmt && (decide (d.key ≠ src.key) || decide (d.sce ≠ src.sce))
    | .gather => isD d.fmt && isD src.fmt
    | _ => false
  if !d.wf || !src.wf || badRec then some cRecordInvalid
  else if !src.right 0 || !d.right 1 then some cRights
  else if dither then some cDitherMap
  else if kind ≠ .raw && !(s.brandLive g.cx (d.effBrand g.brd) && s.brandLive g.cx (src.effBrand g.brd)) then
    some cBrandInvalid
  else if (engineBounds s id g kind d src n rows).isNone then some cBounds
  else none

/-! Translation at issue (R238). -/

/-- The pages of an operation's records that do not translate, each once, by ascending offset, the source first. -/
def engineFaults (op : LongOp) (us : List EUnit) (cd cs : Chunks) : List (PageFault × Nat × Bool) :=
  let one (dst : Bool) (r : Rec) (offs : List Nat) (c : Chunks) : List (PageFault × Nat × Bool) :=
    if r.special then []
    else (LaneAcc.faults c (.ofOffs offs)).map
      (fun e => (e.1, e.2, dst))
  let all := one false op.rec2 (us.flatMap (EUnit.reads op.rec2)) cs ++ one true op.rec1 (us.flatMap (EUnit.offs op.rec1)) cd
  let ins (x : PageFault × Nat × Bool) (l : List (PageFault × Nat × Bool)) : List (PageFault × Nat × Bool) :=
    let (a, b) := l.span (fun y => decide (y.2.1 ≤ x.2.1))
    a ++ x :: b
  let sorted := all.foldl (fun l x => ins x l) []
  let objOf (x : PageFault × Nat × Bool) : Nat := Rec.obj (if x.2.2 then op.rec1 else op.rec2)
  sorted.foldl (fun l x =>
    if l.any (fun y => decide (objOf y = objOf x) && decide (y.2.1 / pageSize y.1.lg = x.2.1 / pageSize x.1.lg)) then l
    else l ++ [x]) []

/-- The records of an engine park. -/
def engineRecords (g : Group) (op : LongOp) (rows : List (PageFault × Nat × Bool)) : List (BitVec 256) :=
  rows.zipIdx.map (fun e =>
    let x := e.1
    faultRec (decide (e.2 + 1 = rows.length)) x.1.mq op.kindCode op.cx (if x.2.2 then op.brand else op.brand2)
      (Rec.obj (if x.2.2 then op.rec1 else op.rec2)) x.2.1 op.exm op.obj op.ioff g.coreField g.slice 0 x.1.cause)

/-- The destination lines of an operation, in the order in which it writes them. -/
def engineLines (s : State) (op : LongOp) (us : List EUnit) : List LineJob :=
  (us.flatMap (EUnit.offs op.rec1)).foldl (fun (l : List LineJob) o =>
    let p := engineByte s op op.rec1 o
    if l.any (fun j => decide (j.line = p.loc.line)) then l
    else l ++ [{ line := p.loc.line, brd := p.brd, stage := 0 }]) []

def OpKind.isGather : OpKind → Bool
  | .gather => true
  | _ => false

/-- Bytes of the destination that an XGATH writes (R242). -/
def gatherBytes (d : Rec) (us : List EUnit) : Nat := ((us.flatMap (EUnit.offs d)).eraseDups).length

/-- An engine operation joins its engine's queue (R238). -/
def enqueueEngine (s : State) (opid : Nat) (op : LongOp) : State :=
  let c := s.core op.core
  s.setCore op.core (if op.kind.isGather then { c with gathQ := c.gathQ.filter (· ≠ opid) ++ [opid] }
    else { c with copyQ := c.copyQ.filter (· ≠ opid) ++ [opid] })

def dequeueEngine (s : State) (opid : Nat) (op : LongOp) : State :=
  let c := s.core op.core
  s.setCore op.core { c with copyQ := c.copyQ.filter (· ≠ opid), gathQ := c.gathQ.filter (· ≠ opid) }

/-- The units of an operation as it was issued. -/
def LongOp.units (op : LongOp) : List EUnit := (engineUnits op.kind op.rec1 op.rec2 op.count op.rows).getD []

/-- Whether an XGATH needs leave (R242). -/
def LongOp.needsLeave (op : LongOp) : Bool := op.kind.isGather && decide (65536 ≤ gatherBytes op.rec1 op.units)

/-- The translation of the pages that an engine operation touches: its destination's and its source's (R238). -/
def enginePages (s : State) (op : LongOp) : Chunks × Chunks :=
  let tr (r : Rec) (offs : List Nat) : Chunks := if r.special then [] else translateChunks s op.cx r.obj false offs
  (tr op.rec1 (op.units.flatMap (EUnit.offs op.rec1)), tr op.rec2 (op.units.flatMap (EUnit.reads op.rec2)))

def jobBrand (op : LongOp) (j : LineJob) : Nat := if j.brd then op.brand else 0

/-- A line has been asked for, or is owned. -/
def lineAsked (s : State) (opid : Nat) (op : LongOp) (j : LineJob) : Bool :=
  decide (j.stage ≠ 0) || !j.line.cached ||
    (dirOf s j.line (jobBrand op j)).elim false (fun d => decide (d.owner = opid) || d.queue.contains opid)

/-- The ownership of every destination line not yet written, asked for in ascending address order (R278). -/
def askLines (s : State) (opid : Nat) (op : LongOp) : State :=
  let ins (j : LineJob) (l : List LineJob) : List LineJob :=
    let (a, b) := l.span (fun k => decide (k.line.key ≤ j.line.key))
    a ++ j :: b
  (op.lines.foldl (fun l j => ins j l) []).foldl (fun s j =>
    if lineAsked s opid op j then s else askOwner s j.line (jobBrand op j) opid) s

/-- An engine operation translated: it asks for its lines and joins its engine's queue, or parks its group with EXM
unfinished. `next` is the group that goes on; lines already written are kept (R238, R278). -/
def placeEngine (s : State) (id : Nat) (g : Group) (opid : Nat) (op : LongOp) (next : Group → Group)
    (fail : State → List (BitVec 256) → State) : State :=
  let us := op.units
  let cd := (enginePages s op).1
  let cs := (enginePages s op).2
  let bad := engineFaults op us cd cs
  let s := noteTlb s op.cx (Chunks.good cd ++ Chunks.good cs)
  if bad.isEmpty then
    let op := { op with pmap := ((Chunks.good cd ++ Chunks.good cs).map (·.1)).eraseDups, parkNo := 0 }
    let ls := engineLines s op us
    let ls := ls.zipIdx.map (fun e => match op.lines[e.2]? with
      | some old => if old.stage = 2 then { e.1 with stage := 2 } else if old.line = e.1.line then old else e.1
      | none => e.1)
    let s := (op.lines.filter (fun j => !ls.any (fun k => decide (k.line = j.line)))).foldl (fun s j =>
      dropOwner s j.line (if j.brd then op.brand else 0) opid) s
    let op := { op with lines := ls }
    let s := askLines (enqueueEngine (s.setOp opid op) opid op) opid op
    let s := if op.needsLeave then askLeave s (Config.dieOfCore op.core) opid else s
    s.setGroup id (next g)
  else fail (s.setOp opid op) (engineRecords g op bad)

/-- The group after a yield-form copy: its continuation is in words from this clause's header (R239). -/
def Group.yields (g : Group) (w : MemWord) (opid : Nat) (done : Bool) : Group :=
  if w.idx then
    { g with yieldTo := some { op := opid, pc := ((g.cla : Int) + 4 * w.off.toInt).toNat, done := done, ih := g.ih } }
  else g

/-- The operation of an engine instruction at the group's word. -/
def engineOp (s : State) (id : Nat) (g : Group) (w : MemWord) (kind : OpKind) (n : Nat) (rows : List (Nat × Nat)) : LongOp :=
  let d : Rec := g.rdK w.k
  let src : Rec := g.rdK (recSrc w)
  let raw := decide (kind = .raw)
  { opOf s id g kind d (if raw then 0 else d.effBrand g.brd) { w with ord := 0, pol := 0 } with
    dseq := sget 0 g.nDefer 0, rec2 := src, brand2 := if raw then 0 else src.effBrand g.brd, count := n, rows := rows
    kindCode := if kind.isGather then 4 else 3, left := 0
    after := (ownStores s id).map (·.1)
    afterOps := ((ownOps s id).filter (fun e => e.2.kind.isLaneAccess || e.2.kind = .sigAccess || e.2.kind.isTile)).map (·.1) }

/-- The issue of an engine instruction. -/
def engineRun (w : MemWord) (base : OpKind) (uses : Uses) (n : Group → Nat) (rows : Group → List (Nat × Nat)) (s : State) :
    Out :=
  match s.group? s.cur with
  | none => .next s
  | some g =>
    match checkUses s s.cur g uses with
    | some c => .next (takeTrap s s.cur g { cause := c })
    | none =>
      let d : Rec := g.rdK w.k
      let src : Rec := g.rdK (recSrc w)
      match engineCause s s.cur g base d src (n g) (rows g) with
      | some c => .next (takeTrap s s.cur g { cause := c })
      | none => .next (withFlag s s.cur g w.sel true (fun s g' =>
          let kind := engineKind base d src
          if (if kind.isGather then (rows g).isEmpty else n g = 0) then
            s.setGroup s.cur ((g.yields w 0 true).adv 2)
          else
            let id := s.cur
            let op := engineOp s id g w kind (n g) (rows g)
            let (i, s) := s.take
            let g' := ((g'.counted).takeSeq (detOf s g)).yields w i false
            placeEngine s id g' i op (fun g => g.pass 2) (fun s recs => parkAt s id g' (some i) recs)))

def execXcopy (w : MemWord) (s : State) : Out :=
  engineRun w .copy { kr := [w.k, recSrc w], sc := [w.index.toNat] } (fun g => (g.rdS w.index).toNat) (fun _ => []) s

def execQrekey (w : MemWord) (s : State) : Out :=
  engineRun w .rekey { kr := [w.k, recSrc w], sc := [w.index.toNat] } (fun g => (g.rdS w.index).toNat) (fun _ => []) s

def execXgath (w : MemWord) (s : State) : Out :=
  engineRun w .gather { kr := [w.k, recSrc w], vr := [(w.index.toNat, 0)] } (fun _ => 0)
    (fun g => g.activeReal.map (fun l => (l, (g.src w.index 0 l).toNat))) s

/-! Running an operation. -/

def OpKind.isEngine : OpKind → Bool
  | .copy | .rekey | .gather | .raw => true
  | _ => false

/-- The operation an engine executes: the first of its queue that is not parked. -/
def engineHead (s : State) (op : LongOp) : Option Nat :=
  let c := s.core op.core
  (if op.kind.isGather then c.gathQ else c.copyQ).find? (fun i => (s.op? i).elim false (fun o => decide (o.parkNo = 0)))

/-- An engine operation may be granted its lines: its context runs and its group's earlier accesses are performed
(R278). -/
def engineReady (s : State) (op : LongOp) : Bool :=
  op.kind.isEngine && s.draining op.cx && decide (op.parkNo = 0) && noneLeft s op.after op.afterOps

/-- An engine works on an operation: it is ready, its turn has come and it has leave. -/
def engineRuns (s : State) (opid : Nat) (op : LongOp) : Bool :=
  engineReady s op && decide (engineHead s op = some opid) &&
    (!op.needsLeave || hasLeave s (Config.dieOfCore op.core) opid)

/-- A line that is copied into a cell of the operation's brand at its grant: where it has none yet, the place of the line that a read
under the brand reaches (R300, R301). -/
def copiedFrom (s : State) (op : LongOp) (j : LineJob) : Option Loc :=
  if j.brd && decide (op.brand ≠ 0) && decide (j.stage = 0) && (cell? s op.cx op.brand j.line).isNone then
    some (resolve s op.cx op.brand { loc := j.line, wp := false, brd := true, det := 0 }).2
  else none

/-- The peer bytes an operation still has to fetch: its source's, those of partly written bytes, and lines that are copied into
cells (R249, R300, R354). -/
def peerNeeds (s : State) (op : LongOp) : List Loc :=
  let us := op.units
  let src := (us.flatMap (EUnit.reads op.rec2)).map (srcPlace s op)
  let dst := if op.kind ≠ .raw && fmtBits (Rec.fmt op.rec1) % 8 ≠ 0 then
    (us.flatMap (EUnit.offs op.rec1)).map (fun o => (resolve s op.cx op.brand (engineByte s op op.rec1 o)).2) else []
  let cells := (op.lines.filterMap (copiedFrom s op)).flatMap (fun l =>
    if l.sp.isPeer then (List.range 256).map (fun i => { l with a := l.a + i }) else [])
  ((src ++ dst ++ cells).filter (fun l => l.sp.isPeer && !op.pgot.any (fun e => decide (e.1 = l)))).eraseDups

/-- The requests for an operation's peer bytes, as far as the reins have room (R351). -/
def fetchPeer (s : State) (opid : Nat) (op : LongOp) : State :=
  let rs := runsOf ((peerNeeds s op).map (fun l => (l, 0)))
  let (s, k) := msAskAll s (opid + 8) (rs.map (fun r => (peerRein r.1.a, peerReq op.cx r.1 r.2.length false [])))
  s.setOp opid { op with asked := op.asked + k }

/-- The records of an operation that parks after its issue: a group that runs parks between two words, and one that waits
elsewhere before it issues again (`parkDue`). -/
def parkRunning (s : State) (gid : Nat) (g : Group) (opid : Nat) (recs : List (BitVec 256)) : State :=
  if g.status = .issuing || g.status = .boundary then parkAt s gid g (some opid) recs
  else
    let s := numberPark s (some opid) recs
    { s with fq := { s.fq with waiting := s.fq.waiting ++ [recs] } }

/-- An operation of a group has parked while the group waited elsewhere: the group parks with it before it issues (R238,
R302). -/
def parkDue (s : State) (id : Nat) (g : Group) : Option State :=
  ((ownOps s id).find? (fun e => decide (e.2.parkNo ≠ 0) && (e.2.kind.isEngine || decide (e.2.kind = .snap) ||
    decide (e.2.kind = .out)) && decide (g.park ≠ some e.1))).map (fun e =>
      (s.setOp e.1 { e.2 with leave := decide (g.status = .boundary) }).setGroup id { g with status := .parked, park := some e.1 })

/-- The group of an operation that parks after issue, with EXM unfinished (R238, R302). -/
def parkEngine (s : State) (opid : Nat) (op : LongOp) (cause : Cause) (dst : Bool) (off : Nat) (lg : Bool) : State :=
  match s.group? op.gid with
  | none => s
  | some g =>
    let recs := engineRecords g op [({ cause := cause, lg := lg, mq := false }, off, dst)]
    parkRunning (s.setOp opid { op with leave := decide (g.status = .boundary) }) op.gid g opid recs

/-- The lowest destination offset of an operation in a line. -/
def lineOff (s : State) (op : LongOp) (line : Loc) : Nat :=
  (((op.units.flatMap (EUnit.offs op.rec1)).filter (fun o => decide ((engineByte s op op.rec1 o).loc.line = line))).foldl
    (fun (m : Option Nat) o => some (m.elim o (min o))) none).getD 0

/-- A granted line: the brand's cell is materialised (R301), once a peer has sent what is copied into it (R354), or the pool is empty
(R302). -/
def grantLine (s : State) (opid : Nat) (op : LongOp) (i : Nat) (j : LineJob) : State :=
  let s' := s.setOp opid { op with lines := op.lines.set i { j with stage := 1 } }
  if j.brd && decide (op.brand ≠ 0) && (cell? s op.cx op.brand j.line).isNone then
    if owned s j.line (resolve s op.cx op.brand { loc := j.line, wp := false, brd := true, det := 0 }).1 &&
        decide ((resolve s op.cx op.brand { loc := j.line, wp := false, brd := true, det := 0 }).1 ≠ op.brand) then s
    else if (copiedFrom s op j).elim false (fun l => l.sp.isPeer &&
        !(List.range 256).all (fun i => op.pgot.any (fun e => decide (e.1 = { l with a := l.a + i })))) then s
    else match (freePool s op.cx).head? with
      | some q => materialise s' op.cx op.brand j.line q op.pgot
      | none => parkEngine s opid op cPoolEmpty true (lineOff s op j.line) false
  else s'

/-- OWNERSHIP_GRANT (R278) of line `ln` % 2²⁴ of operation `ln` / 2²⁴: a line that the operation owns is ready to be
written once its group's earlier accesses are performed. -/
def grantEngine (ln : Nat) (s : State) : State :=
  let opid := ln / 2 ^ 24
  match s.op? opid with
  | none => s
  | some op =>
    if !engineReady s op then s
    else match op.lines[ln % 2 ^ 24]? with
      | none => s
      | some j =>
        if j.stage ≠ 0 then s
        else
          let first := op.lines.all (fun k => decide (k.stage = 0)) && decide (op.asked = 0)
          let s := if first && !(peerNeeds s op).isEmpty then fetchPeer s opid op else s
          let op := (s.op? opid).getD op
          if !j.line.cached || (dirOf s j.line (jobBrand op j)).elim false (fun d => decide (d.owner = opid)) then
            grantLine s opid op (ln % 2 ^ 24) j
          else s

/-- The operation stops: what it has not written is given up, and it completes as to its flag (R259, R280, R290). -/
def stopEngine (s : State) (opid : Nat) (op : LongOp) : State :=
  (dropAll s opid).setOp opid { op with lines := op.lines.map (fun j => { j with stage := 2 }), carry := [] }

/-- The bytes of a line that the operation writes, with the flags of the units that begin in it and the bytes computed
for later lines. -/
def lineBytes (s : State) (op : LongOp) (line : Loc) : List (PByte × Byte × Byte) × FFlags × List (PByte × Byte × Byte) :=
  let us := op.units.filter (fun u => decide ((engineByte s op op.rec1 ((u.offs op.rec1).headD 0)).loc.line = line))
  let ws := us.map (unitWrite s op)
  let all := op.carry ++ ws.flatMap (·.1)
  (all.filter (fun e => decide (e.1.loc.line = line)), ws.foldl (fun f w => f ||| w.2) 0,
    all.filter (fun e => !decide (e.1.loc.line = line)))

/-- The granules of a raw copy in a line, with the tags their sources had before the operation (R226, R239). -/
def lineTags (s : State) (op : LongOp) (line : Loc) : List (Loc × Bool) :=
  if op.kind = .raw && Rec.base op.rec1 % 32 = 0 && Rec.base op.rec2 % 32 = 0 then
    (List.range op.count).filterMap (fun i =>
      let d := (engineByte s op op.rec1 (Rec.base op.rec1 + 32 * i)).loc
      let l := srcPlace s op (Rec.base op.rec2 + 32 * i)
      if d.line = line then some (d, match op.pre.find? (fun e => decide (e.1 = l)) with
        | some e => e.2.2
        | none => tagOf s l)
      else none)
  else []

/-- What a line's writes overwrite of the operation's own source (R239). -/
def overwritten (s : State) (op : LongOp) (ws : List (PByte × Byte × Byte)) : List (Loc × Byte × Bool) :=
  let src := (op.units.flatMap (EUnit.reads op.rec2)).map (srcPlace s op)
  ((ws.map (fun w => (resolve s op.cx op.brand w.1).2)).eraseDups.filter (fun l =>
    src.contains l && !op.pre.any (fun e => decide (e.1 = l)))).map (fun l => (l, readAt s op.cx op.pgot l, tagOf s l))

/-- A line written: its bytes, and the tags of a raw copy's granules. -/
def writeLine (s : State) (op : LongOp) (line : Loc) (ws : List (PByte × Byte × Byte)) : State :=
  (lineTags s op line).foldl (fun s t => setTag s t.1 t.2) (writeOut s op.cx op.brand ws)

/-- The whole bytes of a line in a peer's memory, partly written ones with what the peer held. -/
def peerWhole (s : State) (op : LongOp) (ws : List (PByte × Byte × Byte)) : List (PByte × Byte) :=
  ws.foldl (fun (l : List (PByte × Byte)) w =>
    let old := ((l.find? (fun e => decide (e.1.loc = w.1.loc))).map (·.2)).getD (readAt s op.cx op.pgot w.1.loc)
    l.filter (fun e => decide (e.1.loc ≠ w.1.loc)) ++ [(w.1, merge old w.2.1 w.2.2)]) []

/-- A line's bytes sent to the peer that holds it, `op` as it is then; nothing while a rein has no room (R351, R354). -/
def sendPeer (s : State) (opid : Nat) (op : LongOp) (ws : List (PByte × Byte × Byte)) : State :=
  let sorted := (peerWhole s op ws).foldl (fun (l : List (Loc × Byte)) v =>
    let (a, b) := l.span (fun y => decide (y.1.a ≤ v.1.loc.a))
    a ++ (v.1.loc, v.2) :: b) []
  let rs := runsOf sorted
  let (t, k) := msAskAll s (opid + 8) (rs.map (fun r => (peerRein r.1.a, peerReq op.cx r.1 r.2.length true r.2)))
  if k = rs.length then t.setOp opid { op with asked := op.asked + k } else s

/-- LINE_COMPLETE (R279): the operation's writes to its next owned line are performed together, after the lane accesses
that waited before it (R269), and the line is released.
A write-protected line stops the operation (R259); a line of a deterministic-private page of another block ends it with
DET_OWNERSHIP (R290); writes to a deterministic-shared page are deferred under lane 0 and the operation's place in its sequence (R288). -/
def completeEngineLine (ln : Nat) (s : State) : State :=
  let opid := ln / 2 ^ 24
  match s.op? opid with
  | none => s
  | some op =>
    match op.lines[ln % 2 ^ 24]?, s.group? op.gid with
    | some j, some g =>
      let b := jobBrand op j
      if !engineRuns s opid op || decide (j.stage ≠ 1) || !(op.lines.take (ln % 2 ^ 24)).all (fun k => decide (k.stage = 2)) ||
          !op.lines.all (lineAsked s opid op) || lanesFirst s j.line b then s
      else if !(peerNeeds s op).isEmpty then (if op.asked = 0 then fetchPeer s opid op else s)
      else
        let (ws, fl, rest) := lineBytes s op j.line
        let off := lineOff s op j.line
        let det := detOf s g
        -- a line of a branded page in a peer's memory is written in its brand's cell (R300)
        let away := j.line.sp.isPeer && !(j.brd && decide (op.brand ≠ 0))
        let op' := { op with lines := op.lines.set (ln % 2 ^ 24) { j with stage := 2 }, cflags := op.cflags ||| fl, carry := rest,
                               pre := op.pre ++ overwritten s op ws }
        if ws.any (·.1.wp) then
          stopEngine (appendWp s op op.kindCode op.exm (Rec.obj op.rec1) off ((off : Int) - Rec.base op.rec1) op.wpOff) opid op
        else if det && ws.any (fun w => detForeign s g b w.1) then
          stopEngine (s.updGroup op.gid (fun g => { g with dfaults := g.dfaults ++
            [{ cause := cDetOwnership, flag := op.flag, z := 8, lanes := op.exm }] })) opid op
        else if ws.any (fun w => deferred det w.1) then
          let whole := if away then (peerWhole s op ws).map (fun w => (w.1, w.2, (0xFF : Byte))) else ws
          match deferWords s op.gid g op whole (lineTags s op j.line) with
          | some s => (dropOwner s j.line b opid).setOp opid op'
          | none => parkEngine s opid op cPoolEmpty true off false
        else if away then sendPeer s opid { op' with carry := op.carry ++ rest } ws
        else
          let s := if det then detTake s g b (ws.map (·.1)) else s
          (dropOwner (writeLine s op j.line ws) j.line b opid).setOp opid op'
    | _, _ => s

/-- An engine operation whose lines are all written and whose peer has answered is complete; its flags wait for its
completion flag (R238, R44). -/
def completeEngine (s : State) (opid : Nat) (op : LongOp) : State :=
  if op.lines.all (fun j => decide (j.stage = 2)) && decide (op.asked = 0) && decide (op.parkNo = 0) &&
      s.draining op.cx then
    let s := dropLeave (dequeueEngine s opid op) (Config.dieOfCore op.core) opid
    let s := match op.flag with
      | some f => if op.cflags = 0 then s else
          s.updGroup op.gid (fun g => { g with owed := g.owed ++ [{ flag := f, lanes := op.exm, bits := op.cflags }] })
      | none => s
    finishOp s opid op
  else s

end Sys2Proof.Machine
end

