-- ==== Sys2Proof/Machine/Page.lean ====
section
/-! DEFINITION. PROBE and DRAINST (R261, R262), FENCE (R286), the fault queue (R254-R257), reports of write protection
(R260), and the retry of parked operations (R253, R258). -/
namespace Sys2Proof.Machine

/-! PROBE. -/

/-- Whether a lane of a PROBE finds its word mapped and within bounds (R262). -/
def probeLane (s : State) (id : Nat) (g : Group) (r : Rec) (cs : Chunks) (o : Int) : Bool :=
  decide (o % 4 = 0) && decide (0 ≤ o) && decide (o + 4 ≤ r.extent) &&
    (let offs := (List.range 4).map (fun i => r.base + o.toNat + i)
     if r.special then offs.all (fun x => decide (x < (coreStore s id g r.obj).2))
     else offs.all (fun x => match cs.at x with
       | .ok _ => true
       | .error _ => false))

def execProbe (w : MemWord) (s : State) : Out :=
  let m := recSrc w
  issue s (fun _ => { kr := [w.k], msk := [m], vr := if w.idx then [(w.index.toNat, 0)] else [] })
    (fun g => match s.group? s.cur with
      | some _ => (({ k := w.k, right := 0 : AccessForm }).check s g).map (fun c => { cause := c })
      | none => none)
    (fun s g => withFlag s s.cur g w.sel false (fun s g =>
      let id := s.cur
      let (i, s) := s.take
      let r : Rec := g.rdK w.k
      let o (l : Nat) : Int := laneOff g w w.scl l
      let near (l : Nat) : List Nat := if 0 ≤ o l && o l + 4 ≤ r.extent then
        (List.range 4).map (fun i => r.base + (o l).toNat + i) else []
      let cs := if r.special then [] else translateChunks s g.cx r.obj true (g.active.flatMap near)
      let op := { opOf s id g .probe r (r.effBrand g.brd) w with
        dst := m.toNat, ndst := 1, toReg := true
        fin := laneSet (g.active.filter (fun l => probeLane s id g r cs (o l))) }
      ((noteTlb s g.cx (Chunks.good cs)).setOp i op).setGroup id (g.adv 2)))

/-! FENCE. -/

/-- Reads and atomics of a group not yet performed. -/
def readsOut (s : State) (id : Nat) : Bool := (ownOps s id).any (fun e => e.2.kind.isRead)

/-- What a fence waits for (R286): every earlier read, which no later write of the group may reach (R274), and a release
what R275 gives. -/
def fenceReady (s : State) (id ord : Nat) : Bool :=
  !readsOut s id && (releases ord = 0 || releaseReady s id (releases ord))

def execFence (w : MemWord) (s : State) : Out :=
  issue s (fun _ => {}) (fun _ => none) (fun s g =>
    let o := w.ord.toNat
    if fenceReady s s.cur o then
      let s := doRelease s g.cx (releases o)
      (doAcquire s g.core g.cx (acquires o)).setGroup s.cur (g.adv 2)
    else s.setGroup s.cur (g.stall .fence))

/-! Write protection (R259-R261). -/

/-- A store, atomic or compare of the group has lanes whose `wp` has not been tested. -/
def untested (s : State) (id : Nat) (old : LongOp → Bool) : Bool :=
  (ownOps s id).any (fun e => old e.2 && (e.2.kind.isAtomic ||
    (decide (e.2.kind = .store) && s.mem.stores.any (fun t => decide (t.2.op = e.1)))))

/-- The report of the oldest record at the instruction the group is about to issue (R260). -/
def reportWp (s : State) (id : Nat) (g : Group) : State :=
  match g.sfq with
  | [] => s
  | (r, off, k) :: rest =>
    takeTrap s id { g with sfq := rest }
      { cause := cWriteProtect, lanes := some (r.extractLsb' 96 64), off := off.toInt, kreg := k }

/-- WRITE_PROTECT_REPORT. -/
def execWriteProtectReport (id : Nat) (s : State) : Out :=
  match s.group? id with
  | some g => if g.status = .issuing && !g.ih && s.draining g.cx then .next (reportWp s id g) else .next s
  | none => .next s

def execDrainst (_w : MemWord) (s : State) : Out :=
  issue s (fun _ => {}) (fun _ => none) (fun s g =>
    if untested s s.cur (fun _ => true) then s.setGroup s.cur (g.stall .drain)
    else if g.sfq.isEmpty || g.ih then s.setGroup s.cur (g.adv 2)
    else reportWp s s.cur g)

/-- The 32-instruction bound of R260: a store 32 or more instructions back is untested. -/
def mustWaitReports (s : State) (id : Nat) (g : Group) : Bool :=
  !g.ih && untested s id (fun o => decide (o.issueNo + 32 ≤ g.nIssued))

/-! The fault queue. -/

/-- Bytes written to host memory and visible at SYSTEM scope (R267); their granules' tags clear (R226). -/
def hostWrite (s : State) (cx a : Nat) (bs : List Byte) : State :=
  let m := (bs.zipIdx).foldl (fun (m : MemUnit) e => m.putHost cx (a + e.2) e.1) s.mem
  let secs := ((List.range bs.length).map (fun i => (a + i) / 64)).eraseDups
  bs.zipIdx.foldl (fun s e => setTag s { sp := .host, a := a + e.2 } false)
    { s with mem := secs.foldl (fun (m : MemUnit) x => m.writeBack x) m }

/-- Record `n` in the ring, with its `valid` bit (R254, R256). -/
def putRecord (s : State) (n : Nat) (r : BitVec 256) : State :=
  let q := s.fq
  let v := if n / 2 ^ q.lg % 2 = 0 then r ||| 1#256 <<< 255 else r
  hostWrite s 0 (q.base.toNat + 32 * (n % 2 ^ q.lg)) (bytesOfNat 32 v.toNat)

/-- FAULT_RECORD_WRITE: the records of the next parked instruction, if all fit (R255, R257). -/
def execFaultRecordWrite (s : State) : Out :=
  let q := s.fq
  match q.waiting with
  | [] => .next s
  | rs :: rest =>
    if q.en && decide ((q.tail - q.head).toNat + rs.length ≤ 2 ^ q.lg) then
      let s' := rs.zipIdx.foldl (fun s e => putRecord s (q.tail.toNat + e.2) e.1) s
      .next { s' with fq := { q with waiting := rest, tail := q.tail + BitVec.ofNat 32 rs.length, irqs := q.irqs + 1 } }
    else .next s

/-- The fields of FQCFG other than `en` (R256). -/
def fqFields (q : FaultQ) (v : Word) : FaultQ :=
  let lg := (v.extractLsb' 0 5).toNat
  { q with iv := (v.extractLsb' 16 11).toNat, lg := if 4 ≤ lg ∧ lg ≤ 20 then lg else q.lg }

/-- A write to FQCFG (R256). -/
def fqcfgWrite (s : State) (v : Word) : State :=
  let q := s.fq
  if v.getLsbD 31 then
    if q.en then s else { s with fq := { fqFields q v with en := true, tail := 0 } }
  else { s with fq := { fqFields q v with en := false } }

def execFaultQueueEnable (v : Word) (s : State) : Out := .next (if v.getLsbD 31 then fqcfgWrite s v else s)
def execFaultQueueDisable (v : Word) (s : State) : Out := .next (if v.getLsbD 31 then s else fqcfgWrite s v)
def execFqheadWrite (v : Word) (s : State) : Out := .next { s with fq := { s.fq with head := v } }

/-! Retries. -/

/-- The access of a parked lane operation. -/
def LongOp.putOf (op : LongOp) (opid : Nat) : Put :=
  match op.kind with
  | .store => putStore op.gid opid op op.ndst
  | .atom o => putAtom op.gid opid op (decide (o = 1))
  | .cas => putAtom op.gid opid op false
  | .sigAccess => putSig op.gid opid op
  | _ => putLoad

/-- A group that a retry lets go on from its park. -/
def Group.unpark (g : Group) : Group := { g with status := .issuing, park := none }

/-- A parked access whose retry raises a trapping cause: its unfinished lanes are given up and its group traps at the
instruction; what its other lanes have begun completes (R253, R290, R297). -/
def retryTrap (s : State) (id : Nat) (g : Group) (opid : Nat) (op : LongOp) (t : Trap) : State :=
  tieTrap (if op.kind = .sigAccess then s.delOp opid else s.giveUp opid op) id (g.unpark.giveUp opid op) t

/-- After a held write of an elided pair is placed (R147): the others are, then the tied load they come before, whose brand must
still be live (R297); at a closing branch the word issues again. -/
def afterFlush (s : State) (id : Nat) (g : Group) : State :=
  let s := s.setGroup id g.unpark
  match waitingTied s id with
  | none => s
  | some (i, op) =>
    let s := flushTies id ((tieAt s g false).elim [] g.holdsOf) s
    match s.group? id with
    | some g' =>
      if g'.status = .issuing && !s.brandLive op.cx op.brand then tieTrap s id g' { cause := cBrandInvalid }
      else placeTied s id i
    | none => s

/-- The trapping cause of a retry, for the lanes still to be accessed: the brand must be live (R297), and no line a write
reaches another block's (R290). -/
def retryCause (s : State) (g : Group) (op : LongOp) (todo : List LaneAcc) : Option Trap :=
  if !s.brandLive op.cx op.brand then some { cause := cBrandInvalid }
  else if op.kind = .store || op.kind = .sigAccess || op.kind.isAtomic then
    match todo.filter (fun a => (detLanes s g op.rec1 op.brand [a]).contains a.lane) with
    | a :: r => some { cause := cDetOwnership, lanes := if op.kind = .sigAccess then none else some (laneSet ((a :: r).map (·.lane)))
                       off := a.off, kreg := op.wpOff }
    | [] => none
  else none

/-- The bytes that an operation's writes defer in deterministic mode (R288). -/
def LongOp.defers (op : LongOp) (p : PByte) : Bool :=
  match op.kind with
  | .store => deferred true p
  | .atom o => decide (o = 1) && !p.wp
  | _ => false

/-- The retry of a parked lane access, for its unfinished lanes alone (R253); one that would copy a line Owned under an
ancestor waits for its owner (R271, R301). -/
def retryLanes (s : State) (id : Nat) (g : Group) (opid : Nat) (op : LongOp) : State :=
  match retryCause s g op (op.lanes.filter (fun (a : LaneAcc) => op.left.getLsbD a.lane)) with
  | some t => retryTrap s id g opid op t
  | none =>
    let todo := op.lanes.filter (fun (a : LaneAcc) => op.left.getLsbD a.lane)
    if (recallOf s g op.rec1 op.brand op.defers todo).isSome then s.setOp opid { op with recalled := true }
    else
    let op := { op with parkNo := 0, pooled := false, recalled := false }
    if op.leave then
      let s := access s id g opid op (op.putOf opid) todo (fun g => g) (fun g => g)
      match s.op? opid, s.group? id with
      | some o, some g' => if o.left = 0 then afterFlush s id g' else s
      | _, _ => s
    else access s id g opid op (op.putOf opid) todo (fun g => g.unpark.pass 2) (fun g => g)

/-- The retry of a parked engine operation: at issue it begins; later it goes on with the lines it has not written
(R238). Answers of a peer that were refused are asked for again (R354). -/
def retryEngine (s : State) (opid : Nat) (op : LongOp) : State :=
  match s.group? op.gid with
  | none => s
  | some g =>
    if !s.brandLive op.cx op.brand || !s.brandLive op.cx op.brand2 then
      let s := dequeueEngine (dropLeave (stopEngine s opid op) (Config.dieOfCore op.core) opid) opid op
      let s := finishOp s opid op
      match s.group? op.gid with
      | some g => if g.park = some opid then takeTrap s op.gid g.unpark { cause := cBrandInvalid }
        else { s with k := { s.k with groups := mupd s.k.groups op.gid (fun g => { g with dfaults := g.dfaults ++
          [{ cause := cBrandInvalid, flag := op.flag, z := 8, lanes := op.exm }] }) } }
      | none => s
    else
      let op := { op with parkNo := 0, pooled := false }
      let mine := decide (g.park = some opid)
      if op.lines.isEmpty then
        placeEngine s op.gid g opid op (fun g => g.unpark.pass 2) (fun s recs => parkAt s op.gid g (some opid) recs)
      else
        let s := placeEngine s op.gid g opid op
          (fun g => if mine then (if op.leave then { g with status := .boundary, park := none } else g.unpark) else g)
          (fun s recs => if mine then parkAt s op.gid g (some opid) recs else parkRunning s op.gid g opid recs)
        match s.op? opid with
        | some o => if decide (o.parkNo = 0) && decide (o.asked = 0) && !(peerNeeds s o).isEmpty then fetchPeer s opid o else s
        | none => s

/-- The retry of a parked operation (R258): an access, an engine operation, a SIG.WAIT, a fetch or a breakpoint. -/
def retryOp (s : State) (opid : Nat) : State :=
  match s.op? opid with
  | none => s
  | some op =>
    if op.parkNo = 0 then s
    else if op.kind.isEngine then retryEngine s opid op
    else match s.group? op.gid with
      | none => s
      | some g =>
        if g.park ≠ some opid then s
        else match op.kind with
          | .fetch =>
            let g := { g with status := if op.leave then .boundary else .issuing, park := none, afresh := true }
            let fs := fetchFaults s g op.leave
            if fs.isEmpty then (s.delOp opid).setGroup op.gid g else parkFetch (s.delOp opid) op.gid g op.leave fs
          | .brk => (s.delOp opid).setGroup op.gid (g.unpark.pass 1)
          | .signalWait => match g.sigw with
            | some w =>
              if s.brandLive op.cx op.brand then sigWaitTest (s.delOp opid) op.gid { g with park := none } w (sigWaitOp s op.gid g w)
              else takeTrap (s.delOp opid) op.gid { g.unpark with sigw := none } { cause := cBrandInvalid }
            | none => s
          | _ => retryLanes s op.gid g opid op

/-- A number placed by its key among ascending keys. -/
def insertKey (e : Nat × Nat) : List (Nat × Nat) → List (Nat × Nat)
  | [] => [e]
  | x :: r => if e.1 < x.1 then e :: x :: r else x :: insertKey e r

/-- Parked operations that satisfy `f`, in the order in which they parked. -/
def parkedOps (s : State) (f : LongOp → Bool) : List (Nat × Nat) :=
  (s.mem.ops.filter (fun e => decide (e.2.parkNo ≠ 0) && f e.2)).foldl (fun l e => insertKey (e.2.parkNo, e.1) l) []

end Sys2Proof.Machine
end

