-- ==== Sys2Proof/Machine/Tile.lean ====
section
/-! DEFINITION. The matrix engines (R309-R334): tiles and their holders, loops and K-steps, snapshots and read-out, and the
choice among tile queues. -/
namespace Sys2Proof.Machine

/-! Tiles. -/

/-- Whether an MSNAP or MOUT of a tile is outstanding (R322, R329). -/
def tileOpsOut (s : State) (core z : Nat) : Bool :=
  s.mem.ops.any (fun e => (decide (e.2.kind = .snap) || decide (e.2.kind = .out)) && decide (e.2.core = core) &&
    decide (e.2.tile = z) && !opSaved s e.2)

def tileBusy (s : State) (core z : Nat) : Bool := !(s.tile core z).loops.isEmpty || tileOpsOut s core z

/-- A tile allocated to a group (R309). -/
def freshTile (id : Nat) (g : Group) : Tile :=
  { holder := some id, elems := [], anchor := none, prio := g.prio, kdone := 0, last := none, loops := [], orphan := false }

/-- A tile instruction: a data fault due at it is taken first (R333), then its own cause. -/
def tileRun (z : BitVec 3) (u : Uses) (own : State → Group → Tile → Option Cause) (eff : State → Group → Tile → State)
    (s : State) : Out :=
  match s.group? s.cur with
  | none => .next s
  | some g =>
    match checkUses s s.cur g u with
    | some c => .next (takeTrap s s.cur g { cause := c })
    | none =>
      match takeDataFault s s.cur g (fun d => decide (d.z = z.toNat)) with
      | some s' => .next s'
      | none =>
        let t := s.tile g.core z.toNat
        match own s g t with
        | some c => .next (takeTrap s s.cur g { cause := c })
        | none => .next (eff s g t)

/-- MATRIX_FORMAT of an instruction that needs the tile held (R309). -/
def holds (s : State) (t : Tile) : Bool := decide (t.holder = some s.cur) && !t.orphan

def tileFree (t : Tile) : Bool := decide (t.holder = none)

/-- MZERO (R322). -/
def execMzero (z : BitVec 3) (s : State) : Out :=
  tileRun z {} (fun _ _ _ => none) (fun s g t =>
    if (!tileFree t && !holds s t) || tileBusy s g.core z.toNat then s.setGroup s.cur (g.stall (.tile z.toNat))
    else if tileFree t then (s.setTile g.core z.toNat (freshTile s.cur g)).setGroup s.cur (g.adv 1)
    else (s.setTile g.core z.toNat { t with elems := [], anchor := none, kdone := 0, last := none }).setGroup s.cur (g.adv 1))
    s

/-- MPRI (R328). -/
def execMpri (z : BitVec 3) (p : BitVec 3) (s : State) : Out :=
  tileRun z {} (fun s _ t => if holds s t then none else some cMatrixFormat) (fun s g t =>
    (s.setTile g.core z.toNat { t with prio := p.toNat }).setGroup s.cur (g.adv 1)) s

/-- MREL (R329). -/
def execMrel (z : BitVec 3) (s : State) : Out :=
  tileRun z {} (fun s _ t => if holds s t then none else some cMatrixFormat) (fun s g _ =>
    if tileBusy s g.core z.toNat then s.setGroup s.cur (g.stall (.tile z.toNat))
    else (s.setTile g.core z.toNat Tile.free).setGroup s.cur (g.adv 1)) s

/-! Loops (R323, R324). -/

/-- K-steps from the loop's origin that a loop covers. -/
def MLoop.reach (l : MLoop) : Nat := l.first + l.steps

/-- The K range of `n` K-steps lies in both records (R323). -/
def loopFits (a b : Rec) (n : Nat) : Bool := decide (32 * n ≤ a.csize 0) && decide (32 * n ≤ b.size 1)

/-- The element of A at row m and k, by its record. -/
def aElem (r : Rec) (m k : Nat) : Nat :=
  let f (j : Nat) : Nat := match j with
    | 0 => k
    | 1 => m
    | _ => 0
  r.index (f (r.pi 0)) (f (r.pi 1)) (f (r.pi 2))

/-- Rows of A that are read (R310). -/
def aRows (r : Rec) : List Nat := List.range (min 64 (r.csize 1))

/-- The object offsets of A that K-step `j` from a loop's origin reads. -/
def rowOffs (a : Rec) (j : Nat) : List Nat :=
  (aRows a).flatMap (fun m => (List.range 32).flatMap (fun i => srcOffs a (aElem a m (32 * j + i))))

/-- The object offsets of slab `j` of B that a K-step reads (R56, R310). -/
def slabOffs (b : Rec) (planes j : Nat) : List Nat :=
  (List.range (min 64 (b.size 0))).flatMap (fun n =>
    slabExp b n (32 * j) :: (List.range planes).flatMap (fun p => (List.range 4).map (fun i => slabWord b n (32 * j) p + i)))

/-- Some byte of K-steps `m` to `m + n` - 1 lies outside the storage of its record (R222). -/
def stepsOutside (s : State) (id : Nat) (g : Group) (a b : Rec) (planes m n : Nat) : Bool :=
  let out (r : Rec) (offs : Nat → List Nat) : Bool :=
    r.special && (List.range n).any (fun j => (offs (m + j)).any (fun o => decide ((coreStore s id g r.obj).2 ≤ o)))
  out a (rowOffs a) || out b (slabOffs b planes)

/-- The causes of MLOOP, in the order of R321. -/
def mloopCause (s : State) (id : Nat) (g : Group) (t : Tile) (a b : Rec) (n : Nat) (x : LoopExt) : Option Cause :=
  if !a.wf || !b.wf then some cRecordInvalid
  else if !a.right 0 || !b.right 0 then some cRights
  else if a.lay = 6 || b.lay ≠ 6 || decide (b.sce % 16 ≠ x.planes.toNat) || (isD a.fmt && decide (a.sce < 3)) ||
      (x.anc && holds s t && t.anchor.elim false (fun v => decide (v ≠ x.anchor.toNat))) then some cMatrixFormat
  else if !s.brandLive g.cx (a.effBrand g.brd) then some cBrandInvalid
  else if !loopFits a b n || stepsOutside s id g a b (x.planes.toNat + 1) 0 n then some cBounds
  else none

/-- A flag count of 63 holds an operation back (R62). -/
def Group.flagFull (g : Group) (f : Option Nat) : Option Nat :=
  f.bind (fun n => if 63 ≤ g.count n then some n else none)

def Group.countOpt (g : Group) (f : Option Nat) : Group := f.elim g g.countUp

/-- A loop started on a tile, once it has leave; with no K-steps it is complete at once (R323, R331). -/
def startLoop (s : State) (g : Group) (z : Nat) (t : Tile) (l : MLoop) : State :=
  let die := Config.dieOfCore g.core
  if l.steps = 0 then
    (dropLeave (s.setTile g.core z { t with last := some l }) die s.cur).setGroup s.cur (g.adv 2)
  else
    let s := s.setTile g.core z { t with last := some l, loops := t.loops ++ [l] }
    (moveLeave s die s.cur l.id).setGroup s.cur ((g.countOpt l.flag).adv 2)

/-- The group waits for its die's leave (R390), then `k`. -/
def withLeave (s : State) (g : Group) (k : State → State) : State :=
  let die := Config.dieOfCore g.core
  let s := askLeave s die s.cur
  if hasLeave s die s.cur then k s else s.setGroup s.cur (g.stall .leave)

/-- The accesses of a group not yet performed, those of its MSNAPs and MOUTs among them (R324, R327). -/
def earlier (s : State) (id : Nat) : List Nat :=
  (ownStores s id).map (·.1) ++ ((ownOps s id).filter (fun e => e.2.kind.isLaneAccess || decide (e.2.kind = .snap) ||
    decide (e.2.kind = .out))).map (·.1)

/-- MLOOP (R323). -/
def execMloop (e : Bool) (z : BitVec 3) (k : BitVec 4) (c : BitVec 7) (x : LoopExt) (s : State) : Out :=
  tileRun z { kr := [k, x.kb], sc := [c.toNat] }
    (fun s g t => mloopCause s s.cur g t (g.rdK k) (g.rdK x.kb) (g.rdS c).toNat x)
    (fun s g t =>
      let flag := g.sideFlag e
      match g.flagFull flag with
      | some f => s.setGroup s.cur (g.stall (.flagFull f))
      | none =>
        if (!tileFree t && !holds s t) || decide (4 ≤ t.loops.length) then s.setGroup s.cur (g.stall (.tile z.toNat))
        else
          let t := if tileFree t then freshTile s.cur g else t
          let t := if x.anc then { t with anchor := some x.anchor.toNat } else t
          let s := s.setTile g.core z.toNat t
          withLeave s g (fun s =>
            let (i, s) := s.take
            let o := originOf s g g.pc
            startLoop s g z.toNat t
              { id := i, gid := s.cur, cx := g.cx, recA := g.rdK k, recB := g.rdK x.kb, brand := Rec.effBrand (g.rdK k) g.brd
                exm := g.exm, steps := (g.rdS c).toNat, done := 0, first := 0, planes := x.planes.toNat + 1
                passes := if x.two then 2 else 1, anchor := if x.anc then some x.anchor.toNat else none, flag := flag
                paused := false, afresh := false, cflags := 0, iobj := o.1, ioff := o.2, after := (earlier s s.cur).map (fun i => (0, i)), parkNo := 0 })) s

/-- The causes of MGROW (R324): one that starts a continuation needs a live brand (R297, R321). -/
def mgrowCause (s : State) (g : Group) (t : Tile) (n : Nat) : Option Cause :=
  if !holds s t then some cMatrixFormat
  else match t.last with
    | none => some cMatrixFormat
    | some l =>
      if decide (n ≠ 0) && !t.loops.any (fun q => decide (q.id = l.id)) && !s.brandLive g.cx l.brand then some cBrandInvalid
      else if loopFits l.recA l.recB (l.reach + n) && !stepsOutside s s.cur g l.recA l.recB l.planes l.reach n then none
      else some cBounds

/-- MGROW: the most recent loop runs further, or a continuation loop starts (R324). -/
def execMgrow (z : BitVec 3) (c : BitVec 7) (s : State) : Out :=
  tileRun z { sc := [c.toNat] } (fun s g t => mgrowCause s g t (g.rdS c).toNat) (fun s g t =>
    let n := (g.rdS c).toNat
    match t.last with
    | none => s
    | some l =>
      if n = 0 then s.setGroup s.cur (g.adv 1)
      else if t.loops.any (fun q => decide (q.id = l.id)) then
        (s.setTile g.core z.toNat { t with
          last := some { l with steps := l.steps + n }
          loops := t.loops.map (fun q => if q.id = l.id then { q with steps := q.steps + n, after := q.after ++ (earlier s s.cur).map (fun i => (q.steps, i)) } else q) }).setGroup s.cur (g.adv 1)
      else match g.flagFull l.flag with
        | some f => s.setGroup s.cur (g.stall (.flagFull f))
        | none => withLeave s g (fun s =>
            let (i, s) := s.take
            let q : MLoop := { l with id := i, gid := s.cur, exm := g.exm, first := l.reach, steps := n, done := 0, cflags := 0
                                      paused := false, afresh := false, after := (earlier s s.cur).map (fun i => (0, i)), parkNo := 0 }
            let s := s.setTile g.core z.toNat { t with last := some q, loops := t.loops ++ [q] }
            (moveLeave s (Config.dieOfCore g.core) s.cur i).setGroup s.cur ((g.countOpt q.flag).adv 1))) s

/-! Writes of MSNAP and MOUT (R327). -/

/-- The bytes of `todo` placed in order, by the pages `known` or the translation `cs`, those of one destination line
together, until one does not translate, is write-protected, or the pool is empty. They follow the group's accesses issued before the
instruction, and none that it issued after an MOUT (R327). -/
def placeTodo (gid opid : Nat) (known : List PageTr) (cs : Chunks) : Nat → State → Group → LongOp → State × LongOp × List (PageFault × Nat)
  | 0, s, _, op => (s, op, [])
  | n + 1, s, g, op =>
    match op.todo with
    | [] => (s, op, [])
    | (o, _, _) :: _ =>
      let special := Rec.special op.rec1
      let sp := (coreStore s gid g (Rec.obj op.rec1)).1
      let byte (x : Nat) : PByte := if special then { loc := { sp := sp, a := x }, wp := false, brd := false, det := 0 }
        else match known.find? (fun t => t.covers (Rec.obj op.rec1) x) with
          | some t => t.byte x
          | none => cs.byte x
      let fault : Option PageFault := if special || known.any (fun t => t.covers (Rec.obj op.rec1) o) then none
        else match cs.at o with
          | .ok _ => none
          | .error f => some f
      match fault with
      | some f => (s, op, [(f, o)])
      | none =>
        let line := (byte o).loc.line
        let now := op.todo.takeWhile (fun e => decide ((byte e.1).loc.line = line))
        match issueWrite s gid g opid op 0 [now.map (fun e => (byte e.1, e.2.1, e.2.2))] with
        | none => (s, op, [({ cause := cPoolEmpty, lg := false, mq := false }, o)])
        | some t =>
          let own (i : Nat) : Bool := (mget s.mem.stores i).elim false (fun w => decide (w.gid = gid) && decide (w.op ≤ opid))
          let s := { t with mem := { t.mem with stores := t.mem.stores.map (fun e =>
            if e.2.op = opid && (mget s.mem.stores e.1).isNone then
              (e.1, { e.2 with after := e.2.after.filter own ++ op.after
                               afterOps := e.2.afterOps.filter (· < opid) ++ op.after }) else e) } }
          let pm := (Chunks.good cs).map (·.1)
          -- write protection stops the operation there (R259)
          let rest := if now.any (fun e => (byte e.1).wp) then [] else op.todo.drop now.length
          placeTodo gid opid known cs n s g { op with todo := rest,
                                                      pmap := op.pmap ++ pm.filter (fun t => !op.pmap.contains t) }

/-- The writes of a tile operation placed, through the pages `known` where those cover them; what is left parks the group,
all its faulting pages recorded. -/
def placeTile (s : State) (id : Nat) (g : Group) (opid : Nat) (op : LongOp) (known : List PageTr) (next : Group → Group)
    (fail : State → List (BitVec 256) → State) : State :=
  let cs : Chunks := if Rec.special op.rec1 then [] else
    translateChunks s op.cx (Rec.obj op.rec1) true ((op.todo.map (·.1)).filter (fun o =>
      !known.any (fun t => t.covers (Rec.obj op.rec1) o)))
  let s := noteTlb (s.setGroup id g) op.cx cs.good
  let (s, op, bad) := placeTodo id opid known cs (op.todo.length + 1) s g op
  match bad with
  | [] => match s.group? id with
    | some g => (s.setOp opid op).setGroup id (next g)
    | none => s
  | (f, o) :: _ =>
    let all := if f.cause = cPoolEmpty then [(f, o)] else
      LaneAcc.faults cs (.ofOffs (op.todo.map (·.1)))
    fail (s.setOp opid op) (engineRecords g op (all.map (fun e => (e.1, e.2, true))))

/-- Little-endian bytes from an object offset, unmasked. -/
def todoBytes (o n v : Nat) : List (Nat × Byte × Byte) :=
  (bytesOfNat n v).zipIdx.map (fun b => (o + b.2, b.1, 0xFF))

/-- The state of a tile as MSNAP writes it (R325). -/
def snapBytes (r : Rec) (t : Tile) : List (Nat × Byte × Byte) :=
  (List.range 4096).flatMap (fun i => todoBytes (r.base + 9 * i) 9 (sget 0 t.elems i).toNat) ++
    todoBytes (r.base + 36864) 64
      (t.anchor.elim 0 (fun a => 1024 + a) + t.kdone % 2 ^ 32 * 2 ^ 32)

/-- Lines of deterministic-private pages that another block owns, at the issue of a tile write (R290). -/
def outForeign (s : State) (g : Group) (r : Rec) (offs : List Nat) : Bool :=
  detOf s g && !r.special &&
    (let cs := translateChunks s g.cx r.obj true offs
     offs.any (fun o => detForeign s g (r.effBrand g.brd) (cs.byte o)))

/-- The causes of MSNAP and MOUT, in the order of R321; `ok` is their own condition on the record, and `offs` are the
offsets they write, or one of each line (R222, R290, R327). -/
def tileWriteCause (s : State) (id : Nat) (g : Group) (t : Tile) (r : Rec) (ok : Bool) (offs : List Nat) : Option Cause :=
  if !r.wf then some cRecordInvalid
  else if !r.right 1 then some cRights
  else if !holds s t || !ok then some cMatrixFormat
  else if !s.brandLive g.cx (r.effBrand g.brd) then some cBrandInvalid
  else if r.special && offs.any (fun o => decide ((coreStore s id g r.obj).2 ≤ o)) then some cBounds
  else if outForeign s g r offs then some cDetOwnership
  else none

/-- A tile write issues, unless a deferred one would copy a line that is Owned: the word then stalls (R271, R301). -/
def tileWrite (s : State) (g : Group) (e : Bool) (r : Rec) (offs : List Nat) (k : State → Group → State) : State :=
  match recallOf s g r (r.effBrand g.brd) (deferred true) [.ofOffs offs] with
  | some (l, h) => s.setGroup s.cur (g.stall (.recall l h))
  | none => withFlag s s.cur g e true k

/-- The operation of an MSNAP or MOUT: every earlier access of its group comes first (R327). -/
def tileOp (s : State) (id : Nat) (g : Group) (kind : OpKind) (e : Bool) (z : BitVec 3) (k : BitVec 4) : LongOp :=
  let r : Rec := g.rdK k
  { opOf s id g kind r (r.effBrand g.brd)
      { k := k, data := 0, index := 0, mod := 0, ord := 0, pol := 0, off := 0 } with
    flag := g.sideFlag e, tile := z.toNat, kindCode := 5, dseq := sget 0 g.nDefer 0
    after := earlier s id }

/-- An offset in each line that an MSNAP writes, its first and last among them. -/
def snapOffs (r : Rec) : List Nat := (List.range 1154).map (fun i => r.base + 32 * i) ++ [r.base + 36927]

/-- MSNAP (R325). -/
def execMsnap (e : Bool) (z : BitVec 3) (k : BitVec 4) (s : State) : Out :=
  tileRun z { kr := [k] }
    (fun s g t =>
      let r : Rec := g.rdK k
      tileWriteCause s s.cur g t r (r.fmt = 0x0A && r.lay = 0 && decide (r.size 1 = 1) && decide (r.size 2 = 1) &&
        decide (36928 ≤ r.size 0)) (snapOffs r))
    (fun s g t => tileWrite s g e (g.rdK k) (snapOffs (g.rdK k)) (fun s g =>
      let id := s.cur
      let (i, s) := s.take
      let op := { tileOp s id g .snap e z k with todo := snapBytes (g.rdK k) t, count := 1 }
      let g := g.counted.takeSeq (detOf s g)
      placeTile s id g i op [] (fun g => g.pass 1) (fun s recs => parkAt s id g (some i) recs))) s

/-- The destination element of tile element (m, c) (R326): none outside the record. -/
def outElem (r : Rec) (m c : Nat) : Option Nat :=
  if decide (c < r.csize 0) && decide (m < r.csize 1) then
    let f (j : Nat) : Nat := match j with
      | 0 => c
      | 1 => m
      | _ => 0
    some (r.index (f (r.pi 0)) (f (r.pi 1)) (f (r.pi 2)))
  else none

/-- The elements of a tile that MOUT writes, with their destination elements. -/
def outElems (r : Rec) : List (Nat × Nat) :=
  (List.range 64).flatMap (fun m => (List.range 64).filterMap (fun c => (outElem r m c).map (fun d => (64 * m + c, d))))

/-- The offsets an MOUT writes. -/
def outOffs (r : Rec) : List Nat := (outElems r).flatMap (fun e => (r.unit e.2).offs)

/-- A write of MOUT placed at issue: its pages translated and its cells reserved (R301); none with the pool empty. -/
def reserveOut (s : State) (cx b opid : Nat) (ps : List PByte) : Option State :=
  reserveAll cx b opid s (linesNeeding s cx b ps)

/-- The issue of an MOUT, or its retry before it has read the tile. -/
def placeOut (s : State) (id : Nat) (g : Group) (opid : Nat) (op : LongOp) (next : Group → Group) : State :=
  let r : Rec := op.rec1
  let offs := outOffs r
  if r.special then (s.setOp opid op).setGroup id (next g)
  else
    let cs : Chunks := translateChunks s op.cx r.obj true offs
    let s := noteTlb s op.cx cs.good
    let bad := LaneAcc.faults cs (.ofOffs offs)
    let fail (bad : List (PageFault × Nat)) : State :=
      parkAt (s.setOp opid op) id g (some opid) (engineRecords g op (bad.map (fun e => (e.1, e.2, true))))
    if !bad.isEmpty then fail bad
    else match reserveOut s op.cx op.brand opid (offs.map cs.byte) with
      | none => fail [({ cause := cPoolEmpty, lg := false, mq := false }, offs.headD 0)]
      | some s => (s.setOp opid { op with pmap := cs.good.map (·.1) }).setGroup id (next g)

/-- MOUT (R326): issued now, the tile's state is taken by MOUT_READOUT. -/
def execMout (e : Bool) (z : BitVec 3) (k : BitVec 4) (s : State) : Out :=
  tileRun z { kr := [k] }
    (fun s g t =>
      let r : Rec := g.rdK k
      tileWriteCause s s.cur g t r ((r.fmt = 0 || r.fmt = 2 || isD r.fmt) && r.lay ≠ 6) (outOffs r))
    (fun s g t => tileWrite s g e (g.rdK k) (outOffs (g.rdK k)) (fun s g =>
      let id := s.cur
      let (i, s) := s.take
      let op := { tileOp s id g .out e z k with
        afterOps := t.loops.map (·.id), ndst := (t.loops.getLast?).elim 0 (·.id), dst := (t.loops.getLast?).elim 0 (·.steps) }
      placeOut s id (g.counted.takeSeq (detOf s g)) i op (fun g => g.pass 1))) s

/-- The bytes of an MOUT and its flags, from the tile's state (R326, R59). -/
def outBytes (r : Rec) (t : Tile) : List (Nat × Byte × Byte) × FFlags :=
  let a := t.anchor.getD 0
  (outElems r).foldl (fun (acc : List (Nat × Byte × Byte) × FFlags) e =>
    let x := sget 0 t.elems e.1
    let (v, f) : Nat × FFlags := if isD r.fmt then
        let q := readD (fmtBits r.fmt) r.sce (r.dither e.2) a x
        ((BitVec.ofInt 8 q.1).toNat, q.2)
      else readFloat (floatFmt r.fmt) a x
    let u := r.unit e.2
    let w := fmtBits r.fmt
    (acc.1 ++ (u.offs.zip ((bytesOfNat u.n (v % 2 ^ w * 2 ^ u.bit)).zip (bytesOfNat u.n ((2 ^ w - 1) * 2 ^ u.bit)))),
      acc.2 ||| f)) ([], 0)

/-- An MOUT waits for a loop issued before it until it has the K-steps it had then (R326): of the most recent, `ndst`, those
are `dst`. -/
def LongOp.waitsFor (op : LongOp) (l : MLoop) : Bool :=
  op.afterOps.contains l.id && !(decide (l.id = op.ndst) && decide (op.dst ≤ l.done))

/-- MOUT_READOUT: once the loops before it are complete, the tile is read as one state (R326). An MOUT that is parked at its
issue (`count` 2 from here) writes the elements before the one at fault and stays parked (R327). One whose block waits for cores
after a RESUME waits with it (R106, R334). -/
def execMoutReadout (opid : Nat) (s : State) : Out :=
  match s.op? opid with
  | some op =>
    let t := s.tile op.core op.tile
    if op.kind = .out && op.count = 0 && s.active op.cx && !opSaved s op && t.loops.all (fun l => !op.waitsFor l) then
      match s.group? op.gid with
      | some g =>
        if (recallOf s g op.rec1 op.brand (deferred true) [.ofOffs (outOffs op.rec1)]).isSome then .next s else
        let (bs, f) := outBytes op.rec1 t
        let op := { op with count := if op.parkNo = 0 then 1 else 2, todo := bs, cflags := f, afterOps := [] }
        let s := placeTile s op.gid g opid op op.pmap (fun g => g)
          (fun s recs => if op.parkNo ≠ 0 then s
            else parkRunning (s.setOp opid { ((s.op? opid).getD op) with leave := decide (g.status = .boundary) }) op.gid g opid
              recs)
        .next (freeOrphan s op.core op.tile)
      | none => .next s
    else .next s
  | none => .next s

/-- A tile write whose bytes have all been performed is complete; its store-fault record comes first (R327, R259). -/
def completeTile (s : State) (opid : Nat) (op : LongOp) : State :=
  if op.count = 1 && op.todo.isEmpty && op.parkNo = 0 && storesDone s opid then
    let s := match op.rows.head? with
      | some (o, _) => appendWp s op 5 op.exm (Rec.obj op.rec1) o ((o : Int) - Rec.base op.rec1) op.wpOff
      | none => s
    let s := match op.flag with
      | some f => if op.cflags = 0 then s else
          s.updGroup op.gid (fun g => { g with owed := g.owed ++ [{ flag := f, lanes := op.exm, bits := op.cflags }] })
      | none => s
    finishOp s opid op
  else s

/-- A loop or operation ends with BRAND_INVALID at a retry at which its group does not stand parked (R297): reported as a data fault is
(DEDUCED, notes/assumptions/134.md). -/
def deadBrand (s : State) (gid z : Nat) (flag : Option Nat) (lanes : Lanes) : State :=
  s.updGroup gid (fun g => { g with dfaults := g.dfaults ++ [{ cause := cBrandInvalid, flag := flag, z := z, lanes := lanes }] })

/-- The retry of a parked MSNAP or MOUT, whose pages are walked afresh (R327, R258, R250); one whose deferred writes would copy a
line Owned under an ancestor waits for its owner (R301). -/
def retryTile (s : State) (opid : Nat) (op : LongOp) : State :=
  match s.group? op.gid with
  | none => s
  | some g =>
    let mine := decide (g.park = some opid)
    if !s.brandLive op.cx op.brand then
      let s := finishOp s opid op
      match s.group? op.gid with
      | some g => if mine then takeTrap s op.gid g.unpark { cause := cBrandInvalid } else deadBrand s op.gid op.tile op.flag op.exm
      | none => s
    else if decide (op.count ≠ 0) &&
        (recallOf s g op.rec1 op.brand (deferred true) [.ofOffs (op.todo.map (·.1))]).isSome then
      s.setOp opid { op with recalled := true }
    else
      let op := { op with parkNo := 0, pooled := false, recalled := false }
      if op.count = 0 then placeOut s op.gid g opid op (fun g => g.unpark.pass 1)
      else
        placeTile s op.gid g opid { op with count := 1 } []
          (fun g => if !mine then g else if op.kind = .snap || op.count = 2 then g.unpark.pass 1
            else if op.leave then { g with status := .boundary, park := none } else g.unpark)
          (fun s recs =>
            let s := s.setOp opid { ((s.op? opid).getD op) with count := op.count }
            if mine then parkAt s op.gid g (some opid) recs else parkRunning s op.gid g opid recs)

/-! K-steps (R310-R317). -/

/-- What a K-step takes of one row of A: its block products (exponent and integers) and its special elements. -/
structure ARow where
  m : Nat
  prods : List (Nat × List Int)
  specials : List (Nat × FV)
  flags : FFlags

/-- A row block under the A port (R312, R313): none for a malformed element. Where `k` is not the storage dimension of the
blocks, the elements lie in several blocks and each keeps its own exponents (notes/assumptions/104.md). -/
def portA (r : Rec) (p m : Nat) (bytes : Nat → List Byte) (k0 : Nat) : Option ARow :=
  let W := 10 * p
  let es := (List.range 32).map (fun i => aElem r m (k0 + i))
  let parts := es.map (fun e => srcParts r e (bytes e))
  let vals := (es.zip parts).map (fun x => elemValue r.fmt x.2.1 r.sce (r.dither x.1) x.2.2)
  if vals.any Option.isNone then none
  else
    let xs := vals.map (fun v => v.getD badElem)
    let sp := (xs.zipIdx.filter (fun x => isSpecial x.1)).map (fun x => (x.2, x.1))
    let nv : FFlags := if xs.any FV.isSNaN then fNV else 0
    if isPB r.fmt then
      let n := fmtBits r.fmt
      let Es := (parts.flatMap (fun x => [bitsOf x.1 0 8, bitsOf x.1 8 8])).eraseDups
      let lo := Es.foldl min 255
      let sel (x : Nat × Nat) : Nat := if bitsOf x.2 (n - 1) 1 = 1 then bitsOf x.1 8 8 else bitsOf x.1 0 8
      let ints (E : Nat) (all : Bool) : List Int :=
        (xs.zip parts).map (fun x => if all || decide (sel x.2 = E) then (roundScaled E x.1).1 else 0)
      if n - 2 + (Es.foldl max 0 - lo) + 1 ≤ W then some { m := m, prods := [(lo, ints lo true)], specials := sp, flags := nv }
      else some { m := m, prods := Es.map (fun E => (E, ints E false)), specials := sp, flags := nv }
    else
      let e0 := if isInt r.fmt then 127 else if isAQ r.fmt then (parts.map (fun x => bitsOf x.1 0 8)).foldl min 255
        else if isD r.fmt then r.sce - 3 else 0
      let (E, as, f) := fitBlock W e0 xs
      some { m := m, prods := [(E, as)], specials := sp, flags := f ||| nv }

/-- Slab `j` of B: for each column its exponent and its 32 integers (R56); zeros at and beyond N0 (R310). -/
def slabCols (s : State) (gid : Nat) (g : Group) (l : MLoop) (j : Nat) : List (Nat × List Int) :=
  let r : Rec := l.recB
  let sp := (coreStore s gid g r.obj).1
  let rd (o : Nat) : Nat := (readAt s l.cx [] { sp := sp, a := o }).toNat
  (List.range 64).map (fun n =>
    if n < r.size 0 then
      let words := (List.range l.planes).map (fun p =>
        (List.range 4).foldl (fun v b => v + rd (slabWord r n (32 * j) p + b) * 256 ^ b) 0)
      (rd (slabExp r n (32 * j)), (List.range 32).map (fun i =>
        planeInt l.planes ((words.zipIdx).foldl (fun v w => v + bitsOf w.1 i 1 * 2 ^ w.2) 0)))
    else (0, List.replicate 32 0))

def dot (a b : List Int) : Int := (a.zip b).foldl (fun t e => t + e.1 * e.2) 0

/-- The sticky bits and flags of a special element against b (R315). -/
def specialInto (x : BitVec 72) (v : FV) (b : Int) : BitVec 72 × FFlags :=
  match v with
  | .nan _ _ _ => (stick x 65, 0)
  | .inf n =>
    if b = 0 then (stick x 65, fNV)
    else if (decide (0 < b)) = n then (stick x 67, 0) else (stick x 66, 0)
  | .fin _ _ _ => (x, 0)

/-- One cell of the tile after a K-step (R311). -/
def stepCell (anchor : Nat) (row : ARow) (col : Nat × List Int) (x : BitVec 72) : BitVec 72 × FFlags :=
  let y := row.prods.foldl (fun (y : BitVec 72 × FFlags) p =>
    let r := addBlock y.1 (dot p.2 col.2) p.1 col.1 anchor
    (r.1, y.2 ||| r.2)) (x, 0)
  row.specials.foldl (fun (y : BitVec 72 × FFlags) e =>
    let r := specialInto y.1 e.2 (col.2.getD e.1 0)
    (r.1, y.2 ||| r.2)) y

/-- The anchor a loop without one sets at its first K-step (R316). -/
def implicitAnchor (rows : List ARow) (cols : List (Nat × List Int)) (n0 : Nat) : Nat :=
  let ea := rows.foldl (fun m r => r.prods.foldl (fun m p => max m p.1) m) 0
  let eb := (cols.take n0).foldl (fun m c => max m c.1) 0
  min 1023 (ea + eb - 16)

/-- Every cell after a K-step, with the flags raised. -/
def stepTile (anchor : Nat) (rows : List ARow) (cols : List (Nat × List Int)) (el : Sparse (BitVec 72)) :
    Sparse (BitVec 72) × FFlags :=
  rows.foldl (fun acc r => cols.zipIdx.foldl (fun acc c =>
    let i := 64 * r.m + c.2
    let y := stepCell anchor r c.1 (sget 0 acc.1 i)
    (sset 0 acc.1 i y.1, acc.2 ||| y.2)) acc) (el, rows.foldl (fun f r => f ||| r.flags) 0)

/-- A loop is complete, by its last K-step or by a data fault (R323, R333): its flags go to their lanes, unless its
holder has ended (R309). -/
def endLoop (s : State) (core z : Nat) (l : MLoop) : State :=
  let t := s.tile core z
  let s := s.setTile core z { t with loops := t.loops.filter (fun q => decide (q.id ≠ l.id)) }
  let s := dropLeave s (Config.dieOfCore core) l.id
  let s := if t.orphan then s else s.updGroup l.gid (fun g =>
    match l.flag with
    | some f => { (g.countDown f) with
        owed := if l.cflags = 0 then g.owed else g.owed ++ [{ flag := f, lanes := l.exm, bits := l.cflags }] }
    | none => g)
  forgetEnded (freeOrphan s core z) l.gid

/-- A loop pauses at a K-step whose A reads fault in translation (R332). -/
def pauseLoop (s : State) (core z : Nat) (l : MLoop) (bad : List (PageFault × Nat)) : State :=
  let (n, s) := s.take
  let t := s.tile core z
  let s := s.setTile core z { t with loops := t.loops.map (fun q =>
    if q.id = l.id then { q with paused := true, afresh := false, parkNo := n } else q) }
  let s := dropLeave s (Config.dieOfCore core) l.id
  let sorted := bad.foldr insertOff []
  let (cf, sl) : Nat × Nat := (s.group? l.gid).elim (core, 0) (fun g => (g.coreField, g.slice))
  let recs := sorted.zipIdx.map (fun e => faultRec (decide (e.2 + 1 = sorted.length)) e.1.1.mq 5 l.cx l.brand
    (Rec.obj l.recA) e.1.2 l.exm l.iobj l.ioff cf sl 0 e.1.1.cause)
  { s with fq := { s.fq with waiting := s.fq.waiting ++ [recs] } }

/-- The translation of the rows of A that the next K-step of a loop reads, and its faults; after a retry it uses no entry
that a translation cache holds (R258). -/
def stepPages (s : State) (l : MLoop) : Chunks × List (PageFault × Nat) :=
  let a : Rec := l.recA
  let offs := rowOffs a (l.first + l.done)
  let s := if l.afresh then { s with mem := { s.mem with tlb := [] } } else s
  let cs : Chunks := if a.special then [] else translateChunks s l.cx a.obj true offs
  (cs, if a.special then [] else LaneAcc.faults cs (.ofOffs offs))

/-- One K-step of a loop: added whole, paused, or ended by a data fault (R311, R332, R333). -/
def kStep (s : State) (core z : Nat) (l : MLoop) : State :=
  match s.group? l.gid with
  | none => endLoop s core z l
  | some g =>
    let j := l.first + l.done
    let a : Rec := l.recA
    let cs := (stepPages s l).1
    let bad := (stepPages s l).2
    let s := noteTlb s l.cx cs.good
    if !bad.isEmpty then pauseLoop s core z l bad
    else
      let sp := (coreStore s l.gid g a.obj).1
      let place (o : Nat) : PByte := if a.special then { loc := { sp := sp, a := o }, wp := false, brd := false, det := 0 }
        else cs.byte o
      let bytes (e : Nat) : List Byte := (srcOffs a e).map (fun o => readByte s l.cx l.brand [] (place o))
      let rows := (aRows a).map (fun m => portA a l.passes m bytes (32 * j))
      let cols := slabCols s l.gid g l j
      if rows.any Option.isNone || (cols.take (min 64 (Rec.size l.recB 0))).any (fun c => decide (c.1 = 0xFF)) then
        let s := if (s.tile core z).orphan then s else s.updGroup l.gid (fun g => { g with dfaults := g.dfaults ++
          [{ cause := cMatrixFormat, flag := l.flag, z := z, lanes := l.exm }] })
        endLoop s core z l
      else
        let rs := rows.filterMap id
        let t := s.tile core z
        let anchor := t.anchor.getD (implicitAnchor rs cols (min 64 (Rec.size l.recB 0)))
        let (el, f) := stepTile anchor rs cols t.elems
        let l' := { l with done := l.done + 1, afresh := false, cflags := l.cflags ||| f }
        let s := s.setTile core z { t with elems := el, anchor := some anchor, kdone := t.kdone + 1
                                           loops := t.loops.map (fun q => if q.id = l.id then l' else q) }
        if l'.done = l'.steps then endLoop s core z l' else s

/-! The choice of a K-step (R318-R320). -/

/-- TQARB of a cluster, after reset mode 0, hi 4, w0 4. -/
def tqarbOf (s : State) (c : Nat) : Word := sget 0x44 s.care.tqarb c
def tqHi (v : Word) : Nat := (v.extractLsb' 4 4).toNat
def tqW0 (v : Word) : Nat := max 1 (v.extractLsb' 0 4).toNat

/-- An MOUT of the tile for which the loop has done its part is still to take the tile's state, which K-steps after it do
not touch (R326, R331). -/
def outDue (s : State) (core z : Nat) (l : MLoop) : Bool :=
  s.mem.ops.any (fun e => decide (e.2.kind = .out) && decide (e.2.core = core) && decide (e.2.tile = z) &&
    decide (e.2.cx = l.cx) && decide (e.2.count = 0) && !opSaved s e.2 && !e.2.waitsFor l)

/-- The accesses that the next K-step of a loop follows have been performed (R324). -/
def stepFollows (s : State) (l : MLoop) : Bool :=
  l.after.all (fun e => decide (l.done < e.1) || noneLeft s [e.2] [e.2])

/-- Tiles whose earliest outstanding loop is ready, with that loop. -/
def readyTiles (s : State) (core : Nat) : List (Nat × Tile × MLoop) :=
  (s.core core).tiles.filterMap (fun e => match e.2.loops.head? with
    | some l => if !l.paused && !outDue s core e.1 l && s.active l.cx && stepFollows s l && hasLeave s (Config.dieOfCore core) l.id then some (e.1, e.2, l) else none
    | none => none)

/-- The tile chosen within a queue: highest priority, then oldest loop, then lowest number (R318). -/
def bestTile (ts : List (Nat × Tile × MLoop)) : Option (Nat × Tile × MLoop) :=
  ts.foldl (fun b t => match b with
    | none => some t
    | some u => if u.2.1.prio < t.2.1.prio || (u.2.1.prio = t.2.1.prio && decide (t.2.2.id < u.2.2.id)) then some t else b) none

/-- Both queues of a core's engine hold a ready loop (R320). -/
def contended (s : State) (core : Nat) : Bool :=
  let hi := tqHi (tqarbOf s (Config.clusterOf core))
  let ts := readyTiles s core
  ts.any (fun t => decide (hi ≤ t.2.1.prio)) && ts.any (fun t => decide (t.2.1.prio < hi))

/-- WEIGHTED_TILE_CHOICE: the outrider makes the engine's next contended choice (R320). -/
def execWeightedTileChoice (core : Nat) (s : State) : Out :=
  let c := Config.clusterOf core
  let v := tqarbOf s c
  let x := s.core core
  if decide ((v.extractLsb' 30 2) = 1) && contended s core && x.choice.isNone && outriderFree s c then
    let i := x.contended
    let q := if i * tqW0 v / 16 < (i + 1) * tqW0 v / 16 then 0 else 1
    .next (s.setCore core { x with contended := i + 1, choice := some q })
  else .next s

/-- K_STEP: the engine of a core chooses and adds one K-step (R318), but in the cycles that the power limiter withholds
(R392). -/
def execKStep (core : Nat) (s : State) : Out :=
  let idle := withheld s core 4
  let s := countSlot s core 4
  if idle then .next s else
  let v := tqarbOf s (Config.clusterOf core)
  let ts := readyTiles s core
  let q1 := ts.filter (fun t => decide (tqHi v ≤ t.2.1.prio))
  let q0 := ts.filter (fun t => decide (t.2.1.prio < tqHi v))
  let run (s : State) (q : List (Nat × Tile × MLoop)) : Out := match bestTile q with
    | some (z, _, l) => .next (kStep s core z l)
    | none => .next s
  if q1.isEmpty then run s q0
  else if q0.isEmpty then run s q1
  else if (v.extractLsb' 30 2) = 1 then
    match (s.core core).choice with
    | some q => run (s.setCore core { (s.core core) with choice := none }) (if q = 0 then q0 else q1)
    | none => .next s
  else run s q1

/-- A write of TQARB (R319, R320). -/
def tqarbWrite (s : State) (c : Nat) (v : Word) : State :=
  let o := tqarbOf s c
  let mode : BitVec 2 := if (v.extractLsb' 30 2).toNat ≤ 1 then v.extractLsb' 30 2 else o.extractLsb' 30 2
  let hi : BitVec 4 := if 1 ≤ (v.extractLsb' 4 4).toNat ∧ (v.extractLsb' 4 4).toNat ≤ 7 then v.extractLsb' 4 4 else o.extractLsb' 4 4
  let w : Word := mode ++ (0 : BitVec 22) ++ hi ++ v.extractLsb' 0 4
  let s := { s with care := { s.care with tqarb := sset 0x44 s.care.tqarb c w } }
  (List.range Config.coresPerCluster).foldl (fun s i =>
    let k := c * Config.coresPerCluster + i
    s.setCore k { (s.core k) with contended := 0, choice := none }) s

/-- TQARB_WRITE of cluster `c`. -/
def execTqarbWrite (c : Nat) (v : Word) (s : State) : Out := .next (if c < Config.clusters then tqarbWrite s c v else s)

/-- Paused loops that satisfy `f`, as (park number, core, tile). -/
def pausedLoops (s : State) (f : MLoop → Bool) : List (Nat × Nat × Nat) :=
  s.cores.flatMap (fun c => c.2.tiles.flatMap (fun t =>
    (t.2.loops.filter (fun l => l.paused && f l)).map (fun l => (l.parkNo, c.1, t.1))))

/-- A paused loop retried: its brand must still be live (R297), and its K-step walks afresh, and one that faults again writes new records; else it asks for leave
and is ready at its paused K-step (R258, R332, R390). -/
def retryLoop (s : State) (core z no : Nat) : State :=
  let t := s.tile core z
  match t.loops.find? (fun l => l.paused && decide (l.parkNo = no)) with
  | some l =>
    let bad := (stepPages s { l with afresh := true }).2
    if !s.brandLive l.cx l.brand then
      endLoop (if t.orphan then s else deadBrand s l.gid z l.flag l.exm) core z l
    else if !bad.isEmpty then pauseLoop s core z l bad
    else
      let s := s.setTile core z { t with loops := t.loops.map (fun q =>
        if q.id = l.id then { q with paused := false, afresh := true, parkNo := 0 } else q) }
      askLeave s (Config.dieOfCore core) l.id
  | none => s

end Sys2Proof.Machine
end

