-- ==== Sys2Proof/Machine/Barrier.lean ====
section
/-! DEFINITION. Barriers (R336-R342). -/
namespace Sys2Proof.Machine

def barNode (s : State) (lv id : Nat) : BarNode :=
  (s.k.bars.find? (fun n => decide (n.lv = lv) && decide (n.id = id))).getD
    { lv := lv, id := id, gen := 0, members := [], arr := [] }

def setBar (s : State) (n : BarNode) : State :=
  { s with k := { s.k with bars := n :: s.k.bars.filter (fun m => !(decide (m.lv = n.lv) && decide (m.id = n.id))) } }

/-- A block counts in the open generation of a cluster node: as a member, or by an arrival of its groups. -/
def BarNode.counts (n : BarNode) (s : State) (b : Nat) : Bool :=
  decide (n.lv = 1) && !n.arr.isEmpty &&
    (n.members.contains b || n.arr.any (fun a => (s.group? a.1).elim false (fun g => decide (g.block = b))))

/-- Blocks of a grid resident on a cluster (R337), but for those that a RESUME put there and that still count at the node
of another (R343). -/
def blocksOn (s : State) (grid cluster : Nat) : List Nat :=
  (s.k.blocks.filter (fun b => decide (b.2.grid = grid) && !b.2.saved &&
    (b.2.cores.head?).elim false (fun c => decide (Config.clusterOf c = cluster)) &&
    !s.k.bars.any (fun n => decide (n.id / 32 = grid) && decide (n.id % 32 ≠ cluster) && n.counts s b.1))).map (·.1)

/-- The blocks a generation of a barrier waits for. -/
def barBlocks (s : State) (n : BarNode) : List Nat :=
  match n.lv with
  | 0 => [n.id]
  | 1 => n.members.filter (fun b => (s.block? b).isSome)
  | _ => (s.k.blocks.filter (fun b => decide (b.2.grid = n.id))).map (·.1)

/-- Groups of a block that have not ended. -/
def liveGroups (s : State) (b : Nat) : List Nat :=
  ((s.block? b).elim [] (·.groups)).filter (fun g => (s.group? g).elim false (fun g => decide (g.status ≠ .ended)))

/-- The members of a generation: groups of its blocks that have not ended. -/
def barMembers (s : State) (n : BarNode) : List Nat := (barBlocks s n).flatMap (liveGroups s)

/-- The ordering scope of a level: BLOCK, CLUSTER, DEVICE (R337). -/
def barScope (lv : Nat) : Nat := match lv with
  | 0 => 1
  | 1 => 2
  | _ => 4

/-- Every block of a cooperative grid has been placed (R337). -/
def allPlaced (s : State) (lv id : Nat) : Bool :=
  decide (lv ≠ 2) || (s.grid? id).elim false (fun g => decide (g.nextBlock = g.blocks))

/-- A generation is complete: every member has arrived and its release is performed (R338, R339). -/
def barDone (s : State) (n : BarNode) : Bool :=
  let ms := barMembers s n
  !n.arr.isEmpty && allPlaced s n.lv n.id && ms.all (fun g => n.arr.any (fun a => decide (a.1 = g))) &&
    ms.all (fun g => releaseReady s g (barScope n.lv)) && n.arr.any (fun a => ms.contains a.1)

/-- The member BARL elects (R342): in deterministic mode the lowest GIDX, else the last arrival. -/
def elected (s : State) (arr : List (Nat × Option Nat)) : Option Nat :=
  let bs := (arr.filter (fun a => a.2.isSome)).map (·.1)
  let gidx (g : Nat) : Nat := (s.group? g).elim 0 (·.gidx)
  match bs.getLast? with
  | none => none
  | some l =>
    if (s.group? l).elim false (detOf s) then some (bs.foldl (fun (m g : Nat) => if gidx g < gidx m then g else m) l) else some l

/-- One member goes on, with the acquire of the completion (R339, R341). -/
def releaseMember (s : State) (sc : Nat) (el : Option Nat) (a : Nat × Option Nat) : State :=
  match s.group? a.1 with
  | none => s
  | some g =>
    let g := match a.2 with
      | some r => g.sset' r (if el = some a.1 then 1 else 0)
      | none => g
    doAcquire (s.setGroup a.1 (g.pass 1)) g.core g.cx sc

/-- The completion of a generation. Blocks placed since it began, and their arrivals, belong to the next (R337, R338). -/
def completeBar (s : State) (n : BarNode) : State :=
  let ms := barMembers s n
  let s := if n.lv = 2 then commitApply s n.id else s
  let mine := n.arr.filter (fun a => ms.contains a.1)
  let rest := n.arr.filter (fun a => !ms.contains a.1)
  let el := elected s mine
  let s := mine.foldl (fun s a => releaseMember s (barScope n.lv) el a) s
  let late := rest.filterMap (fun a => (s.group? a.1).map (·.block))
  setBar s { n with gen := n.gen + 1, arr := rest
                    members := if rest.isEmpty then [] else (blocksOn s (n.id / 32) (n.id % 32) ++ late).eraseDups }

/-- BARRIER_COMPLETE of level `lv` and node `b` (R338). -/
def execBarrierComplete (lv b : Nat) (s : State) : Out :=
  let n := barNode s lv b
  let running : Bool := (n.arr.head?.bind (fun a => s.group? a.1)).elim false (fun g =>
    decide ((s.ctx g.cx).st = 1) || decide ((s.ctx g.cx).st = 2))
  .next (if barDone s n && running then completeBar s n else s)

/-- An arrival of the current group (R338): a release whose performance the completion awaits. -/
def arrive (s : State) (g : Group) (lv id : Nat) (reg : Option Nat) : State :=
  let n := barNode s lv id
  let n := if lv = 1 && n.arr.isEmpty then { n with members := blocksOn s (id / 32) (id % 32) } else n
  (setBar s { n with arr := n.arr ++ [(s.cur, reg)] }).setGroup s.cur { g.counted with status := .barrier }

def execBar (s : State) : Out :=
  issue s (fun _ => {}) (fun _ => none) (fun s g => arrive s g 0 g.block none)

def execBarl (c : BitVec 7) (s : State) : Out :=
  issue s (fun _ => { sc := [c.toNat] }) (fun _ => none) (fun s g => arrive s g 0 g.block (some (g.sreg c)))

/-- Whether a launch record has `coop` = 1 (R133). -/
def Grid.coop (g : Grid) : Bool := g.lrec.getLsbD 656

/-- The cluster node a BARG arrives at: the one in whose open generation its block counts, which a RESUME keeps wherever
the block returns (R106, R337, R343), else its cluster's. -/
def clusterNode (s : State) (g : Group) : Nat :=
  match s.k.bars.find? (fun n => decide (n.id / 32 = g.grid) && n.counts s g.block) with
  | some n => n.id
  | none => g.grid * 32 + Config.clusterOf g.core

def execBarg (s : State) : Out :=
  issue s (fun _ => {}) (fun _ => none) (fun s g =>
    if (s.grid? g.grid).elim false Grid.coop then arrive s g 2 g.grid none
    else arrive s g 1 (clusterNode s g) none)

end Sys2Proof.Machine
end

