-- ==== Sys2Proof/Machine/Rein.lean ====
section
/-! DEFINITION. The slots of a rein: channel entries (R356-R358), buffered streams and claims (R352, R376), stops and parks
(R370, R371), the end of a slot (R372, R380), and the evaluation and readiness of a chunk (R364, R365). -/
namespace Sys2Proof

open Machine

/-! The fields of a frame (R353). -/

def Frame.crc (f : Frame) : Nat := bitsOf f.side.toNat 40 24
def Frame.seq (f : Frame) : Nat := bitsOf f.side.toNat 29 11
def Frame.ack (f : Frame) : Nat := bitsOf f.side.toNat 18 11
def Frame.vc (f : Frame) : Nat := bitsOf f.side.toNat 14 4
def Frame.cvc (f : Frame) : Nat := bitsOf f.side.toNat 10 4
def Frame.cv (f : Frame) : Bool := f.side.getLsbD 9
def Frame.ft (f : Frame) : Nat := bitsOf f.side.toNat 6 3
def Frame.nb (f : Frame) : Nat := bitsOf f.side.toNat 0 6

/-- The valid bytes of a data frame. -/
def Frame.bytes (f : Frame) : List Byte := (bytesOfNat 64 f.flit.toNat).take (f.nb + 1)

end Sys2Proof

namespace Sys2Proof.Machine

def State.slot (s : State) (n sl : Nat) : Slot := sget Slot.free (s.rein n).slots sl
def State.setSlot (s : State) (n sl : Nat) (x : Slot) : State :=
  let r := s.rein n
  s.setRein n { r with slots := sset Slot.free r.slots sl x }

def Slot.g (x : Slot) (a : BitVec 5) : Word64 := sget 0 x.G a.toNat
def Slot.setG (x : Slot) (a : BitVec 5) (v : Word64) : Slot := { x with G := sset 0 x.G a.toNat v }
def Slot.ent (x : Slot) (e : Nat) : Word64 := sget 0 x.chan e
def Slot.allow (x : Slot) (e : Nat) : Nat := sget 0 x.alw e

/-! Channel entries (R356, R357). -/

def entDev (x : Word64) : Nat := bitsOf x.toNat 49 10
def entPrn (x : Word64) : Nat := bitsOf x.toNat 44 5
def entPvc (x : Word64) : Nat := bitsOf x.toNat 40 4
def entAlw (x : Word64) : Nat := bitsOf x.toNat 29 11
def entObj (x : Word64) : Nat := bitsOf x.toNat 36 24
def entOff (x : Word64) : Nat := 8 * bitsOf x.toNat 0 36

/-- An object address (R111). -/
def objAddr (obj off : Nat) : Nat := obj * 2 ^ 40 + off

/-- A peer entry suits an instruction that needs the permissions at `bits`, on a rein that is not down (R358). -/
def peerOk (x : Word64) (down : Bool) (bits : List Nat) : Bool :=
  x.getLsbD 63 && !x.getLsbD 62 && decide (bitsOf x.toNat 0 29 = 0) && bits.all (fun b => x.getLsbD b) &&
    decide (1 ≤ entAlw x) && decide (entAlw x ≤ 1024) && !down

/-- A signal entry suits an instruction that needs permission `b` (R358, R365). -/
def signalOk (x : Word64) (b : Nat) : Bool :=
  x.getLsbD 63 && x.getLsbD 62 && x.getLsbD b && decide (entObj x < 0xFFFFF0)

/-- The sender a slot's peer entry names, within the slot's communicator. -/
def Slot.sender (x : Slot) (e : Nat) : Nat × Nat × Nat := (x.comm, entDev (x.ent e), entPrn (x.ent e))

/-- Entries that take part in claims (R375). -/
def Slot.paEntries (x : Slot) : List Nat :=
  (List.range 16).filter (fun e => (x.ent e).getLsbD 63 && !(x.ent e).getLsbD 62 && (x.ent e).getLsbD 59)

/-- Entries that receive from a sender. -/
def Slot.names (x : Slot) (k : Nat × Nat × Nat) : Bool :=
  (List.range 16).any (fun e => (x.ent e).getLsbD 63 && !(x.ent e).getLsbD 62 &&
    ((x.ent e).getLsbD 60 || (x.ent e).getLsbD 59) && decide (x.sender e = k))

/-- Slots of a rein that hold a program, the saved ones too. -/
def Rein.live (r : Rein) : List Slot := (r.slots.map (·.2)).filter (fun x => decide (x.st ≠ 0)) ++ r.saved

/-- Flits of `n` bytes (R352). -/
def flitsOf (n : Nat) : Nat := (n + 63) / 64

/-! Streams. -/

def Stream.key (t : Stream) : Nat × Nat × Nat := (t.comm, t.dev, t.prn)
def Claim.key (t : Claim) : Nat × Nat × Nat := (t.comm, t.dev, t.prn)

/-- The packet whose slot takes a run (R353): each packet has one slot on a rein. -/
def Rein.ownerOf (r : Rein) (run : Nat) : Option Nat := (r.owners.find? (fun e => decide (e.1 = run))).map (·.2)

/-- The bytes of a sender that slot `x` may take: those of no run that another slot takes (R353). -/
def Rein.forSlot (r : Rein) (x : Slot) (k : Nat × Nat × Nat) (t : Stream) : Bool :=
  decide (t.key = k) && (r.ownerOf t.run).elim true (fun p => decide (p = x.pkt))

/-- Stream bytes a rein holds from a sender for a slot. -/
def Rein.buffered (r : Rein) (x : Slot) (k : Nat × Nat × Nat) : Nat :=
  ((r.streams.filter (r.forSlot x k)).map (fun t => t.bytes.length)).foldl (· + ·) 0

/-- The runs that the next `n` bytes lie in. -/
def takeRuns (ok : Stream → Bool) : Nat → List Stream → List Nat
  | _, [] => []
  | n, t :: r => if ok t ∧ n ≠ 0 then t.run :: takeRuns ok (n - t.bytes.length) r else takeRuns ok n r

/-- The next `n` bytes of the streams that satisfy `ok`, what is left, and the flits emptied. -/
def takeFlits (ok : Stream → Bool) : Nat → List Stream → List Byte × List Stream × List Stream
  | _, [] => ([], [], [])
  | n, t :: r =>
    if ok t ∧ n ≠ 0 then
      let (bs, l, d) := takeFlits ok (n - t.bytes.length) r
      if t.bytes.length ≤ n then (t.bytes ++ bs, l, t :: d)
      else (t.bytes.take n, { t with bytes := t.bytes.drop n } :: r, [])
    else
      let (bs, l, d) := takeFlits ok n r
      (bs, t :: l, d)

/-- Allowance and credits returned for flits taken from the buffers (R351, R355). -/
def Rein.owe (r : Rein) (d : List Stream) : Rein :=
  { r with alwOut := r.alwOut ++ d.map (fun t => (t.comm, t.dev, t.prn, t.sent)), owedCredits := r.owedCredits ++ d.map (·.vc) }

/-- The flits of a claim message, for what it is owed. -/
def Claim.flits (c : Claim) : List Stream :=
  List.replicate (flitsOf c.bytes.length) { comm := c.comm, dev := c.dev, prn := c.prn, sent := c.sent, vc := c.vc, run := 0, bytes := [] }

def RunHdr.key (h : RunHdr) : Nat × Nat × Nat := (h.comm, h.dev, h.prn)

/-- The part of a claim message that a run has brought so far. -/
def RunHdr.claim (h : RunHdr) : Claim :=
  { comm := h.comm, dev := h.dev, prn := h.prn, sent := h.sent, vc := h.vc, mark := false, bytes := h.part }

/-- What has arrived from a sender for slot `x` is discarded, a message in part too, and what arrives later of its runs or from it
will be (R372, R380). -/
def Rein.discard (r : Rein) (x : Slot) (k : Nat × Nat × Nat) : Rein :=
  let gone := r.streams.filter (fun t => decide (t.key = k))
  let open_ := r.runs.filter (fun h => decide (h.key = k))
  let msgs := r.claims.filter (fun c => decide (c.key = k)) ++ open_.map RunHdr.claim
  let r := { r with streams := r.streams.filter (fun t => !decide (t.key = k))
                    claims := r.claims.filter (fun c => !decide (c.key = k))
                    runs := r.runs.map (fun (h : RunHdr) => if h.key = k then { h with part := [] } else h)
                    owners := r.owners ++ (open_.filter (fun (h : RunHdr) => (r.ownerOf h.run).isNone)).map (fun (h : RunHdr) => (h.run, x.pkt))
                    dead := if r.dead.contains k then r.dead else r.dead ++ [k] }
  r.owe (gone ++ msgs.flatMap Claim.flits)

/-- A run goes to a slot that is gone (R372, R380). -/
def Rein.lostRun (r : Rein) (run : Nat) : Bool :=
  (r.ownerOf run).elim false (fun p => !(r.live.any (fun x => decide (x.pkt = p))))

/-- What has arrived of the runs that slot `x` was taking is discarded (R372, R380). -/
def Rein.discardRuns (r : Rein) (x : Slot) : Rein :=
  let mine (t : Stream) : Bool := decide (r.ownerOf t.run = some x.pkt)
  { r with streams := r.streams.filter (fun t => !mine t) }.owe (r.streams.filter mine)

/-! Frames delivered (R351-R353, R376). -/

/-- The run open on a virtual channel. -/
def Rein.run (x : Rein) (vc : Nat) : Option RunHdr := x.runs.find? (fun h => decide (h.vc = vc))

/-- A run header: a run opens on its channel, which is bound to its communicator (R351, R353). -/
def Rein.openRun (x : Rein) (f : Frame) : Rein :=
  let v := f.flit.toNat
  let comm := bitsOf v 0 12
  let h : RunHdr := { vc := f.vc, run := x.nRun, comm := comm, dev := bitsOf v 25 10, prn := bitsOf v 35 5
                      sent := bitsOf v 40 4, clm := decide (bitsOf v 44 1 = 1), det := decide (bitsOf v 45 1 = 1), part := [] }
  let runs := h :: x.runs.filter (fun g => decide (g.vc ≠ f.vc))
  { x with
    runs := runs, nRun := x.nRun + 1
    owners := x.owners.filter (fun e => runs.any (fun g => decide (g.run = e.1)) || x.streams.any (fun t => decide (t.run = e.1)))
    vcComm := if x.dead.contains (comm, h.dev, h.prn) then x.vcComm else sset 0 x.vcComm f.vc (comm + 1) }

/-- A data frame or a round marker of run `h`. -/
def Rein.putFrame (x : Rein) (h : RunHdr) (f : Frame) : Rein :=
  let seg : Stream := { comm := h.comm, dev := h.dev, prn := h.prn, sent := h.sent, vc := f.vc, run := h.run, bytes := f.bytes }
  let claim (m : Bool) (bs : List Byte) : Claim :=
    { comm := h.comm, dev := h.dev, prn := h.prn, sent := h.sent, vc := f.vc, mark := m, bytes := bs }
  let part (bs : List Byte) : List RunHdr := x.runs.map (fun g => if g.vc = f.vc then { h with part := bs } else g)
  if f.ft = 3 then
    if h.clm && !x.dead.contains seg.key && !x.lostRun h.run then { x with claims := x.claims ++ [claim true []] } else x
  else if x.dead.contains seg.key || x.lostRun h.run then x.owe [seg]
  else if !h.clm then { x with streams := x.streams ++ [seg] }
  else if f.ft = 1 then { x with claims := x.claims ++ [claim false (h.part ++ f.bytes)], runs := part [] }
  else { x with runs := part (h.part ++ f.bytes) }

/-- A frame of a virtual channel delivered. -/
def Rein.deliver (x : Rein) (f : Frame) : Rein :=
  if 4 ≤ f.ft then x
  else if f.ft = 2 then x.openRun f
  else (x.run f.vc).elim x (fun h => x.putFrame h f)

/-- A frame for a channel that is bound to another communicator, or behind such a frame, waits on the sending rein and has
no credit (R351). -/
def Rein.barred (x : Rein) (f : Frame) : Bool :=
  decide (f.ft < 4) && (x.held.any (fun g => decide (g.vc = f.vc)) ||
    (decide (f.ft = 2) && decide (sget 0 x.vcComm f.vc ≠ 0) && decide (sget 0 x.vcComm f.vc ≠ bitsOf f.flit.toNat 0 12 + 1)))

def Rein.takeOrHold (x : Rein) (f : Frame) : Rein := if x.barred f then { x with held := x.held ++ [f] } else x.deliver f

/-- A message put among messages that complete in the same cycle, the lower `dev` first, then the lower `prn` (R376). -/
def Claim.insert (c : Claim) : List Claim → List Claim
  | [] => [c]
  | d :: r => if c.dev < d.dev ∨ (c.dev = d.dev ∧ c.prn < d.prn) then c :: d :: r else d :: Claim.insert c r

/-- Frames that waited for their channel are taken once it is free; the messages they complete are queued in the order that R376 gives
to one cycle (R351). -/
def Rein.takeHeld (x : Rein) : Rein :=
  let y := x.held.foldl Rein.takeOrHold { x with held := [] }
  { y with claims := x.claims ++ (y.claims.drop x.claims.length).foldl (fun l c => c.insert l) [] }

/-! Claims (R376). -/

/-- What has arrived for a slot's claim entries, with the entry, in order of arrival. -/
def claimItems (r : Rein) (x : Slot) : List (Nat × Claim) :=
  r.claims.filterMap (fun c => ((x.paEntries).find? (fun e => decide (x.sender e = c.key))).map (·, c))

/-- Items of the round: those of each entry up to its first marker. -/
def roundItems (items : List (Nat × Claim)) : List (Nat × Claim) :=
  (items.foldl (fun (acc : List (Nat × Claim) × List Nat) i =>
    if acc.2.contains i.1 then acc
    else if i.2.mark then (acc.1, i.1 :: acc.2) else (acc.1 ++ [i], acc.2)) ([], [])).1

/-- Every claim entry has sent its round marker. -/
def roundEnded (x : Slot) (items : List (Nat × Claim)) : Bool :=
  x.paEntries.all (fun e => items.any (fun i => decide (i.1 = e) && i.2.mark))

/-- Messages that can be granted, in claim order. -/
def grantable (x : Slot) (items : List (Nat × Claim)) : List (Nat × Claim) :=
  if x.det then
    if roundEnded x items then x.paEntries.flatMap (fun e => (roundItems items).filter (fun i => decide (i.1 = e))) else []
  else roundItems items

/-- The round is over: its markers leave the queue. -/
def Rein.nextRound (r : Rein) (x : Slot) : Rein :=
  { r with claims := (x.paEntries.map x.sender).eraseDups.foldl (fun l k =>
      match l.find? (fun c => decide (c.key = k) && c.mark) with
      | some c => l.erase c
      | none => l) r.claims }

/-! Words of an image (R359, R378). -/

/-- The kind of each word position: 0 boundary, 1 body, 2 the extension word of a boundary SETG (R359). -/
def wordKinds : Nat → Bool → List Word → List Nat
  | _, _, [] => []
  | n + 1, x, _ :: r => 1 :: wordKinds n x r
  | 0, true, _ :: r => 2 :: wordKinds 0 false r
  | 0, false, w :: r =>
    0 :: wordKinds (if (w.extractLsb' 27 5).toNat = 1 then (w.extractLsb' 0 17).toNat else 0)
      (decide ((w.extractLsb' 27 5).toNat = 3)) r

/-- Words a body may hold (R364). -/
def bodyKind : Instr → Bool
  | .nextW | .setg .. | .setgHi .. | .addg .. | .waits .. | .sigs .. | .xmit .. | .xmitA .. | .stow .. | .stowA .. | .fold ..
  | .foldf .. => true
  | _ => false

/-- The words of a body of `left` words at `pc` of an image, each with the word that a fault of it names; none for one
that is no instruction. A body that passes the image's last word fails at its CHUNK `at_` (R365). -/
def bodyOf (ws : List Word) (at_ : Nat) : Nat → Nat → Nat → List (Nat × Option Instr)
  | 0, _, _ => []
  | f + 1, pc, left =>
    if left = 0 then []
    else
      let n := if reinExt (ws.getD pc 0) then 2 else 1
      if ws.length < pc + n then [(at_, none)]
      else (pc, if left < n then none else decodeReinWords ((ws.drop pc).take n)) :: bodyOf ws at_ f (pc + n) (left - n)

/-- Bytes a word sends and to which entry. -/
def sends : Instr → Option (Nat × Nat)
  | .xmit _ _ e c | .xmitA _ _ e _ c => some (e.toNat, 4 * c.toNat)
  | .foldf _ _ _ f _ _ c => some (f.toNat, 4 * c.toNat)
  | _ => none

/-- Bytes a word takes from an entry's stream. -/
def takes : Instr → Option (Nat × Nat)
  | .stow _ _ e c | .fold _ _ e _ _ c | .foldf _ _ e _ _ _ c => some (e.toNat, 4 * c.toNat)
  | _ => none

/-- The G register that holds a memory instruction's object address. -/
def memReg : Instr → Option (BitVec 5)
  | .xmit a _ _ _ | .xmitA a _ _ _ _ | .stow a _ _ _ | .stowA a _ _ _ | .fold a _ _ _ _ _ | .foldf a _ _ _ _ _ _ => some a
  | _ => none

/-- Bytes a word moves at most (R364). -/
def moved (i : Instr) : Nat :=
  (sends i).elim 0 (·.2) + (takes i).elim 0 (·.2) + (match i with
    | .stowA _ _ _ c => 4 * c.toNat
    | _ => 0)

/-- The channel entries of a word suit it (R358). -/
def channelsOk (x : Slot) (down : Bool) : Instr → Bool
  | .xmit _ _ e _ => peerOk (x.ent e.toNat) down [61]
  | .xmitA _ _ e _ _ => peerOk (x.ent e.toNat) down [61, 59]
  | .stow _ _ e _ | .fold _ _ e _ _ _ => peerOk (x.ent e.toNat) down [60]
  | .foldf _ _ e f _ _ _ => peerOk (x.ent e.toNat) down [60] && peerOk (x.ent f.toNat) down [61]
  | .waits _ e _ => signalOk (x.ent e.toNat) 60
  | .sigs _ e _ _ _ _ => signalOk (x.ent e.toNat) 61
  | _ => true

/-- The first failure of a body in its order, with the word at fault (R365): what has been sent to each entry and the
bytes moved are counted along. -/
def bodyFault (x : Slot) (down : Bool) : Sparse Nat → Nat → List (Nat × Option Instr) → Option (Nat × Cause)
  | _, _, [] => none
  | _, _, (p, none) :: _ => some (p, cReinIllegal)
  | sent, total, (p, some i) :: r =>
    let sent := (sends i).elim sent (fun e => supd 0 sent e.1 (· + flitsOf e.2))
    let total := total + moved i
    if !bodyKind i || decide (i = .nextW) != r.isEmpty then some (p, cReinIllegal)
    else if !channelsOk x down i then some (p, cReinChannel)
    else if (memReg i).elim false (fun a => decide (0xFFFFF0 ≤ objOf (x.g a).toNat)) then some (p, cReinIllegal)
    else if (sends i).elim false (fun e => decide (entAlw (x.ent e.1) < sget 0 sent e.1)) then some (p, cReinIllegal)
    else if 262144 < total then some (p, cReinIllegal)
    else bodyFault x down sent total r

/-- The body of the chunk at the slot's PC. -/
def Slot.body (x : Slot) : List (Nat × Option Instr) :=
  let n := ((x.words.getD x.pc 0).extractLsb' 0 8).toNat
  bodyOf x.words x.pc (n + 1) (x.pc + 1) n

/-! Stops, parks and the end of a slot. -/

/-- The fault record of a slot at word `p` (R254, R370). -/
def slotRecord (n sl : Nat) (x : Slot) (p : Nat) (cause : Cause) (mq : Bool) (b obj off : Nat) : BitVec 256 :=
  faultRec true mq 7 x.cx b obj off 0 x.img (128 * x.blocks + 4 * p) n sl 0 cause

/-- The cause a rein reports for a page that does not translate (R370). -/
def reinCause (c : Cause) : Cause := if c = cPageMissing then cReinPageMissing else c

/-- Peer traffic of the current word given up; bytes written stand, and a region record is read again if none is (R375). -/
def Slot.dropPeer (x : Slot) : Slot :=
  { x with asked := 0, peerSent := 0, pgot := [], issued := false, fwd := x.fwd.take ((x.written + 3) / 4 * 4)
           region := if x.written = 0 then none else x.region }

/-- Answers still awaited by a slot belong to no one. -/
def Rein.forget (r : Rein) (sl : Nat) : Rein := { r with msPend := r.msPend.map (fun e => if e.1 = sl then (8, e.2) else e) }

/-- The sequencer leaves slot `sl`. -/
def Rein.leave (r : Rein) (sl : Nat) : Rein := if r.running = some sl then { r with running := none } else r

/-- A slot stops (5) or parks (4) at its instruction, its record naming word `p`: the lines it owns and has not written
are released (R370, R371). -/
def haltSlot (s : State) (n sl st p : Nat) (cause : Cause) (mq : Bool) (b obj off : Nat) : State :=
  let s := dropAll s (reinAgent n sl)
  let (k, s) := s.take
  let x := s.slot n sl
  let s := s.setRein n (((s.rein n).forget sl).leave sl)
  let s := s.setSlot n sl { x.dropPeer with st := st, cause := cause, parkNo := if st = 4 then k else 0
                                            pooled := decide (cause = cPoolEmpty) }
  { s with fq := { s.fq with waiting := s.fq.waiting ++ [[slotRecord n sl x p cause mq b obj off]] } }

def stopSlot (s : State) (n sl : Nat) (cause : Cause) (b obj off : Nat) : State :=
  haltSlot s n sl 5 (s.slot n sl).pc cause false b obj off

def parkSlot (s : State) (n sl : Nat) (f : PageFault) (b obj off : Nat) : State :=
  haltSlot s n sl 4 (s.slot n sl).pc (reinCause f.cause) f.mq b obj off

/-- The packet of a slot that has ended: the first abort's cause, and its completion with the last slot (R372, R377). -/
def slotGone (s : State) (pkt : Nat) (n sl : Nat) (aborted : Option Cause) : State :=
  match s.pkt? pkt with
  | none => s
  | some k =>
    let c : BitVec 8 := match aborted with
      | some a => if k.cause ≠ 0 then k.cause else if a = 0 then cReinChannel else a
      | none => k.cause
    let k := { k with cause := c, slots := k.slots.erase (n, sl) }
    let s := s.setPkt pkt k
    if k.slots.isEmpty && !k.loading then finishPacket (commitApply s pkt) pkt 0 else s

/-- What a rein keeps of a slot that is gone: its runs, and streams no other slot of its communicator takes, are discarded,
and the communicator's channels are unbound with its last slot and take what has waited for them (R351, R372, R380). -/
def Rein.without (r : Rein) (x : Slot) : Rein :=
  let rest := r.live
  let r := ((List.range 16).map x.sender).eraseDups.foldl (fun r k =>
    if x.names k && !rest.any (fun y => decide (y.comm = x.comm) && y.names k) then r.discard x k else r) (r.discardRuns x)
  if rest.any (fun y => decide (y.comm = x.comm)) then r
  else { r with vcComm := r.vcComm.filter (fun e => decide (e.2 ≠ x.comm + 1)) }.takeHeld

/-- A slot becomes free (R363): by HALT, or by an abort (R372). Its register SLCTL keeps `step`. -/
def freeSlot (s : State) (n sl : Nat) (aborted : Bool) : State :=
  let x := s.slot n sl
  let s := dropAll s (reinAgent n sl)
  let s := s.setSlot n sl { Slot.free with step := x.step }
  let r := ((s.rein n).forget sl).leave sl
  let r := match x.claimed with
    | some c => r.owe c.flits
    | none => r
  slotGone (s.setRein n (r.without x)) x.pkt n sl (if aborted then some x.cause else none)

/-! Evaluation and readiness of a chunk. -/

/-- The bytes of the signal of entry `e` of a slot; a sequencer reaches every tier (R249, R357). -/
def signalBytes (s : State) (x : Slot) (e : Nat) : Except PageFault (List PByte) :=
  agentBytes s x.cx (objAddr (entObj (x.ent e)) (entOff (x.ent e))) 8 false

/-- Peer bytes among `ps` that a slot has not been answered for. -/
def needsPeer (x : Slot) (ps : List PByte) : Bool :=
  ps.any (fun p => p.loc.sp.isPeer && !x.pgot.any (fun e => decide (e.1 = p.loc)))

/-- The bytes among `ps` that a read under brand `b` finds in a peer's memory (R300, R354). -/
def viaPeer (s : State) (cx b : Nat) (ps : List PByte) : List PByte := ps.filter (fun p => (resolve s cx b p).2.sp.isPeer)

/-- A signal's value, as last answered where it lies in a peer's memory. -/
def signalRead (s : State) (x : Slot) (ps : List PByte) : Word64 :=
  BitVec.ofNat 64 (natOfBytes (ps.map (readByte s x.cx 0 x.pgot)))

/-- A signal test of WAITS (R383): the value holds, or the page that does not translate. A peer's value that has not been
answered does not hold. -/
def waitHolds (s : State) (x : Slot) (a : BitVec 5) (e : BitVec 4) (c : BitVec 2) : Except PageFault Bool :=
  match signalBytes s x e.toNat with
  | .error f => .error f
  | .ok ps => .ok (!needsPeer x ps && sigCond c.toNat (signalRead s x ps) (x.g a))

/-- The channel entry of a signal word. -/
def signalEntry : Instr → Option Nat
  | .waits _ e _ | .sigs _ e _ _ _ _ => some e.toNat
  | _ => none

/-- The peer bytes that the WAITS of a waiting slot's chunk test (R249, R383). -/
def waitPeer (s : State) (x : Slot) : List PByte :=
  (x.body.flatMap (fun w => match w.2 with
    | some (.waits _ e _) => ((signalBytes s x e.toNat).toOption.getD []).filter (·.loc.sp.isPeer)
    | _ => [])).eraseDups

/-- The WAITS of a waiting slot whose signal holds byte `l`, as its park names it. -/
def waitAt (s : State) (x : Slot) (l : Loc) : Nat × PageFault × BitVec 4 :=
  ((x.body.filterMap (fun w => match w.2 with
    | some (.waits _ e _) =>
      if ((signalBytes s x e.toNat).toOption.getD []).any (fun p => decide (p.loc = l)) then some (w.1, e) else none
    | _ => none)).head?).elim (x.pc, { cause := cRemotePage, lg := false, mq := false }, 0)
      (fun w => (w.1, { cause := cRemotePage, lg := false, mq := false }, w.2))

/-- The first WAITS of a body whose walk fails, with its word. -/
def waitFault (s : State) (x : Slot) : List (Nat × Option Instr) → Option (Nat × PageFault × BitVec 4)
  | [] => none
  | (p, some (.waits a e c)) :: r =>
    match waitHolds s x a e c with
    | .error f => some (p, f, e)
    | .ok _ => waitFault s x r
  | _ :: r => waitFault s x r

/-- A slot parks at its CHUNK for the walk of a WAITS (R383). -/
def parkAtChunk (s : State) (n sl : Nat) (f : Nat × PageFault × BitVec 4) : State :=
  let x := s.slot n sl
  haltSlot s n sl 4 f.1 (reinCause f.2.1.cause) f.2.1.mq 0 (entObj (x.ent f.2.2.toNat)) (entOff (x.ent f.2.2.toNat))

/-- The chunk at the slot's PC is evaluated (R365): the slot waits, stops or parks. -/
def evaluate (s : State) (n sl : Nat) : State :=
  let x := s.slot n sl
  let s := s.setRein n ((s.rein n).leave sl)
  match bodyFault x (decide ((s.rein n).link = 2)) [] 0 x.body with
  | some (p, c) => haltSlot s n sl 5 p c false 0 0 0
  | none =>
    match waitFault s x x.body with
    | some f => parkAtChunk s n sl f
    | none => s.setSlot n sl { x with st := 2, justGo := false, boundary := 0, parkNo := 0, pooled := false }

/-- The flits a body sends to entry `e`. -/
def bodySends (b : List (Nat × Option Instr)) (e : Nat) : Nat :=
  (b.map (fun w => ((w.2.bind sends).filter (fun x => decide (x.1 = e))).elim 0 (fun x => flitsOf x.2))).foldl (· + ·) 0

/-- The bytes a body takes from a sender. -/
def bodyTakes (x : Slot) (b : List (Nat × Option Instr)) (k : Nat × Nat × Nat) : Nat :=
  (b.map (fun w => ((w.2.bind takes).filter (fun t => decide (x.sender t.1 = k))).elim 0 (·.2))).foldl (· + ·) 0

def isStowA : Instr → Bool
  | .stowA .. => true
  | _ => false

/-- A chunk that has passed its evaluation is ready (R365). -/
def chunkReady (s : State) (n : Nat) (x : Slot) : Bool :=
  let b := x.body
  let r := s.rein n
  let items := claimItems r x
  let j := (b.filter (fun w => w.2.elim false isStowA)).length
  b.all (fun w => match w.2 with
    | some (.waits a e c) => match waitHolds s x a e c with
      | .ok v => v
      | .error _ => false
    | _ => true) &&
  ((List.range 16).map x.sender).all (fun k => decide (bodyTakes x b k ≤ r.buffered x k)) &&
  (List.range 16).all (fun e => decide (bodySends b e ≤ x.allow e)) &&
  (decide (j ≤ (grantable x items).length) || roundEnded x items)

end Sys2Proof.Machine
end

