-- ==== Sys2Proof/Machine/ReinRun.lean ====
section
/-! DEFINITION. The words of a rein program (R378-R387, R375, R377), the choice of a slot (R366, R367) and its retries. -/
namespace Sys2Proof.Machine

/-! Framing. -/

/-- The word of slot `sl` completes: the PC moves `k` words on, its boundary words counted (R367). -/
def Slot.pass (x : Slot) (k : Nat) : Slot :=
  { x with pc := x.pc + k, written := 0, asked := 0, peerSent := 0, pgot := [], fwd := [], claimed := none, issued := false
           region := none, boundary := if x.st = 1 then x.boundary + 1 else 0 }

/-- Whether slot `sl` is in a body and runs its words. -/
def Slot.inBody (x : Slot) : Bool := decide (x.st = 3) && x.bodyEnd.isSome && !x.atNext

/-- A word of a body; at a boundary it stops the slot (R379). -/
def bodyWord (f : Nat → Nat → Slot → State → State) (s : State) : Out :=
  let (n, sl) := s.curSlot
  let x := s.slot n sl
  if x.inBody then .next (f n sl x s)
  else if x.st = 1 then .next (stopSlot s n sl cReinIllegal 0 0 0)
  else .next s

/-- A word of a boundary; a body never holds one (R364). -/
def boundaryWord (f : Nat → Nat → Slot → State → State) (s : State) : Out :=
  let (n, sl) := s.curSlot
  let x := s.slot n sl
  if x.st = 1 then .next (f n sl x s) else .next s

/-- A word of either. -/
def eitherWord (k : Nat) (f : Slot → Slot) (s : State) : Out :=
  let (n, sl) := s.curSlot
  let x := s.slot n sl
  if x.st = 1 || x.inBody then .next (s.setSlot n sl ((f x).pass k)) else .next s

/-- HALT (R380). -/
def execHalt (s : State) : Out := boundaryWord (fun n sl _ s => freeSlot s n sl false) s

/-- CHUNK (R363, R374): the slot stops in the stepped state, or its chunk is evaluated. The PC stays here until the chunk
is chosen. -/
def execChunk (_n : BitVec 8) (s : State) : Out :=
  boundaryWord (fun n sl x s =>
    if x.step && !x.justGo then
      (s.setRein n ((s.rein n).leave sl)).setSlot n sl { x with st := 6, boundary := 0 }
    else evaluate s n sl) s

/-- NEXT (R380): the chunk ends once its writes and interrupts are through; CHUNK_COMPLETE completes it (R369, R384). -/
def execNextW (s : State) : Out := bodyWord (fun n sl x s => s.setSlot n sl { x with atNext := true }) s

def execSetg (a : BitVec 5) (lit : Word) (s : State) : Out := eitherWord 2 (fun x => x.setG a (lit.signExtend 64)) s

def execSetgHi (a : BitVec 5) (lit : Word) (s : State) : Out :=
  eitherWord 2 (fun x => x.setG a (lit ++ (x.g a).extractLsb' 0 32)) s

def execAddg (a b : BitVec 5) (i : BitVec 17) (s : State) : Out :=
  eitherWord 1 (fun x => x.setG a (x.g b + i.signExtend 64)) s

/-- A transfer (R382): a target that is no boundary word of the image stops the slot when it is taken (R359). -/
def transfer (taken : Bool) (i : BitVec 17) (y : Slot) (n sl : Nat) (x : Slot) (s : State) : State :=
  if taken then
    let t : Int := x.pc + i.toInt
    if 0 ≤ t && (wordKinds 0 false x.words)[t.toNat]? = some 0 then s.setSlot n sl { y.pass 0 with pc := t.toNat }
    else stopSlot s n sl cReinIllegal 0 0 0
  else s.setSlot n sl (y.pass 1)

def execLoop (a : BitVec 5) (i : BitVec 17) (s : State) : Out :=
  boundaryWord (fun n sl x s => transfer (decide (x.g a - 1 ≠ 0)) i (x.setG a (x.g a - 1)) n sl x s) s

def execBrz (a : BitVec 5) (i : BitVec 17) (s : State) : Out :=
  boundaryWord (fun n sl x s => transfer (decide (x.g a = 0)) i x n sl x s) s

def execBrnz (a : BitVec 5) (i : BitVec 17) (s : State) : Out :=
  boundaryWord (fun n sl x s => transfer (decide (x.g a ≠ 0)) i x n sl x s) s

/-- WAITS in a body makes the acquire alone: a rein keeps no copy of memory, so nothing is dropped (R369, R383). -/
def execWaits (_a : BitVec 5) (_e : BitVec 4) (_c : BitVec 2) (s : State) : Out :=
  bodyWord (fun n sl x s => s.setSlot n sl (x.pass 1)) s

/-! Accesses. -/

/-- The brand a memory instruction names, or none for BRAND_INVALID (R371, R379); it is checked when the instruction issues,
and one that has issued goes on under it (R298, R389). -/
def Slot.brandOf (s : State) (x : Slot) (b : BitVec 5) : Option Nat :=
  let v := x.g b
  if x.issued || (decide (v.toNat < 65536) && s.brandLive x.cx v.toNat) then some v.toNat else none

/-- Object offsets `i` to `n` of an access at object address `a`. -/
def rOffs (a i n : Nat) : List Nat := (List.range (n - i)).map (fun k => offOf a + i + k)

/-- Peer bytes that a slot reads and has not been answered for, asked for on its own rein as far as there is room; while
answers are awaited nothing more is asked (R354, R368). -/
def askPeer (s : State) (n sl : Nat) (x : Slot) (ps : List PByte) : State :=
  if x.asked ≠ 0 then s
  else
    let need := ((ps.map (·.loc)).filter (fun l => l.sp.isPeer && !x.pgot.any (fun e => decide (e.1 = l)))).eraseDups
    let (s, k) := msAskAll s sl ((runsOf (need.map (fun l => (l, 0)))).map (fun r => (n, peerReq x.cx r.1 r.2.length false [])))
    s.setSlot n sl { x with asked := k }

/-- A write of a slot to its peer's memory, which waits for room (R354, R368). -/
def sendPeerSlot (s : State) (n sl : Nat) (x : Slot) (upTo : Nat) (ws : List (PByte × Byte)) : State :=
  let rs := runsOf (ws.map (fun w => (w.1.loc, w.2)))
  let (t, k) := msAskAll s sl (rs.map (fun r => (n, peerReq x.cx r.1 r.2.length true r.2)))
  if k = rs.length then t.setSlot n sl { x with asked := k, peerSent := upTo } else s

/-- The slot's word has issued: its brand is checked no more. -/
def Slot.issue (x : Slot) : Slot := { x with issued := true }

/-- The frame that opens a run (R353). -/
def runHeader (s : State) (n : Nat) (x : Slot) (e : Nat) : Frame :=
  let pa := (x.ent e).getLsbD 59
  mkFrame 2 (entPvc (x.ent e)) 0 (BitVec.ofNat 512 (x.comm % 4096 + s.care.conf.elim 0 (·.devno) % 1024 * 2 ^ 25 +
    n % 32 * 2 ^ 35 + e % 16 * 2 ^ 40 + (if pa then 2 ^ 44 else 0) + (if x.det then 2 ^ 45 else 0) + x.cx % 1024 * 2 ^ 46))

/-- A run of entry `e` queued on the rein: its header and frames (R353); the allowance was charged when it was chosen. -/
def sendRun (s : State) (n : Nat) (x : Slot) (e : Nat) (fs : List Frame) : State :=
  let r := s.rein n
  s.setRein n { r with txq := r.txq ++ runHeader s n x e :: fs }

/-- XMIT (R385): the words are read at issue; on a park whole flits read before the fault have been sent (R370). A
claim message (`msg`) is sent whole. -/
def xmit (a b : BitVec 5) (e : BitVec 4) (c : Nat) (msg last : Bool) (n sl : Nat) (x : Slot) (s : State) : State :=
  let E := e.toNat
  let ad := (x.g a).toNat
  let vc := entPvc (x.ent E)
  match x.brandOf s b with
  | none => stopSlot s n sl cBrandInvalid ((x.g b).toNat % 65536) 0 0
  | some br =>
    let x := x.issue
    let s := s.setSlot n sl x
    let offs := rOffs ad x.written (4 * c)
    let cs : Chunks := translateChunks s x.cx (objOf ad) false offs
    let s := noteTlb s x.cx cs.good
    let good := offs.takeWhile (fun o => match cs.at o with
      | .ok _ => true
      | .error _ => false)
    let k := if good.length = offs.length then offs.length else if msg then 0 else good.length / 64 * 64
    let ps := (good.take k).map cs.byte
    let far := viaPeer s x.cx br ps
    if needsPeer x far then askPeer s n sl x far
    else
      let bs := ps.map (readByte s x.cx br x.pgot)
      let fs := dataFrames 0 (if msg then 1 else 0) vc bs ++ (if last && k = offs.length then [mkFrame 3 vc 0 0] else [])
      let s := if fs.isEmpty then s else sendRun s n x E fs
      match offs[good.length]? with
      | some o => match cs.at o with
        | .error f => parkSlot (s.setSlot n sl { x with written := x.written + k }) n sl f br (objOf ad) o
        | .ok _ => s
      | none => s.setSlot n sl (x.pass 2)

def execXmit (a b : BitVec 5) (e : BitVec 4) (c : BitVec 15) (s : State) : Out :=
  bodyWord (xmit a b e c.toNat false false) s

def execXmitA (a b : BitVec 5) (e : BitVec 4) (last : Bool) (c : BitVec 15) (s : State) : Out :=
  bodyWord (xmit a b e c.toNat true last) s

/-! Combining (R377). -/

/-- One 32-bit element of ADD, MIN or MAX: local A, arriving B. -/
def combine (op ty : Nat) (a b : Word) : Word × FFlags :=
  let half (F : FFmt) (p q : Nat) : Nat × FFlags :=
    if op = 0 then F.addV .rne false (F.decode p) (F.decode q) else F.minmax (decide (op = 2)) p q
  let pair (F : FFmt) : Word × FFlags :=
    let l := half F (a.toNat % 65536) (b.toNat % 65536)
    let h := half F (a.toNat / 65536) (b.toNat / 65536)
    (BitVec.ofNat 32 (l.1 + 65536 * h.1), l.2 ||| h.2)
  match ty with
  | 0 => (match op with
    | 0 => a + b
    | 1 => smin32 a b
    | _ => smax32 a b, 0)
  | 1 => (match op with
    | 0 => a + b
    | 1 => umin32 a b
    | _ => umax32 a b, 0)
  | 2 => let r := half fp32 a.toNat b.toNat; (BitVec.ofNat 32 r.1, r.2)
  | 3 => pair fp16
  | _ => pair bf16

/-- The words of local and arriving bytes combined. -/
def combineBytes (op ty : Nat) : List Byte → List Byte → List Byte × FFlags
  | a0 :: a1 :: a2 :: a3 :: as, b0 :: b1 :: b2 :: b3 :: bs =>
    let (w, f) := combine op ty (wordOfBytes a0 a1 a2 a3) (wordOfBytes b0 b1 b2 b3)
    let (r, g) := combineBytes op ty as bs
    (bytesOfWord w ++ r, f ||| g)
  | _, _ => ([], 0)

/-! Writes. -/

/-- A destination of a slot: object address, bytes, the bytes of an element, brand, the fold (operation and type), and the
stream its bytes come from (none: the claim message taken). -/
structure RDest where
  a : Nat
  n : Nat
  unit : Nat
  b : Nat
  fold : Option (Nat × Nat)
  src : Option (Nat × Nat × Nat)

/-- The next `k` bytes that arrive for a slot's instruction. -/
def arriving (r : Rein) (x : Slot) (d : RDest) (k : Nat) : List Byte :=
  match d.src with
  | some key => (takeFlits (r.forSlot x key) k r.streams).1
  | none => ((x.claimed.elim [] (·.bytes)).drop x.written).take k

/-- They leave the buffer, and what they held is returned (R355). -/
def consume (r : Rein) (x : Slot) (d : RDest) (k : Nat) : Rein :=
  match d.src with
  | some key =>
    let (_, l, dn) := takeFlits (r.forSlot x key) k r.streams
    ({ r with streams := l }).owe dn
  | none => r

/-- Where the element that byte `i` of a destination lies in ends, or begins where `i` begins it. -/
def RDest.up (d : RDest) (i : Nat) : Nat := (i + d.unit - 1) / d.unit * d.unit

/-- The line of byte `j` of a destination, where it translates. -/
def RDest.line (d : RDest) (cs : Chunks) (j : Nat) : Option Loc :=
  match cs.at (offOf d.a + j) with
  | .ok t => some (t.1.byte (offOf d.a + j)).loc.line
  | .error _ => none

/-- The end of the piece at byte `i`: the bytes of a destination that lie in one line are written together (R279, R280). -/
def pieceEnd (d : RDest) (cs : Chunks) (i : Nat) : Nat :=
  i + (((List.range (d.n - i)).map (fun k => d.line cs (i + k))).takeWhile (fun l => l.isSome && decide (l = d.line cs i))).length

/-- Ownership asked for the lines that a slot is to write under brand `b`, in ascending address; lines no longer needed are
released. -/
def claimLines (s : State) (n sl : Nat) (b : Nat) (ps : List PByte) : State :=
  let me := reinAgent n sl
  let need := ((ps.filter (fun p => p.loc.cached)).map (fun p => (p.loc.line, dirBrand b p))).eraseDups
  let s := (s.mem.dir.filter (fun e => (decide (e.owner = me) || e.queue.contains me) && !need.contains (e.line, e.brand))).foldl
    (fun s e => dropOwner s e.line e.brand me) s
  need.foldl (fun s l =>
    if (dirOf s l.1 l.2).elim false (fun e => decide (e.owner = me) || e.queue.contains me) then s else askOwner s l.1 l.2 me) s

/-- The slot owns a byte's line, or the line is one that nobody owns. -/
def slotOwns (s : State) (n sl b : Nat) (p : PByte) : Bool :=
  !p.loc.cached || (dirOf s p.loc.line (dirBrand b p)).elim false (fun e => decide (e.owner = reinAgent n sl))

/-- No one else owns the line that a byte's brand falls back to (R301). -/
def sourceFree (s : State) (n sl cx b : Nat) (p : PByte) : Bool :=
  let h := (resolve s cx b p).1
  !p.loc.cached || !owned s p.loc.line h || (dirOf s p.loc.line h).elim false (fun e => decide (e.owner = reinAgent n sl))

/-- The slot may write a byte: it owns the line, after the lane accesses that waited before it (R269), and no one else owns
the line its brand falls back to (R301). -/
def mayWrite (s : State) (n sl : Nat) (cx b : Nat) (p : PByte) : Bool :=
  slotOwns s n sl b p && sourceFree s n sl cx b p && !(p.loc.cached && lanesFirst s p.loc.line (dirBrand b p))

/-- A byte that a write under brand `b` puts in a cell that the brand does not hold yet (R300). -/
def lacksCell (s : State) (cx b : Nat) (p : PByte) : Bool :=
  p.brd && decide (b ≠ 0) && (cell? s cx b p.loc.line).isNone

/-- Bytes of the lines granted to the slot that are to be copied into cells of its brand (R301). -/
def granted (s : State) (n sl cx b : Nat) (ps : List PByte) : List PByte :=
  ps.filter (fun p => lacksCell s cx b p && !p.wp && slotOwns s n sl b p && sourceFree s n sl cx b p)

/-- The peer bytes of the lines that are to be copied into cells. -/
def cellSource (s : State) (n sl cx b : Nat) (ps : List PByte) : List PByte :=
  viaPeer s cx b (((granted s n sl cx b ps).map (fun p => { p with loc := p.loc.line })).eraseDups.flatMap (fun p =>
    (List.range 256).map (fun i => { p with loc := { p.loc with a := p.loc.a + i } })))

/-- The cells of the lines granted, as far as the pool reaches (R301, R302). -/
def slotCells (s : State) (n sl cx b : Nat) (pg : List (Loc × Byte)) (ps : List PByte) : State :=
  (((granted s n sl cx b ps).map (·.loc.line)).eraseDups).foldl (fun s l =>
    ((freePool s cx).head?).elim s (fun q => materialise s cx b l q pg)) s

/-- Writes of a slot to deterministic-shared pages deferred under (rein, slot, 0, sequence), word by word, in cells that are made
already; none with the pool empty (R288, R301, R377). -/
def deferSlot (s : State) (n sl b : Nat) (ws : List (PByte × Byte × Byte)) : Option State :=
  (byWord ws).foldl (fun (o : Option State) w => o.bind (fun s =>
    let x := s.slot n sl
    (appendCommit s { cx := x.cx, grid := x.pkt, key := [n, sl, 0, x.nDefer], gid := 0, lane := 0, brand := b, bytes := w
                      addF32 := none, tags := [] }).map (fun s => s.setSlot n sl { x with nDefer := x.nDefer + 1 }))) (some s)

/-- Bytes of a slot written where they are due: deferred, or seen at once; none with the pool empty, a cell missing or the
commit buffer full (R302). -/
def slotWrite (s : State) (n sl b : Nat) (ws : List (PByte × Byte × Byte)) : Option State :=
  let x := s.slot n sl
  let late := ws.filter (fun w => x.det && decide (w.1.det = 1))
  if ws.any (fun w => lacksCell s x.cx b w.1) then none
  else (deferSlot s n sl b late).map (fun s => writeOut s x.cx b (ws.filter (fun w => !(x.det && decide (w.1.det = 1)))))

/-- Bytes that a slot writes to its peer's memory: none of a deferred write, nor of a brand's cell (R288, R300, R354). -/
def toPeer (x : Slot) (b : Nat) (p : PByte) : Bool :=
  p.loc.sp.isPeer && !(p.brd && decide (b ≠ 0)) && !(x.det && decide (p.det = 1))

/-- The results of a destination up to the element that byte `e` ends in, with the flags of those computed now: elements are
combined whole, once each, and what a later line holds of them waits for it (R377). `ps` are the bytes of the new ones. -/
def pieceBytes (s : State) (n : Nat) (x : Slot) (d : RDest) (ps : List PByte) : List Byte × FFlags :=
  let arr := arriving (s.rein n) x d ps.length
  match d.fold with
  | none => (arr, 0)
  | some (op, ty) =>
    let (r, f) := combineBytes op ty (ps.map (readByte s x.cx d.b x.pgot)) arr
    (x.fwd ++ r, f)

/-- The bytes up to `e` are written: what they took leaves the buffer and the instruction stands there. -/
def pieceDone (s : State) (n sl : Nat) (d : RDest) (e : Nat) (fl : FFlags) (fwd : List Byte) : State :=
  let x := s.slot n sl
  let s := s.setRein n (consume (s.rein n) x d (d.up e - d.up x.written))
  s.setSlot n sl { x with written := e, flags := x.flags ||| fl, pgot := [], fwd := fwd }

/-- The pieces of a destination written in ascending address, up to the first that waits, parks or stops (R368, R370,
R371). -/
def writePieces (n sl : Nat) (d : RDest) (cs : Chunks) : Nat → State → State
  | 0, s => s
  | f + 1, s =>
    let x := s.slot n sl
    let i := x.written
    if d.n ≤ i then s
    else if i < x.peerSent then
      if x.asked ≠ 0 then s
      else writePieces n sl d cs f (pieceDone s n sl d x.peerSent 0 x.fwd)
    else
      let left := ((rOffs d.a i d.n).filter (fun o => (cs.at o).toOption.isSome)).map cs.byte
      let s := claimLines s n sl d.b left
      let x := s.slot n sl
      if needsPeer x (cellSource s n sl x.cx d.b left) then askPeer s n sl x (cellSource s n sl x.cx d.b left)
      else
        let s := slotCells s n sl x.cx d.b x.pgot left
        let e := pieceEnd d cs i
        -- the elements that end in the piece or beyond it are combined now, and all their bytes translate
        let all := rOffs d.a i (max (i + 1) (d.up e))
        match (rOffs d.a i e).find? (fun o => (cs.byte o).wp), all.findSome? (fun o => match cs.at o with
          | .error f => some (f, o)
          | .ok _ => none) with
        | some o, _ => stopSlot s n sl cWriteProtect d.b (objOf d.a) o
        | none, some (f, o) => parkSlot s n sl f d.b (objOf d.a) o
        | none, none =>
          let new := (rOffs d.a (d.up i) (d.up e)).map cs.byte
          if !(all.map cs.byte).all (mayWrite s n sl x.cx d.b) then s
          else if d.fold.isSome && needsPeer x (viaPeer s x.cx d.b new) then askPeer s n sl x (viaPeer s x.cx d.b new)
          else
            let (res, fl) := pieceBytes s n x d new
            let out := (res.drop (if d.fold.isSome then i else 0)).take (e - i)
            let ws := (((rOffs d.a i e).map cs.byte).zip out)
            let fwd := if d.fold.isSome then res else []
            if ws.any (fun w => toPeer x d.b w.1) then
              sendPeerSlot s n sl { x with flags := x.flags ||| fl, fwd := fwd } e ws
            else match slotWrite s n sl d.b (ws.map (fun w => (w.1, w.2, (0xFF : Byte)))) with
              | none => parkSlot s n sl { cause := cPoolEmpty, lg := false, mq := false } d.b (objOf d.a) (offOf d.a + i)
              | some s => writePieces n sl d cs f (pieceDone s n sl d e fl fwd)

/-- A destination written, by the pages as they stand when it is begun; `fin` follows once all of it is, its lines released. -/
def writeDest (s : State) (n sl : Nat) (d : RDest) (fin : State → State) : State :=
  let x := s.slot n sl
  let cs : Chunks := translateChunks s x.cx (objOf d.a) false (rOffs d.a x.written d.n)
  let s := writePieces n sl d cs (2 * d.n + 2) (noteTlb s x.cx cs.good)
  let x := s.slot n sl
  if x.st = 3 && decide (d.n ≤ x.written) then fin (dropAll s (reinAgent n sl)) else s

/-- STOW, FOLD and FOLDF (R386, R387). -/
def receive (a b : BitVec 5) (e : BitVec 4) (c : BitVec 15) (fold : Option (Nat × Nat)) (fwd : Option (BitVec 4))
    (n sl : Nat) (x : Slot) (s : State) : State :=
  match x.brandOf s b with
  | none => stopSlot s n sl cBrandInvalid ((x.g b).toNat % 65536) 0 0
  | some br =>
    writeDest (s.setSlot n sl x.issue) n sl
      { a := (x.g a).toNat, n := 4 * c.toNat, unit := if fold.isSome then 4 else 1, b := br, fold := fold
        src := some (x.sender e.toNat) }
      (fun s =>
        let y := s.slot n sl
        let s := match fwd with
          | some f => sendRun s n y f.toNat (dataFrames 0 0 (entPvc (y.ent f.toNat)) y.fwd)
          | none => s
        s.setSlot n sl ((s.slot n sl).pass 2))

def execStow (a b : BitVec 5) (e : BitVec 4) (c : BitVec 15) (s : State) : Out := bodyWord (receive a b e c none none) s

def execFold (a b : BitVec 5) (e : BitVec 4) (op ty : BitVec 4) (c : BitVec 15) (s : State) : Out :=
  bodyWord (receive a b e c (some (op.toNat, ty.toNat)) none) s

def execFoldf (a b : BitVec 5) (e f : BitVec 4) (op ty : BitVec 4) (c : BitVec 15) (s : State) : Out :=
  bodyWord (receive a b e c (some (op.toNat, ty.toNat)) (some f)) s

/-! Capacity claims (R375). -/

/-- The bytes of the region record of a STOW.A at object address `a`, or the page that does not translate with its offset. -/
def regionBytes (s : State) (x : Slot) (a : Nat) : State × Except (PageFault × Nat) (List PByte) :=
  let offs := rOffs a 0 32
  let cs : Chunks := translateChunks s x.cx (objOf a) false offs
  (noteTlb s x.cx cs.good, match offs.findSome? (fun o => match cs.at o with
    | .error f => some (f, o)
    | .ok _ => none) with
  | some f => .error f
  | none => .ok (offs.map cs.byte))

/-- `used` (bit 96) or `sused` (bit 224) of a region record as they lie in it, set to `v`. -/
def regionUpdate (ps : List PByte) (old lo v : Nat) : List (PByte × Byte) :=
  let new := old - bitsOf old lo 32 * 2 ^ lo + v % 2 ^ 32 * 2 ^ lo
  ((ps.zip (bytesOfNat 32 new)).drop (lo / 8)).take 4

/-- The message is written and its record updated: its flits go back, and G(d) names it. -/
def claimDone (d : BitVec 5) (m : Claim) (g : Nat) (n sl : Nat) (s : State) : State :=
  let s := dropAll s (reinAgent n sl)
  let y := s.slot n sl
  let entry := ((y.paEntries).find? (fun e => decide (y.sender e = m.key))).getD 0
  let s := s.setRein n ((s.rein n).owe m.flits)
  s.setSlot n sl ((y.setG d (BitVec.ofNat 64 (entry * 2 ^ 48 + g))).pass 2)

/-- The region record updated by the owner of its line (R375, R278): deferred in deterministic mode (R377), or asked of the
peer that holds it, whose answer is awaited. -/
def putRegion (d : BitVec 5) (a br : Nat) (m : Claim) (ps : List PByte) (old lo v g : Nat) (n sl : Nat) (s : State) : State :=
  let x := s.slot n sl
  let ws := regionUpdate ps old lo v
  if x.peerSent = m.bytes.length + 1 then (if x.asked ≠ 0 then s else claimDone d m g n sl s)
  else
    let s := claimLines s n sl br (ws.map (·.1))
    if needsPeer x (cellSource s n sl x.cx br ps) then askPeer s n sl x (cellSource s n sl x.cx br ps)
    else
      let s := slotCells s n sl x.cx br x.pgot ps
      if !ws.all (fun w => mayWrite s n sl x.cx br w.1) then s
      else if ws.any (fun w => toPeer x br w.1) then sendPeerSlot s n sl x (m.bytes.length + 1) ws
      else match slotWrite s n sl br (ws.map (fun w => (w.1, w.2, (0xFF : Byte)))) with
        | none => parkSlot s n sl { cause := cPoolEmpty, lg := false, mq := false } br (objOf a) (offOf a)
        | some s => claimDone d m g n sl s

/-- STOW.A with the message it has taken: the region record is read by the owner of its line, the message is written by
R375, then the record and G(d). -/
def stowClaim (d : BitVec 5) (c : BitVec 15) (a br : Nat) (m : Claim) (n sl : Nat) (x : Slot) (s : State) : State :=
  let len := m.bytes.length
  match regionBytes s x a with
  | (s, .error (f, o)) => parkSlot s n sl f br (objOf a) o
  | (s, .ok ps) =>
    let write (s : State) (v : Nat) : State :=
      let used := bitsOf v 96 32
      let sused := bitsOf v 224 32
      let fits := decide (used + len ≤ bitsOf v 64 32)
      let spills := decide (sused + len ≤ bitsOf v 192 32)
      let reserved (o : Nat) : Bool := decide (0xFFFFF0 ≤ objOf o)
      let at_ := if fits then used else sused
      let put := putRegion d a br m ps v (if fits then 96 else 224) (at_ + len) ((if fits then 0 else 2 ^ 32) + at_) n sl
      if reserved (bitsOf v 0 64) || reserved (bitsOf v 128 64) then stopSlot s n sl cReinIllegal br (objOf a) (offOf a)
      else if 4 * c.toNat < len || (!fits && !spills) then stopSlot s n sl cReinOverflow br (objOf a) (offOf a)
      else if ps.any (·.wp) then stopSlot s n sl cWriteProtect br (objOf a) (offOf a)
      else if len ≤ x.written then put s
      else writeDest s n sl { a := (if fits then bitsOf v 0 64 else bitsOf v 128 64) + at_, n := len, unit := 1, b := br
                              fold := none, src := none } put
    match x.region with
    | some v => write s v
    | none =>
      let s := claimLines s n sl br ps
      let x := s.slot n sl
      let far := cellSource s n sl x.cx br ps ++ viaPeer s x.cx br ps
      if !ps.all (mayWrite s n sl x.cx br) then s
      else if needsPeer x far then askPeer s n sl x far
      else
        let s := slotCells s n sl x.cx br x.pgot ps
        let v := natOfBytes (ps.map (readByte s x.cx br x.pgot))
        write (s.setSlot n sl { x with region := some v }) v

/-- STOW.A (R376, R386): the next granted message, or END when a finished round has none left. -/
def stowA (a b d : BitVec 5) (c : BitVec 15) (n sl : Nat) (x : Slot) (s : State) : State :=
  match x.brandOf s b with
  | none => stopSlot s n sl cBrandInvalid ((x.g b).toNat % 65536) 0 0
  | some br =>
    let x := x.issue
    let s := s.setSlot n sl x
    match x.claimed with
    | some m => stowClaim d c (x.g a).toNat br m n sl x s
    | none =>
      let r := s.rein n
      let items := claimItems r x
      match grantable x items with
      | i :: _ =>
        let s := s.setRein n { r with claims := r.claims.erase i.2 }
        let x := { x with claimed := some i.2 }
        stowClaim d c (x.g a).toNat br i.2 n sl x (s.setSlot n sl x)
      | [] =>
        if roundEnded x items then
          s.setSlot n sl (({ (x.setG d (BitVec.ofNat 64 (2 * 2 ^ 32))) with sawEnd := true }).pass 2)
        else s

def execStowA (a b d : BitVec 5) (c : BitVec 15) (s : State) : Out := bodyWord (stowA a b d c) s

/-! Signals (R384). -/

/-- A SIGS whose write has been performed: its arrival interrupt with the new value, and the next word. -/
def sigDone (n sl : Nat) (x : Slot) (e : BitVec 4) (irq : Bool) (c : Nat) (v : Word64) (s : State) : State :=
  let x := x.pass 1
  if irq then
    let o := sget Outrider.idle s.k.outriders c
    let w : Arrival := { cx := x.cx, rein := n, slot := sl, comm := x.comm, entry := e.toNat, value := v, pkt := x.pkt }
    let s := { s with k := { s.k with outriders := sset Outrider.idle s.k.outriders c { o with waiting := o.waiting ++ [w] } } }
    s.setSlot n sl { x with irqOut := x.irqOut + 1 }
  else s.setSlot n sl x

/-- SIGS: the release, then the update performed at the signal's home L2, or asked of the peer that holds it (R249), then
the arrival interrupt. Everything the slot has written is performed already. -/
def sigs (a : BitVec 5) (e : BitVec 4) (set irq : Bool) (c : Nat) (sys : Bool) (n sl : Nat) (x : Slot) (s : State) : State :=
  let ent := x.ent e.toNat
  let obj := entObj ent
  let off := entOff ent
  match signalBytes s x e.toNat with
  | .error f => parkSlot s n sl f 0 obj off
  | .ok ps =>
    let peer := ps.any (·.loc.sp.isPeer)
    let v : Word64 := if set then x.g a else signalRead s x ps + x.g a
    let new := ps.zip (bytesOfNat 8 v.toNat)
    if x.peerSent ≠ 0 then (if x.asked ≠ 0 then s else sigDone n sl x e irq c v s)
    else if ps.any (·.wp) then stopSlot s n sl cWriteProtect 0 obj off
    else if !set && needsPeer x ps then askPeer s n sl x ps
    else if ps.any (byteOwned s x.cx 0) then s
    else
      let s := doRelease s x.cx (if sys then 5 else 4)
      if peer then sendPeerSlot s n sl x 8 new
      else sigDone n sl x e irq c v (writeOut s x.cx 0 (new.map (fun w => (w.1, w.2, 0xFF))))

def execSigs (a : BitVec 5) (e : BitVec 4) (set irq : Bool) (c : BitVec 5) (sys : Bool) (s : State) : Out :=
  bodyWord (sigs a e set irq c.toNat sys) s

/-! The sequencer. -/

/-- CHUNK_COMPLETE of rein `n` (R369, R384): the chunk's NEXT completes once its interrupts have entered their queues. A
slot aborted while running is free now (R363); a finished round gives way to the next (R376). The slot is at a boundary and
waits to be chosen (R366). -/
def execChunkComplete (n : Nat) (s : State) : Out :=
  match (s.rein n).running with
  | none => .next s
  | some sl =>
    let x := s.slot n sl
    if x.st = 3 && x.atNext && decide (x.irqOut = 0) then
      if x.aborting then .next (freeSlot s n sl true)
      else
        let s := if x.sawEnd then s.setRein n ((s.rein n).nextRound x) else s
        let s := s.setRein n ((s.rein n).leave sl)
        .next (s.setSlot n sl { x with st := 1, atNext := false, bodyEnd := none, pc := x.pc + 1, sawEnd := false, boundary := 0
                                       justGo := false })
    else .next s

/-- BOUNDARY_RUN_LIMIT (R367): after 64 boundary words the slot waits to be chosen. -/
def execBoundaryRunLimit (n : Nat) (s : State) : Out :=
  match (s.rein n).running with
  | none => .next s
  | some sl =>
    let x := s.slot n sl
    if x.st = 1 && decide (64 ≤ x.boundary) then
      .next ((s.setRein n ((s.rein n).leave sl)).setSlot n sl { x with boundary := 0 })
    else .next s

/-- A slot can be chosen (R366): its chunk is ready, it goes on with a chunk, or it goes on with boundary words. A context
being pre-empted finishes chunks only (R363). -/
def slotReady (s : State) (n : Nat) (x : Slot) : Bool :=
  (decide (x.st = 2) && s.active x.cx && chunkReady s n x) || (decide (x.st = 1) && s.active x.cx) ||
    (decide (x.st = 3) && s.draining x.cx)

/-- Whether slot `a` goes before slot `b` (R366). -/
def slotBefore (a b : Nat × Slot) : Bool :=
  let full (x : Nat × Slot) : Bool := decide (7 ≤ x.2.passes)
  if full a || full b then full a && (!full b || decide (a.1 < b.1))
  else decide (b.2.sprio < a.2.sprio) || (decide (a.2.sprio = b.2.sprio) &&
    (decide (b.2.passes < a.2.passes) || (decide (a.2.passes = b.2.passes) && decide (a.1 < b.1))))

/-- The chosen slot starts its chunk, the allowance of its sends charged (R365) and the runs that its body takes bytes of
delivered to it (R353), or goes on. -/
def startChosen (s : State) (n sl : Nat) : State :=
  let x := s.slot n sl
  let s := s.setRein n { (s.rein n) with running := some sl }
  if x.st = 2 then
    let b := x.body
    let alw := (List.range 16).foldl (fun m e => supd 0 m e (· - bodySends b e)) x.alw
    let len := ((x.words.getD x.pc 0).extractLsb' 0 8).toNat
    let r := s.rein n
    let runs := ((((List.range 16).map x.sender).eraseDups.flatMap (fun k =>
      takeRuns (r.forSlot x k) (bodyTakes x b k) r.streams)).eraseDups).filter (fun q => (r.ownerOf q).isNone)
    let s := s.setRein n { r with owners := r.owners ++ runs.map (·, x.pkt) }
    s.setSlot n sl ({ (x.pass 1) with st := 3, alw := alw, bodyEnd := some (x.pc + 1 + len), passes := 0 })
  else s.setSlot n sl { x with passes := 0, boundary := 0 }

/-- Waiting slots of a rein whose WAITS walk fails park (R383). -/
def parkWaiting (s : State) (n : Nat) : State :=
  (s.rein n).slots.foldl (fun s e =>
    if e.2.st = 2 && s.active e.2.cx then
      match waitFault s e.2 e.2.body with
      | some f => parkAtChunk s n e.1 f
      | none => s
    else s) s

/-- A waiting slot whose WAITS tests a peer's signal asks for it, and asks again once its last answer has not made the chunk
ready (R249, R383). -/
def askWaiting (s : State) (n sl : Nat) : State :=
  let x := s.slot n sl
  let ps := waitPeer s x
  if decide (x.st = 2) && s.active x.cx && !ps.isEmpty && !chunkReady s n x then
    askPeer s n sl (if needsPeer x ps then x else { x with pgot := [] }) ps
  else s

/-- A slot at a boundary whose context is active no more runs no boundary words: the sequencer leaves it (R363, R366). -/
def leaveBoundary (s : State) (n : Nat) : State :=
  match (s.rein n).running with
  | some sl => if (s.slot n sl).st = 1 && !s.active (s.slot n sl).cx then s.setRein n ((s.rein n).leave sl) else s
  | none => s

/-- SLOT_CHOOSE (R366): among the ready slots one is chosen and the others gain a pass. -/
def execSlotChoose (n : Nat) (s : State) : Out :=
  let s := leaveBoundary s n
  if (s.rein n).running.isSome then .next s
  else
    let s := (List.range 8).foldl (fun s sl => askWaiting s n sl) (parkWaiting s n)
    let ready := (s.rein n).slots.filter (fun e => slotReady s n e.2)
    match ready.foldl (fun (b : Option (Nat × Slot)) e => match b with
      | none => some e
      | some x => if slotBefore e x then some e else b) none with
    | none => .next s
    | some c =>
      let s := (ready.filter (fun e => decide (e.1 ≠ c.1))).foldl (fun s e =>
        s.setSlot n e.1 { e.2 with passes := min 7 (e.2.passes + 1) }) s
      .next (startChosen s n c.1)

/-! Retries and control. -/

/-- The word of a parked slot, as its meaning would run it. -/
def runBodyWord (s : State) (n sl : Nat) (i : Instr) : State :=
  let x := s.slot n sl
  match i with
  | .xmit a b e c => xmit a b e c.toNat false false n sl x s
  | .xmitA a b e l c => xmit a b e c.toNat true l n sl x s
  | .stow a b e c => receive a b e c none none n sl x s
  | .stowA a b d c => stowA a b d c n sl x s
  | .fold a b e o t c => receive a b e c (some (o.toNat, t.toNat)) none n sl x s
  | .foldf a b e f o t c => receive a b e c (some (o.toNat, t.toNat)) (some f) n sl x s
  | .sigs a e t i c y => sigs a e t i c.toNat y n sl x s
  | _ => s

/-- A parked slot retried (R258, R363): its chunk is evaluated afresh, or its instruction resumes when next chosen, unless
it faults again at the byte at which it stands. -/
def retrySlot (s : State) (n sl : Nat) : State :=
  let x := s.slot n sl
  if x.st ≠ 4 then s
  else if x.bodyEnd.isNone then evaluate s n sl
  else
    let t := s.setSlot n sl { x with st := 3 }
    let again := match decodeReinWords (x.words.drop x.pc) with
      | some i => runBodyWord t n sl i
      | none => t
    if (again.slot n sl).st = 4 && decide ((again.slot n sl).written = x.written) then again
    else s.setSlot n sl { x with st := 3, parkNo := 0, pooled := false }

/-- `abort` (R362, R363). -/
def execSlotAbort (n sl : Nat) (s : State) : Out :=
  let x := s.slot n sl
  if x.st = 3 then .next (s.setSlot n sl { x with aborting := true })
  else if x.st = 1 || x.st = 2 || x.st = 4 || x.st = 5 || x.st = 6 then .next (freeSlot s n sl true)
  else .next s

/-- `go` continues a stopped or stepped slot (R363, R374). -/
def execSlotGo (n sl : Nat) (s : State) : Out :=
  let x := s.slot n sl
  if x.st = 5 || x.st = 6 then
    .next (s.setSlot n sl (if x.bodyEnd.isSome then { x with st := 3 } else
      { x with st := 1, justGo := decide (((x.words.getD x.pc 0).extractLsb' 27 5).toNat = 1) }))
  else .next s

/-- `step` (R362). -/
def execSlotStep (n sl : Nat) (v : Bool) (s : State) : Out :=
  let x := s.slot n sl
  if n < Config.reins && sl < 8 then .next (s.setSlot n sl { x with step := v }) else .next s

/-- SLGDAT written (R362): a G register or a channel entry, in states 4, 5 and 6. -/
def execSlgdatWrite (n sl : Nat) (v : BitVec 64) (s : State) : Out :=
  let x := s.slot n sl
  let i := sget 0 (s.rein n).selIdx sl
  if x.st = 4 || x.st = 5 || x.st = 6 then
    if i < 32 then .next (s.setSlot n sl { x with G := sset 0 x.G i v })
    else if i < 48 then .next (s.setSlot n sl { x with chan := sset 0 x.chan (i - 32) v })
    else .next s
  else .next s

/-- What the sequencer of rein `n` does next by itself: the slot whose word it runs, and that word (none: the slot stops
with REIN_ILLEGAL, R359, R371). -/
def reinNext (s : State) (n : Nat) : Option (Nat × Option Instr) :=
  let word (x : Slot) : Option Instr := decodeReinWords (x.words.drop x.pc)
  match (s.rein n).running with
  | some sl =>
    let x := s.slot n sl
    if x.st = 3 && !x.atNext && s.draining x.cx then some (sl, word x)
    else if x.st = 1 && s.active x.cx && decide (x.boundary < 64) then some (sl, word x)
    else none
  | none => none

/-- The sequencer turns to a slot (R366). -/
def reinFocus (s : State) (n sl : Nat) : State :=
  { s with curSlot := (n, sl) }.setRein n { (s.rein n) with running := some sl }

end Sys2Proof.Machine
end

