-- ==== Sys2Proof/Machine/Retry.lean ====
section
/-! DEFINITION. Retries of every kind (R258, R302, R332) and a brand becoming free (R297, R302). -/
namespace Sys2Proof.Machine

/-- A retry walks afresh: it uses no entry a translation cache holds (R258). -/
def walkAfresh (f : State → State) (s : State) : State :=
  let old := s.mem.tlb
  let s := f { s with mem := { s.mem with tlb := [] } }
  { s with mem := { s.mem with tlb := old ++ s.mem.tlb.filter (fun e => !old.contains e) } }

/-- The retry of a parked operation of any kind. -/
def retryAny (s : State) (opid : Nat) : State :=
  match s.op? opid with
  | some op =>
    walkAfresh (fun s =>
      if (op.kind = .snap || op.kind = .out) && decide (op.parkNo ≠ 0) then retryTile s opid op else retryOp s opid) s
  | none => s

/-- What is parked: an operation, a loop on a tile of a core, or a slot of a rein. -/
inductive Parked where
  | op (id : Nat)
  | loop (core z : Nat)
  | slot (n sl : Nat)
  deriving DecidableEq, Repr

/-- Parked slots that satisfy `f`, as (park number, rein, slot). -/
def parkedSlots (s : State) (f : Slot → Bool) : List (Nat × Nat × Nat) :=
  s.reins.flatMap (fun r => (r.2.slots.filter (fun x => decide (x.2.st = 4) && f x.2)).map (fun x => (x.2.parkNo, r.1, x.1)))

/-- Parked operations, paused loops and parked slots in the order in which they parked. -/
def parkedAll (s : State) (f : LongOp → Bool) (h : MLoop → Bool) (k : Slot → Bool) : List (Nat × Parked) :=
  let ins (e : Nat × Parked) : List (Nat × Parked) → List (Nat × Parked) := fun l =>
    (l.filter (fun x => decide (x.1 ≤ e.1))) ++ e :: l.filter (fun x => decide (e.1 < x.1))
  let a := (parkedOps s f).map (fun e => (e.1, Parked.op e.2))
  ((pausedLoops s h).map (fun e => (e.1, Parked.loop e.2.1 e.2.2)) ++
    (parkedSlots s k).map (fun e => (e.1, Parked.slot e.2.1 e.2.2))).foldl (fun l e => ins e l) a

def retryParked (s : State) (e : Nat × Parked) : State :=
  match e.2 with
  | .op i => retryAny s i
  | .loop c z => retryLoop s c z e.1
  | .slot n sl => walkAfresh (fun s => retrySlot s n sl) s

/-- Every POOL_EMPTY park of a context is retried (R302). -/
def retryPool (s : State) (cx : Nat) : State :=
  (parkedAll s (fun o => decide (o.cx = cx) && o.pooled) (fun _ => false) (fun x => decide (x.cx = cx) && x.pooled)).foldl
    retryParked s

/-- BRAND_FREE: a retiring brand with no access in flight, or a merging one whose cells are all applied, becomes free;
its pool lines return (R297, R299), and POOL_EMPTY parks of the context are retried (R302). -/
def execBrandFree (cx b : Nat) (s : State) : Out :=
  match s.brand? cx b with
  | some e =>
    if (e.st = 2 || (e.st = 3 && (firstCell s cx b).isNone && mergerHere s e b)) && !brandBusy s cx b && s.active cx &&
        e.waiter.elim true (fun w => releaseReady s w 4) then
      let had := s.br.cells.any (fun c => decide (c.cx = cx) && decide (c.brand = b))
      let s := { s with br := { table := mdel s.br.table (brandKey cx b)
                                cells := s.br.cells.filter (fun c => !(decide (c.cx = cx) && decide (c.brand = b))) } }
      let s := match e.waiter with
        | some w => s.updGroup w (fun g => if g.status = .stalled (.merge b) then g.stall (.merge 0) else g)
        | none => s
      .next (if had || e.returned then retryPool s cx else s)
    else .next s
  | none => .next s

end Sys2Proof.Machine
end

