-- ==== Sys2Proof/Machine/Paddock.lean ====
section
/-! DEFINITION. Paddocks and graph nodes (R149-R154): SPAWN, PAD.CLOSE and the lapse of a paddock's timer. -/
namespace Sys2Proof.Machine

/-- The die whose command sequencer took a grid. -/
def gridDie (s : State) (gr : Grid) : Nat := (s.pkt? gr.pkt).elim 0 (·.die)

def State.setNode (s : State) (nid : Nat) (nd : Node) : State := { s with k := { s.k with nodes := mput s.k.nodes nid nd } }

/-- The open node of a key (R149), with its number. -/
def nodeOf (s : State) (cx entry disc : Nat) : Option (Nat × Node) :=
  s.k.nodes.find? (fun n => decide (n.2.cx = cx) && decide (n.2.entry = entry) && decide (n.2.disc = disc))

/-- Records a die's store holds, those of groups not yet placed among them. -/
def storeUse (s : State) (die : Nat) : Nat :=
  ((s.k.nodes.filter (fun n => decide (n.2.die = die))).map (fun n => n.2.held.length + (n.2.ready.map List.length).foldl (· + ·) 0)).foldl
    (· + ·) 0 + (s.k.held.filter (fun r => decide (r.die = die))).length

/-- A record store holds 16,384 records (R149). -/
def storeRoomOf (s : State) (die : Nat) : Nat := 16384 - storeUse s die

/-- A record enters a paddock (R153); in deterministic mode it is held for the stream (R154). -/
def Node.enter (nd : Node) (w : Nat) (r : SpawnRec) : Node :=
  let held := nd.held ++ [r]
  if nd.det then { nd with held := held }
  else if w ≤ held.length then { nd with held := [], ready := nd.ready ++ [held], timerOn := false }
  else { nd with held := held, timerOn := true }

/-- The paddock of a node takes a record of grid `grid` of queue `q`: while it is open, and the final part of a deterministic node's
stream those of earlier packets (R153, R154). -/
def Node.receives (nd : Node) (q grid : Nat) : Bool := !nd.closed || (nd.det && nd.before q grid)

/-- A record delivered to its key's paddock, or held for the next node of the key (R149, R153). -/
def deliver (s : State) (r : SpawnRec) : State :=
  match nodeOf s r.cx r.entry r.disc with
  | some (nid, nd) =>
    if !nd.receives r.q r.grid then { s with k := { s.k with held := s.k.held ++ [r] } }
    else s.setNode nid (nd.enter ((s.grid? nd.grid).elim 16 (·.width)) { r with die := nd.die })
  | none => { s with k := { s.k with held := s.k.held ++ [r] } }

/-- A record is taken into a deterministic node's stream: its block and every block before it, of its grid and of the
earlier grids of its queue, have exited (R154). -/
def recordDue (s : State) (r : SpawnRec) : Bool :=
  (s.block? r.block).isNone &&
    s.k.blocks.all (fun b => !(decide (b.2.grid = r.grid) && decide (b.2.b < r.prod.getD 1 0))) &&
    s.k.grids.all (fun x => !(decide (x.2.q = r.q) && decide (x.2.seq < r.prod.headD 0) && x.2.node.isNone &&
      decide (x.2.exited < x.2.blocks)))

/-- Records in ascending `Producer`, earlier arrivals first. -/
def insertRec (r : SpawnRec) : List SpawnRec → List SpawnRec
  | [] => [r]
  | x :: l => if r.prod < x.prod then r :: x :: l else x :: insertRec r l

/-- The stream of a deterministic node cut as far as it has grown (R154). -/
def detCut (s : State) (gr : Grid) (nd : Node) : Node :=
  if nd.det then
    let l := nd.held.foldl (fun l r => insertRec r l) []
    let due := l.takeWhile (recordDue s)
    if gr.width ≤ due.length then { nd with held := l.drop gr.width, ready := nd.ready ++ [l.take gr.width] }
    else if closeDue s nd && decide (due.length = l.length) && !l.isEmpty then { nd with held := [], ready := nd.ready ++ [l] }
    else { nd with held := l }
  else nd

/-! SPAWN and PAD.CLOSE. -/

/-- The object address of an entry clause header named from the current clause (R151), in spliced code from the clause of
the original image (DEDUCED, notes/assumptions/117.md). -/
def entryOf (s : State) (g : Group) (eoff : BitVec 24) : Nat :=
  let o := originOf s g g.cla
  (((o.1 + o.2 : Nat) : Int) + 4 * eoff.toInt).toNat

def discOf (g : Group) (c : BitVec 7) : Nat := ((g.rdS c).extractLsb' 0 16).toNat

/-- The die of a group's records that find no open node (R149); an outrider's own die. -/
def spawnDie (s : State) (g : Group) : Nat :=
  match g.outrider with
  | some c => Config.dieOfCluster c
  | none => (s.grid? g.grid).elim 0 (gridDie s)

/-- The records of a SPAWN, one per active lane that is no helper lane, or one of an outrider (R151, R156). -/
def spawnRecs (s : State) (g : Group) (t : BitVec 7) (n entry disc die : Nat) : List SpawnRec :=
  let mk (l : Nat) (ws : List Word) (prod : List Nat) : SpawnRec :=
    { cx := g.cx, entry := entry, disc := disc, words := ws, prod := prod ++ [sget 0 g.nSpawn l], die := die
      q := (s.grid? g.grid).elim 0 (·.q), grid := g.grid, block := g.block }
  match g.outrider with
  | some c => [mk 0 ((List.range n).map (fun i => g.sget' (t.toNat + i))) [0, 0, c, 0]]
  | none =>
    g.activeReal.map (fun l =>
      mk l ((List.range n).map (fun i => g.vget (g.bv + t.toNat - 16 + i) l))
        [(s.grid? g.grid).elim 0 (·.seq), blockNo s g, g.gidx, l])

/-- SPAWN (R151): it stalls for room and until the group's earlier writes are visible at DEVICE scope. -/
def execSpawn (c t : BitVec 7) (pw : BitVec 4) (eoff : BitVec 24) (s : State) : Out :=
  let n := pw.toNat + 1
  let run := (List.range n).map (t.toNat + ·)
  issue s
    (fun g => if g.outrider.isSome then (if 128 < t.toNat + n then {} else { sc := c.toNat :: run })
              else if t < 0x10 then {} else { sc := [c.toNat], vr := run.map (fun x => (x, 0)) })
    (fun g => if g.outrider.isNone && decide (t < 0x10) then some { cause := cIllegalEncoding }
              else if g.outrider.isSome && decide (128 < t.toNat + n) then some { cause := cWindowRange } else none)
    (fun s g =>
      let entry := entryOf s g eoff
      let disc := discOf g c
      let q := (s.grid? g.grid).elim 0 (·.q)
      let die := (nodeOf s g.cx entry disc).elim (spawnDie s g) (fun x => if x.2.receives q g.grid then x.2.die else spawnDie s g)
      let recs := spawnRecs s g t n entry disc die
      if storeRoomOf s die < recs.length then s.setGroup s.cur (g.stall .storeRoom)
      else if !releaseReady s s.cur 4 then s.setGroup s.cur (g.stall .fence)
      else
        let ls := if g.outrider.isSome then [0] else g.activeReal
        let g := { g with nSpawn := ls.foldl (fun m l => sset 0 m l (sget 0 m l + 1)) g.nSpawn }
        recs.foldl deliver (s.setGroup s.cur (g.adv 2)))

/-- A node closed by group `g`: its held records become its last group, but a deterministic node keeps them for its stream (R153,
R154). The earlier packets are those of the closer's queue before its own; of the node's queue too, and for an outrider of it
alone, those taken before the closer's or by now (DEDUCED, notes/assumptions/132.md). -/
def closeNode (s : State) (nid : Nat) (nd : Node) (g : Group) : State :=
  let qs := ((s.grid? nd.grid).elim [] (fun x => [x.q])) ++ ((s.grid? g.grid).elim [] (fun x => [x.q]))
  let nd := { nd with closed := true, timerOn := false, closeAt := if g.outrider.isSome then s.fresh else g.grid
                      closeQs := qs.eraseDups }
  let nd := if nd.det || nd.held.isEmpty then nd else { nd with held := [], ready := nd.ready ++ [nd.held] }
  nodeDone (s.setNode nid nd) nid

/-- PAD.CLOSE (R152); which packets are earlier than it is the model's reading (DEDUCED, notes/assumptions/132.md). -/
def execPadClose (c : BitVec 7) (eoff : BitVec 24) (s : State) : Out :=
  issue s (fun _ => { sc := [c.toNat] }) (fun _ => none) (fun s g =>
    if !releaseReady s s.cur 4 then s.setGroup s.cur (g.stall .fence)
    else
      let s := s.setGroup s.cur (g.adv 2)
      match nodeOf s g.cx (entryOf s g eoff) (discOf g c) with
      | some (nid, nd) => if nd.closed then s else closeNode s nid nd g
      | none => s)

/-- PADDOCK_TIMER_LAPSE: a partial group of the held records (R153). -/
def execPaddockTimerLapse (nid : Nat) (s : State) : Out :=
  match mget s.k.nodes nid with
  | some nd =>
    if nd.timerOn && !nd.closed && !nd.det && s.active nd.cx then
      .next (s.setNode nid { nd with held := [], ready := nd.ready ++ [nd.held], timerOn := false })
    else .next s
  | none => .next s

end Sys2Proof.Machine
end

