-- ==== Sys2Proof/Machine/Place.lean ====
section
/-! DEFINITION. Room on the cores (R17, R18, R134), the placement of blocks (R137-R140, R106), the start of a group
(R136, R138, R155, R169) and the completion of a grid (R141). -/
namespace Sys2Proof.Machine

def Grid.rl (g : Grid) (lo n : Nat) : Nat := bitsOf g.lrec.toNat lo n
def Grid.hl (g : Grid) (lo n : Nat) : Nat := bitsOf g.hdr.toNat lo n
def Grid.heavy (g : Grid) : Bool := decide (g.rl 657 1 = 1)

/-! Room. -/

/-- What the groups resident on a core take: slices, register bytes and scratchpad bytes; its split unless idle. -/
structure Occ where
  slices : List Nat
  regs : Nat
  spad : Nat
  split : Option Nat
  deriving DecidableEq, Repr

/-- What a block asks of cores: its groups, each of `width` lanes and `nregs` registers (R134). -/
structure Shape where
  width : Nat
  nregs : Nat
  spill : Nat
  scratch : Nat
  split : Nat
  groups : Nat
  deriving DecidableEq, Repr

def groupBytes (w n : Nat) : Nat := w * (n + 16) * 4 + 4096
def spadBytes : Nat := 1048576

/-- The block-memory bytes each of `n` cores holds: Up(scratch / n, 256) (R137). -/
def shareOf (scratch n : Nat) : Nat := (scratch + 256 * n - 1) / (256 * n) * 256

/-- Groups resident on a core (R17). -/
def residents (s : State) (c : Nat) : List Group :=
  (s.k.groups.filter (fun e => decide (e.2.core = c) && e.2.outrider.isNone && !e.2.saved && decide (e.2.status ≠ .ended))).map
    (·.2)

/-- The slices a group holds: those not returned (R159). -/
def Group.slices (g : Group) : List Nat :=
  ((List.range (g.width / 16)).filter (fun i => !g.sliceGone (16 * i))).map (g.slice + ·)

def occOf (s : State) (c : Nat) : Occ :=
  let gs := residents s c
  let bs := s.k.blocks.filter (fun b => b.2.cores.contains c && !b.2.saved)
  { slices := gs.flatMap Group.slices
    regs := (gs.map (fun g => groupBytes g.width g.nregs)).foldl (· + ·) 0
    spad := (gs.map (·.spillBytes)).foldl (· + ·) 0 +
      (bs.map (fun b => (s.grid? b.2.grid).elim 0 (fun gr => shareOf gr.scratch b.2.cores.length))).foldl (· + ·) 0
    split := if gs.isEmpty then none else some (s.core c).split }

def Occ.idle : Occ := { slices := [], regs := 0, spad := 0, split := none }

/-- The first slices of the aligned free runs of `k` slices (R18). -/
def Occ.runs (o : Occ) (k : Nat) : List Nat :=
  ((List.range (48 / k)).map (k * ·)).filter (fun a => (List.range k).all (fun i => !o.slices.contains (a + i)))

/-- How many groups of a block a core takes beside its share of block memory (R134). -/
def Occ.room (o : Occ) (h : Shape) (share : Nat) : Nat :=
  if o.split.elim true (fun x => decide (x = h.split)) && decide (o.spad + share ≤ spadBytes) then
    let n := min (o.runs (h.width / 16)).length ((Config.regBytes h.split - o.regs) / groupBytes h.width h.nregs)
    if h.spill = 0 then n else min n ((spadBytes - o.spad - share) / h.spill)
  else 0

/-- Groups dealt to cores in order, each core filled before the next is started (R137); none if some are left over. -/
def deal : Nat → List (Nat × Nat) → Option (List (Nat × Nat))
  | 0, [] => some []
  | _ + 1, [] => none
  | g, (c, r) :: rest => (deal (g - min r g) rest).map ((c, min r g) :: ·)

/-- The `n` entries of greatest room, earlier ones first on a tie. -/
def topRooms : Nat → List (Nat × Nat) → List (Nat × Nat)
  | 0, _ => []
  | n + 1, l =>
    match l.foldl (fun (b : Option (Nat × Nat)) e => match b with
      | none => some e
      | some x => if x.2 < e.2 then some e else b) none with
    | some e => e :: topRooms n (l.erase e)
    | none => []

/-- A block placed on `n` of the cores given, in ascending core number (R137). -/
def pickCores (h : Shape) (n : Nat) (cs : List (Nat × Occ)) : Option (List (Nat × Nat)) :=
  let rs := cs.map (fun c => (c.1, c.2.room h (shareOf h.scratch n)))
  let top := topRooms n rs
  if top.length = n && top.all (fun e => decide (0 < e.2)) then deal h.groups (rs.filter (fun e => top.contains e))
  else none

/-- Core counts a block may take (R137). -/
def coreCounts : List Nat := [1, 2, 3, 4, 5, 6, 7, 8]

/-- The core count of a block: the fewest empty cores that hold it; none beyond 8 (R135, R137). -/
def blockCores (h : Shape) : Option Nat :=
  coreCounts.find? (fun n => (pickCores h n ((List.range n).map (fun i => (i, Occ.idle)))).isSome)

def clusterCores (cl : Nat) : List Nat := (List.range 12).map (12 * cl + ·)

/-- Free slices of a cluster. -/
def freeSlices (cs : List (Nat × Occ)) : Nat := (cs.map (fun c => 48 - c.2.slices.length)).foldl (· + ·) 0

/-- A cluster placed by descending free slices, then ascending number (R139). -/
def insertCluster (e : Nat × List (Nat × Occ)) : List (Nat × List (Nat × Occ)) → List (Nat × List (Nat × Occ))
  | [] => [e]
  | x :: r => if freeSlices x.2 < freeSlices e.2 then e :: x :: r else x :: insertCluster e r

/-- The clusters with the occupation of their cores, as R139 prefers them. -/
def clustersByRoom (s : State) : List (Nat × List (Nat × Occ)) :=
  (List.range Config.clusters).foldl (fun l cl =>
    insertCluster (cl, (clusterCores cl).map (fun c => (c, occOf s c))) l) []

/-- The cores of the next block: the fewest, then the preferred cluster (R137, R139). -/
def placeFree (h : Shape) (cls : List (Nat × List (Nat × Occ))) : Option (List (Nat × Nat)) :=
  coreCounts.findSome? (fun n => cls.findSome? (fun cl => pickCores h n cl.2))

/-- A shape's groups added to a core on a package that holds nothing else; `dead` slices of the last are returned. -/
def Occ.add (o : Occ) (h : Shape) (share t dead : Nat) : Occ :=
  let k := h.width / 16
  let used := ((o.runs k).take t).flatMap (fun a => (List.range k).map (a + ·))
  { slices := o.slices ++ used.take (used.length - dead), regs := o.regs + t * groupBytes h.width h.nregs
    spad := o.spad + share + t * h.spill, split := some h.split }

/-- Blocks that one empty cluster holds together (R135); every cluster fills alike. -/
def clusterHolds : Nat → Shape → Nat → List (Nat × Occ) → Nat
  | 0, _, _, _ => 0
  | f + 1, h, dead, cs =>
    match placeFree h [(0, cs)] with
    | none => 0
    | some d =>
      let share := shareOf h.scratch d.length
      let last := (d.filter (fun e => decide (0 < e.2))).getLast?.elim 0 (·.1)
      1 + clusterHolds f h dead (cs.map (fun c => match d.find? (fun e => decide (e.1 = c.1)) with
        | some e => (c.1, c.2.add h share e.2 (if e.1 = last then dead else 0))
        | none => c))

/-- Slices of the last group of a block of `t` threads that hold no live lane (R138). -/
def deadSlices (w t : Nat) : Nat := w / 16 - (t - (t - 1) / w * w + 15) / 16

/-- `coop`: all blocks fit together on an otherwise empty package (R135). -/
def coopFits (h : Shape) (t blocks : Nat) : Bool :=
  decide (blocks ≤ Config.clusters * clusterHolds 577 h (deadSlices h.width t) ((clusterCores 0).map (fun c => (c, Occ.idle))))

def Grid.shape (g : Grid) (groups : Nat) : Shape :=
  { width := g.width, nregs := g.nregs, spill := g.spill, scratch := g.scratch, split := g.split, groups := groups }

/-! The start of a group. -/

def Group.blank : Group :=
  { cx := 0, grid := 0, block := 0, gidx := 0, outrider := none, width := 0, nregs := 0, sblk := 1, spillBytes := 0,
    core := 0, slice := 0, pipe := 0, prio := 0, img := 0, hoff := 0, codeEnd := 0, status := .boundary, saved := false,
    pc := 0, cla := 0, cend := 0, seta := 0, setb := 0, yld := false, V := [], Q := [], fl := [], S := [],
    M := [], K := [], F := [], bv := 0, bs := 0, nbv := 0, nbs := 0, exm := 0, pth := 0, live := 0, hlp := 0, J := [],
    holds := [], conts := [], reenter := none, brd := 0, ih := false, fcla := 0, fres := 0, fcau := 0, fln := 0, fex := 0,
    fbv := 0, fbs := 0, foff := 0, frec := 0, forg := 0, cychL := 0, age := 0, waited := 0, yielding := false,
    yieldTo := none, park := none, sfq := [], spill := [], spillTags := [], owed := [], dfaults := [],
    nSpawn := [], nAlloc := 0, nDefer := [], nIssued := 0, readFrom := [], ties := [], sigw := none, traps := 0, afresh := false }

/-- Lanes of a group that starts with `m` threads or records: those and the helper lanes of their last quad (R138). -/
def startLanes (m : Nat) : Lanes := firstLanes (4 * ((m + 3) / 4))

/-- The pipe whose groups hold the fewest slices, the lower on a tie (R169). -/
def pickPipe (s : State) (c : Nat) : Nat :=
  let load (p : Nat) : Nat := (((residents s c).filter (fun g => decide (g.pipe = p))).map (fun g => g.slices.length)).foldl (· + ·) 0
  [1, 2, 3].foldl (fun b p => if load p < load b then p else b) 0

/-- GROUP_LAUNCH: group `gidx` of a block starts on core `c` with `m` lanes (R136, R138, R155, R169); `recs` are the
records of a paddock group, `disc` their discriminator. -/
def startGroup (s : State) (gid : Nat) (gr : Grid) (bid gidx c m : Nat) (recs : List SpawnRec) (disc : Nat) : Nat × State :=
  let o := occOf s c
  let (id, s) := s.take
  let s := if o.split.isNone then s.setCore c { (s.core c) with split := gr.split } else s
  let g : Group := { Group.blank with
    cx := gr.cx, grid := gid, block := bid, gidx := gidx, width := gr.width, nregs := gr.nregs, sblk := gr.sblk
    spillBytes := gr.spill, core := c, slice := ((o.runs (gr.width / 16)).head?).getD 0, pipe := pickPipe s c
    prio := gr.rl 665 3, img := gr.rl 0 64, hoff := gr.hoff, codeEnd := gr.codeEnd
    pc := if gr.code.isSome then 256 else gr.hl 192 32
    exm := startLanes m, pth := startLanes m, live := startLanes m, hlp := startLanes m &&& ~~~firstLanes m
    brd := gr.lrec.extractLsb' 704 16
    Q := List.replicate 16 (List.replicate gr.width { val := 0, pend := none }) }
  let g := if gr.node.isNone then g else
    let g := { g with S := sset 0 (sset 0 [] 0 (BitVec.ofNat 32 m)) 1 (BitVec.ofNat 32 disc) }
    recs.zipIdx.foldl (fun g r => r.1.words.zipIdx.foldl (fun g w => g.vset w.2 r.2 w.1) g) g
  (id, l1Acquire (s.setGroup id g) c gr.cx)

/-- A block of `t` threads on the cores of a deal: its groups in ascending index (R137, R138). -/
def startBlock (s : State) (gid : Nat) (gr : Grid) (b t : Nat) (d : List (Nat × Nat)) (recs : List SpawnRec) (disc : Nat) : State :=
  let (bid, s) := s.take
  let s := s.setBlock bid { grid := gid, cx := gr.cx, b := b, cores := d.map (·.1), groups := [], threads := t, bmem := []
                            saved := false, tiles := [] }
  let homes := d.flatMap (fun e => List.replicate e.2 e.1)
  homes.zipIdx.foldl (fun s e =>
    let (id, s) := startGroup s gid gr bid e.2 e.1 (min gr.width (t - gr.width * e.2)) recs disc
    match s.block? bid with
    | some k => s.setBlock bid { k with groups := k.groups ++ [id] }
    | none => s) s

/-! Placement. -/

/-- Threads of a block of a grid. -/
def Grid.threads (g : Grid) : Nat := g.rl 256 13 * g.rl 272 13 * g.rl 288 13

/-- The cores of block `b` of a deterministic grid: those of its unit (R140). -/
def detDeal (s : State) (gr : Grid) : Option (List (Nat × Nat)) :=
  let n := gr.ncores
  let u := gr.nextBlock % (gr.lmap.length / n)
  let cs := (gr.lmap.drop (n * u)).take n
  deal gr.ngroups (cs.map (fun c => (c, (occOf s c).room (gr.shape gr.ngroups) (shareOf gr.scratch n))))

/-- The next block of a grid placed, if cores for it exist. -/
def placeNext (s : State) (gid : Nat) : Option State :=
  match s.grid? gid with
  | none => none
  | some gr =>
    if gr.nextBlock < gr.blocks then
      (if gr.lmap.isEmpty then placeFree (gr.shape gr.ngroups) (clustersByRoom s) else detDeal s gr).map (fun d =>
        startBlock (s.setGrid gid { gr with nextBlock := gr.nextBlock + 1 }) gid gr gr.nextBlock gr.threads d [] 0)
    else none

/-- Every remaining block of a cooperative grid placed at one moment, or none (R139). -/
def placeAllBlocks : Nat → State → Nat → Option State
  | 0, s, _ => some s
  | n + 1, s, gid => (placeNext s gid).bind (fun s => placeAllBlocks n s gid)

/-- The next group of a node's paddock placed (R155). -/
def placePaddock (s : State) (nid : Nat) (nd : Node) (gr : Grid) : Option State :=
  let nd := detCut s gr nd
  match nd.ready with
  | [] => none
  | recs :: rest =>
    (placeFree (gr.shape 1) (clustersByRoom s)).map (fun d =>
      let s := { s with k := { s.k with nodes := mput s.k.nodes nid { nd with ready := rest } } }
      let gr' := { gr with nodeGroups := gr.nodeGroups + 1, blocks := gr.blocks + 1, nextBlock := gr.nextBlock + 1 }
      startBlock (s.setGrid nd.grid gr') nd.grid gr' 0 recs.length d recs nd.disc)

/-! The return of saved blocks (R106). -/

/-- Groups of a block, by the position of their core among the block's cores. -/
def membersAt (s : State) (b : Block) (pos : Nat) : List (Nat × Group) :=
  b.groups.filterMap (fun g => (s.group? g).bind (fun x =>
    if b.cores[pos]? = some x.core then some (g, x) else none))

/-- Those that have not ended. -/
def groupsAt (s : State) (b : Block) (pos : Nat) : List (Nat × Group) :=
  (membersAt s b pos).filter (fun e => decide (e.2.status ≠ .ended))

/-- Core `c` can take what position `pos` of a saved block held: its groups at the block's split, and its tiles. -/
def takesPos (s : State) (b : Block) (gr : Grid) (pos c : Nat) : Bool :=
  decide ((groupsAt s b pos).length ≤ (occOf s c).room (gr.shape gr.ngroups) (shareOf gr.scratch b.cores.length)) &&
    (occOf s c).split.elim true (fun x => decide (x = gr.split)) &&
    decide ((occOf s c).spad + shareOf gr.scratch b.cores.length ≤ spadBytes) &&
    (b.tiles.filter (fun t => decide (t.pos = pos))).all (fun t => decide ((s.tile c t.z).holder = none))

/-- A core for each position, among the cores left. -/
def assignCores (s : State) (b : Block) (gr : Grid) : List Nat → List Nat → Option (List Nat)
  | [], _ => some []
  | p :: ps, av => av.findSome? (fun c => if takesPos s b gr p c then (assignCores s b gr ps (av.erase c)).map (c :: ·) else none)

/-- A saved group back on core `c`: any aligned slices, its pipe kept; a stalled word is issued again (R105). -/
def returnGroup (s : State) (c : Nat) (e : Nat × Group) : State :=
  let o := occOf s c
  let status : GStatus := match e.2.status with
    | .stalled (.merge b) => .stalled (.merge b)
    | .stalled _ => .issuing
    | x => x
  let s := s.setGroup e.1 { e.2 with core := c, slice := ((o.runs (e.2.width / 16)).head?).getD 0, saved := false
                                     status := status }
  let mine := s.mem.ops.filter (fun x => decide (x.2.gid = e.1))
  mine.foldl (fun s x =>
    let s := s.setOp x.1 { x.2 with core := c }
    if x.2.kind.isEngine then enqueueEngine s x.1 { x.2 with core := c } else s) s

/-- A saved tile back on core `c`; its loops ask for leave, those paused at their retry (R334, R390). -/
def returnTile (s : State) (c : Nat) (t : SavedTile) : State :=
  (t.tile.loops.filter (fun l => !l.paused)).foldl (fun s l => askLeave s (Config.dieOfCore c) l.id) (s.setTile c t.z t.tile)

/-- Parked accesses and paused loops of groups retried as by a REPLAY (R106). -/
def retryOf (s : State) (gs : List Nat) : State :=
  (parkedAll s (fun o => gs.contains o.gid) (fun l => gs.contains l.gid) (fun _ => false)).foldl retryParked s

/-- A saved block placed on the cores chosen, with its groups, of which ended ones may have operations and loops
outstanding, and its tiles (R106). -/
def returnBlock (s : State) (bid : Nat) (b : Block) (gr : Grid) (cs : List Nat) : State :=
  let homes := (List.range cs.length).map (membersAt s b)
  let s := (cs.zip homes).foldl (fun s e =>
    let s := s.setCore e.1 { (s.core e.1) with contended := 0, choice := none }
    let s := if (occOf s e.1).split.isNone then s.setCore e.1 { (s.core e.1) with split := gr.split } else s
    e.2.foldl (fun s g => returnGroup s e.1 g) s) s
  let s := b.tiles.foldl (fun s t => (cs[t.pos]?).elim s (fun c => returnTile s c t)) s
  retryOf (s.setBlock bid { b with cores := cs, saved := false, tiles := [] }) b.groups

/-- A saved group that ended, and its block with it, back with the tiles that its loops hold: on the first core, in the
order in which R139 prefers clusters, where those tiles are free (R106, R309); the engine's weighted choice restarts there
(R334). -/
def returnEnded (s : State) (id : Nat) (g : Group) : State :=
  let x := s.ctx g.cx
  let ts := x.orphans.filter (fun t => decide (t.tile.holder = some id))
  match ((clustersByRoom s).flatMap (fun c => c.2.map (·.1))).find? (fun c =>
      ts.all (fun t => decide ((s.tile c t.z).holder = none))) with
  | none => s
  | some c =>
    let s := s.setCtx g.cx { x with orphans := x.orphans.filter (fun t => decide (t.tile.holder ≠ some id)) }
    let s := s.setCore c { (s.core c) with contended := 0, choice := none }
    retryOf (ts.foldl (fun s t => returnTile s c t) (returnGroup s c (id, g))) [id]

/-- Every such group of an active context for which there is room. -/
def returnLeft (s : State) : State :=
  (s.k.groups.filter (fun e => e.2.saved && decide (e.2.status = .ended) && e.2.outrider.isNone && s.active e.2.cx &&
    (s.block? e.2.block).isNone)).foldl (fun s e => returnEnded s e.1 e.2) s

/-- The cluster and cores for a saved block, chosen as R139 chooses. -/
def returnCores (s : State) (b : Block) (gr : Grid) : Option (List Nat) :=
  (clustersByRoom s).findSome? (fun cl => assignCores s b gr (List.range b.cores.length) (cl.2.map (·.1)))

/-- One saved block returned, if cores for it exist. -/
def returnOne (s : State) (bid : Nat) : Option State :=
  match s.block? bid with
  | some b => (s.grid? b.grid).bind (fun gr => (returnCores s b gr).map (returnBlock s bid b gr))
  | none => none

def returnAll : List Nat → State → Option State
  | [], s => some s
  | b :: r, s => (returnOne s b).bind (returnAll r)

/-- Saved blocks of a context, in launch order. -/
def savedBlocks (s : State) (cx : Nat) : List (Nat × Block) := s.k.blocks.filter (fun b => decide (b.2.cx = cx) && b.2.saved)

/-! Die-wide scratchpad (R20, R103). -/

/-- Die-wide scratchpad of a die, in units of 64 KiB. -/
def dieUnits (s : State) (die : Nat) : Nat := (8 - sget 6 s.care.l2u die) * 256

/-- Units of a die in use: every share has the same size on each die. -/
def shareUnits (s : State) : Nat :=
  ((s.cx.ctxs.filter (fun e => e.2.placedShare)).map (·.2.dsh)).foldl (· + ·) 0

/-- Every compute die has room for a share. -/
def shareFits (s : State) (dsh : Nat) : Bool :=
  (List.range 4).all (fun d => decide (shareUnits s + dsh ≤ dieUnits s d))

/-- The shares of a context placed again where every die has room (R103). -/
def placeShares (s : State) (c : Nat) : State :=
  let x := s.ctx c
  if !x.placedShare && s.active c && shareFits s x.dsh then s.setCtx c { x with placedShare := true } else s

/-- Whether a grid's blocks may be placed now: an active context with its scratchpad shares, and a `heavy` grid only
away from the die's budget (R103, R105, R391). -/
def mayPlace (s : State) (gr : Grid) : Bool :=
  s.active gr.cx && (s.ctx gr.cx).placedShare && !(gr.heavy && nearBudget s (gridDie s gr))

/-- BLOCK_PLACE of grid `gid`: saved blocks of its context in launch order, then its next block (R137-R140, R106); for no
grid, what blocks that have exited left outstanding when their context was saved. -/
def execBlockPlace (gid : Nat) (s : State) : Out :=
  match s.grid? gid with
  | none => .next (returnLeft s)
  | some gr =>
    let s := placeShares s gr.cx
    if !mayPlace s gr then .next s
    else match savedBlocks s gr.cx with
      | (bid, b) :: rest =>
        if b.grid ≠ gid then .next s
        else if gr.coop then
          .next ((returnAll (bid :: (rest.filter (fun x => decide (x.2.grid = gid))).map (·.1)) s).getD s)
        else .next ((returnOne s bid).getD s)
      | [] =>
        match gr.node with
        | some nid => match mget s.k.nodes nid with
          | some nd => .next ((placePaddock s nid nd gr).getD s)
          | none => .next s
        | none =>
          .next ((if gr.coop then placeAllBlocks (gr.blocks - gr.nextBlock) s gid else placeNext s gid).getD s)

/-- What a completed packet's record carries of its grid (R126). -/
def noteGrid (s : State) (p blocks : Nat) (cause : BitVec 8) : State :=
  match s.pkt? p with
  | some k => s.setPkt p { k with blocks := blocks, cause := cause }
  | none => s

/-- GRID_COMPLETE: every block has exited; the commit buffer is applied and the packet is done (R141, R289). -/
def execGridComplete (gid : Nat) (s : State) : Out :=
  match s.grid? gid with
  | none => .next s
  | some gr =>
    if gr.node.isNone && decide (gr.nextBlock = gr.blocks) && decide (gr.exited = gr.blocks) && s.active gr.cx &&
        (s.pkt? gr.pkt).elim false (fun k => !k.finished) then
      let s := commitApply s gid
      let s := { s with k := { s.k with bars := s.k.bars.filter (fun n =>
        !((decide (n.lv = 2) && decide (n.id = gid)) || (decide (n.lv = 1) && decide (n.id / 32 = gid)))) } }
      let s := finishPacket (noteGrid s gr.pkt gr.blocks gr.cause) gr.pkt 0
      .next (nodesDone (match gr.pkt2 with
        | some p => finishPacket (noteGrid s p gr.blocks gr.cause) p 0
        | none => s))
    else .next s

end Sys2Proof.Machine
end

