-- ==== Sys2Proof/Machine/Launch.lean ====
section
/-! DEFINITION. Launch records and kernel images (R131, R133), their refusal (R135), and a grid taken (R121, R136, R140). -/
namespace Sys2Proof.Machine

/-- `n` bytes at an object address of a context, read at the home L2; none where they do not translate. -/
def seqMem (s : State) (cx a n : Nat) : Option Nat :=
  match seqBytes s cx a n with
  | .ok ps => some (seqRead s cx ps)
  | .error _ => none

/-- 8 bytes at an object address can be written (R117, R135). -/
def signalWritable (s : State) (cx a : Nat) : Bool :=
  match seqBytes s cx a 8 with
  | .ok ps => ps.all (fun p => !p.wp)
  | .error _ => false

/-- Bits of a field list are zero. -/
def zeroBits (v : Nat) (fs : List (Nat × Nat)) : Bool := fs.all (fun f => decide (bitsOf v f.1 f.2 = 0))

/-- The header of a kernel image holds listed values only (R131). -/
def headerOk (h : Nat) : Bool :=
  zeroBits h [(480, 544), (393, 23), (176, 16), (60, 4), (53, 3), (42, 6), (416, 2), (352, 3), (96, 8)] &&
    decide (bitsOf h 0 32 = 0x4C454143) && decide (bitsOf h 32 8 = 1) && decide (bitsOf h 40 2 ≤ 2) &&
    decide (1 ≤ bitsOf h 48 5) && decide (bitsOf h 48 5 ≤ 30) && decide (1 ≤ bitsOf h 56 4) && decide (bitsOf h 56 4 ≤ 8) &&
    decide (bitsOf h 64 32 ≤ 1048576) && decide (bitsOf h 96 32 ≤ 65536) && decide (bitsOf h 128 3 ≤ 4) &&
    decide (bitsOf h 384 9 ≤ 256)

/-- A launch record holds listed values only (R133). -/
def recordOk (l : Nat) : Bool :=
  zeroBits l [(720, 1328), (681, 23), (668, 4), (301, 19), (285, 3), (269, 3), (137, 23), (0, 12), (64, 5), (320, 4), (384, 3),
      (512, 3)] &&
    (decide (bitsOf l 662 3 ≤ 4) || decide (bitsOf l 662 3 = 7)) && decide (bitsOf l 128 9 ≤ 256) &&
    (decide (bitsOf l 659 1 = 0) || decide (bitsOf l 660 2 = 1) || decide (bitsOf l 660 2 = 2))

/-- The split taken: the record's, or the image's for 7 (R133). -/
def splitOf (l h : Nat) : Nat := if bitsOf l 662 3 = 7 then bitsOf h 128 3 else bitsOf l 662 3

def widthOf (h : Nat) : Nat := 16 * 2 ^ bitsOf h 40 2
def threadsOf (l : Nat) : Nat := bitsOf l 256 13 * bitsOf l 272 13 * bitsOf l 288 13

/-- The shape of a block of a launch; a node's block is one group (R155). -/
def shapeOf (l h : Nat) (node : Bool) : Shape :=
  { width := widthOf h, nregs := 16 * bitsOf h 48 5, spill := bitsOf h 96 32, scratch := bitsOf h 64 32, split := splitOf l h
    groups := if node then 1 else (threadsOf l + widthOf h - 1) / widthOf h }

/-- The binding-table copies a launch takes, with their tags (R136). -/
def readBinds (s : State) (cx a n : Nat) : Option (List (BitVec 256 × Bool)) :=
  ((List.range n).mapM (fun i => seqMem s cx (a + 32 * i) 32)).map (fun vs => vs.map (fun v => (BitVec.ofNat 256 v, true)))

/-- The refusals of R135 that do not turn on a size. -/
def launchOk (s : State) (cx l h : Nat) (node : Bool) : Bool :=
  recordOk l && headerOk h && decide (bitsOf h 128 3 ≤ splitOf l h) &&
    (node || (decide (0 < threadsOf l) && decide (threadsOf l ≤ 4096))) &&
    (blockCores (shapeOf l h node)).isSome &&
    (readBinds s cx (bitsOf l 64 64) (bitsOf l 128 9)).isSome &&
    (decide (bitsOf l 704 16 = 0) || s.brandLive cx (bitsOf l 704 16)) &&
    (node || decide (bitsOf l 655 1 = 0) ||
      (decide (1 ≤ bitsOf l 672 9) && decide (bitsOf l 672 9 ≤ 384) &&
        decide (bitsOf l 672 9 % (blockCores (shapeOf l h node)).getD 1 = 0))) &&
    (decide (bitsOf l 654 1 = 0) || decide (bitsOf l 384 64 ≠ 0)) &&
    (decide (bitsOf l 512 64 = 0) || signalWritable s cx (bitsOf l 512 64))

/-- The refusals that turn on the size: more than 2^31 blocks, or a cooperative grid too large (R135). -/
def sizeOk (l h : Nat) (d : Nat × Nat × Nat) : Bool :=
  let n := d.1 * d.2.1 * d.2.2
  decide (n ≤ 2 ^ 31) && (decide (bitsOf l 656 1 = 0) || coopFits (shapeOf l h false) (threadsOf l) n)

/-- The dimensions a record gives itself. -/
def ownSize (l : Nat) : Nat × Nat × Nat := (bitsOf l 160 32, bitsOf l 192 32, bitsOf l 224 32)

/-- A record and its image's header at an object address: none where the record cannot be read, and a header of 0, which
is refused, where the image cannot. -/
def readLaunch (s : State) (cx a : Nat) : Option (Nat × Nat) :=
  (seqMem s cx a 256).map (fun l => (l, (seqMem s cx (bitsOf l 0 64) 128).getD 0))

/-- Whether a record and image are taken, apart from an indirect size. -/
def accepted (s : State) (cx l h : Nat) (node : Bool) : Bool :=
  launchOk s cx l h node && (node || decide (bitsOf l 654 1 = 1) || sizeOk l h (ownSize l))

/-- The map from logical to physical cores of a deterministic grid, units in ascending clusters (R140). -/
def logicalMap (lcores n : Nat) : List Nat :=
  let per := 12 / n
  (List.range (lcores / n)).flatMap (fun u =>
    (List.range n).map (fun j => 12 * (u % (32 * per) / per) + n * (u % per) + j))

/-- The grid of a launch or node with packet `p` (R121, R133). -/
def newGrid (s : State) (p cx q seq l h : Nat) (d : Nat × Nat × Nat) (det : Bool) (node : Option Nat) : Grid :=
  let sh := shapeOf l h node.isSome
  let n := (blockCores sh).getD 1
  { cx := cx, q := q, pkt := p, pkt2 := none, seq := seq, lrec := BitVec.ofNat 2048 l, hdr := BitVec.ofNat 1024 h, lrec2 := 0
    gx := d.1, gy := d.2.1, gz := d.2.2, width := sh.width, nregs := sh.nregs, sblk := bitsOf h 56 4
    scratch := sh.scratch, spill := sh.spill, split := sh.split, ncores := n, ngroups := sh.groups
    blocks := if node.isSome then 0 else d.1 * d.2.1 * d.2.2, nextBlock := 0, exited := 0, det := det
    binds := (readBinds s cx (bitsOf l 64 64) (bitsOf l 128 9)).getD [], binds2 := [], cause := 0, causeKey := []
    code := none, origin := [], sections := [], hoff := bitsOf h 256 32, hoff2 := 0, codeEnd := 256 + 4 * bitsOf h 224 32
    ties := [], elide := false
    lmap := if det && node.isNone then logicalMap (bitsOf l 672 9) n else [], node := node, nodeGroups := 0 }

end Sys2Proof.Machine
end

