-- ==== Sys2Proof/Machine/Splice.lean ====
section
/-! DEFINITION. The tandem linker (R143-R148): whether two kernels splice, and the code of the spliced kernel. -/
namespace Sys2Proof.Machine

/-! The clauses of a kernel. -/

/-- A clause of an image: its header with its offset, and its instructions with theirs. -/
structure SClause where
  off : Nat
  hdr : Header
  ins : List (Nat × List Word)

/-- Words cut into instructions (R70, R71). -/
def cutInstrs : Nat → Nat → List Word → List (Nat × List Word)
  | 0, _, _ => []
  | _ + 1, _, [] => []
  | f + 1, off, w :: r =>
    (off, w :: r.take (extWords w)) :: cutInstrs f (off + 4 * (1 + extWords w)) (r.drop (extWords w))

/-- Code words cut into clauses, as far as they are a sequence of clauses, and whether all of them are. -/
def cutClauses : Nat → Nat → List Word → List SClause × Bool
  | _, _, [] => ([], true)
  | 0, _, _ => ([], false)
  | f + 1, off, w :: r =>
    match decodeHeader w with
    | none => ([], false)
    | some h =>
      let n := h.len.toNat + 1
      if r.length < n then ([], false)
      else
        let l := cutClauses f (off + 4 + 4 * n) (r.drop n)
        ({ off := off, hdr := h, ins := cutInstrs n (off + 4) (r.take n) } :: l.1, l.2)

def instrAt (ws : List Word) : Option Instr :=
  match decodeClause ws with
  | .ok i => some i
  | .error _ => none

/-- The header a word transfers to, by the header of its clause (R66, R239). -/
def targetOf (hd : Nat) : Instr → Option Nat
  | .bra o | .brc _ o | .brcZ _ o | .brv _ _ o | .call _ o => some ((hd : Int) + 4 * o.toInt).toNat
  | .xcopy w | .qrekey w | .xgath w => if w.idx then some ((hd : Int) + 4 * w.off.toInt).toNat else none
  | _ => none

def isBranch : Instr → Bool
  | .bra _ | .brc _ _ | .brcZ _ _ | .brv _ _ _ | .call _ _ => true
  | _ => false

def isCall : Instr → Bool
  | .call _ _ => true
  | _ => false

/-- A kernel for the linker: its image's address and header, its clauses, whether they are all of its code, and its tie
table. -/
structure SKernel where
  img : Nat
  h : Nat
  cls : List SClause
  whole : Bool
  ties : List (Nat × Nat × Bool)

def SKernel.entry (k : SKernel) : Nat := bitsOf k.h 192 32
def SKernel.sbeg (k : SKernel) : Nat := bitsOf k.h 288 32
def SKernel.send (k : SKernel) : Nat := bitsOf k.h 320 32
def SKernel.hoff (k : SKernel) : Nat := bitsOf k.h 256 32
def SKernel.nregs (k : SKernel) : Nat := 16 * bitsOf k.h 48 5
def SKernel.sblk (k : SKernel) : Nat := bitsOf k.h 56 4

/-- Every instruction with the header of its clause and its offset. -/
def SKernel.instrs (k : SKernel) : List (Nat × Nat × Instr) :=
  k.cls.flatMap (fun c => c.ins.filterMap (fun i => (instrAt i.2).map (fun x => (c.off, i.1, x))))

/-- The clause that holds the first EXIT, the end of the epilogue. -/
def SKernel.exitClause (k : SKernel) : Option SClause :=
  k.cls.find? (fun c => c.ins.any (fun i => decide (instrAt i.2 = some .exit)))

def SClause.next (c : SClause) : Nat := c.off + 4 + 4 * (c.hdr.len.toNat + 1)
def SClause.lastInstr (c : SClause) : Option Instr := c.ins.getLast?.bind (fun i => instrAt i.2)

/-- Section of an offset: 0 prologue, 1 body, 2 epilogue, 3 the handler's part. -/
def SKernel.sec (k : SKernel) (o : Nat) : Nat :=
  if o < k.sbeg then 0 else if o < k.send then 1 else if o < k.exitClause.elim 0 SClause.next then 2 else 3

def SKernel.section (k : SKernel) (n : Nat) : List SClause := k.cls.filter (fun c => decide (k.sec c.off = n))

/-- Well formed for splicing (0x18 of R144, R145). -/
def SKernel.fits (k : SKernel) : Bool :=
  let heads := k.cls.map (·.off)
  let is := k.instrs
  match k.exitClause with
  | none => false
  | some x =>
    k.whole && decide (k.entry = 256) && heads.contains k.sbeg && heads.contains k.send && decide (k.sbeg < k.send) &&
      decide (k.send ≤ x.off) && decide (x.lastInstr = some .exit) &&
      decide ((x.ins.filter (fun i => decide (instrAt i.2 = some .exit))).length = 1) &&
      (if k.hoff = 0 then (k.section 3).isEmpty else decide (x.next = k.hoff) && heads.contains k.hoff) &&
      ((k.section 1).getLast?.elim false (fun c => match c.lastInstr with
        | some i => isBranch i && !isCall i && decide (targetOf c.off i = some k.sbeg)
        | none => false)) &&
      is.all (fun i => match targetOf i.1 i.2.2 with
        | none => true
        | some t => heads.contains t &&
          (!isBranch i.2.2 || decide (i.2.1 + 4 = k.send) || (decide (k.sec i.1 = 1) == decide (k.sec t = 1))) &&
          (!isCall i.2.2 || decide (k.sec i.1 = k.sec t)))

/-! Queue reads (R146). -/

/-- Values an instruction pushes (R162). -/
def pushes (width : Nat) : Instr → Nat
  | .vmov .. | .vbcast .. | .vlane .. | .vadd .. | .vsub .. | .vadds .. | .vsubs .. | .vmul .. | .vmulh .. | .vmulhu ..
  | .vmad .. | .vabs .. | .vneg .. | .vmin .. | .vmax .. | .vminu .. | .vmaxu .. | .vand .. | .vor .. | .vxor ..
  | .vnot .. | .vshl .. | .vshr .. | .vsar .. | .vbfx .. | .vbfi .. | .vclz .. | .vpopc .. | .vlea .. | .vsel ..
  | .fadd .. | .fsub .. | .fmul .. | .ffma .. | .fmin .. | .fmax .. | .fdiv .. | .fscale .. | .fabs .. | .fneg ..
  | .fclass .. | .frnd .. | .fsqrt .. | .frcp .. | .frsq .. | .fexp2 .. | .flog2 .. | .fsin .. | .fcos .. | .ftanh ..
  | .cvtff .. | .cvtfi .. | .cvtif .. | .vflg .. | .pack8 .. | .unpk8 .. | .perm .. | .qswz .. | .scan .. | .red ..
  | .vmovi .. | .vaddVri .. | .vmulVri .. | .vandVri .. | .vorVri .. | .vxorVri .. | .vshlVri .. | .vshrVri ..
  | .vsarVri .. | .vminVri .. | .vmaxVri .. | .vminuVri .. | .vmaxuVri .. | .topki .. | .atom _ | .cas _ => 1
  | .matchKeys .. => if width ≤ 32 then 1 else 2
  | .ld w | .ldq w | .ldb w => w.cnt + 1
  | _ => 0

/-- The vector operands an instruction reads. -/
def vectorSources : Instr → List (BitVec 7)
  | .vmov _ a _ | .vabs _ a _ | .vneg _ a _ | .vnot _ a _ | .vclz _ a _ | .vpopc _ a _ | .fabs _ a _ _ | .fneg _ a _ _
  | .fclass _ a _ _ | .frnd _ a _ _ | .fsqrt _ a _ _ | .frcp _ a _ _ _ | .frsq _ a _ _ _ | .fexp2 _ a _ _ _
  | .flog2 _ a _ _ _ | .fsin _ a _ _ _ | .fcos _ a _ _ _ | .ftanh _ a _ _ _ | .cvtff _ a _ _ _ | .cvtfi _ a _ _ _ _
  | .cvtif _ a _ _ _ _ | .unpk8 _ _ a _ _ | .qswz _ a _ _ | .matchKeys _ a _ | .scan _ a _ _ _ _ | .red _ a _ _ _
  | .vaddVri _ a _ | .vmulVri _ a _ | .vandVri _ a _ | .vorVri _ a _ | .vxorVri _ a _ | .vshlVri _ a _ | .vshrVri _ a _
  | .vsarVri _ a _ | .vminVri _ a _ | .vmaxVri _ a _ | .vminuVri _ a _ | .vmaxuVri _ a _ | .vcmpVri _ _ a _ => [a]
  | .vflg _ a w => if w then [a] else []
  | .vadd _ a b _ | .vsub _ a b _ | .vadds _ a b _ | .vsubs _ a b _ | .vmul _ a b _ | .vmulh _ a b _ | .vmulhu _ a b _
  | .vmin _ a b _ | .vmax _ a b _ | .vminu _ a b _ | .vmaxu _ a b _ | .vand _ a b _ | .vor _ a b _ | .vxor _ a b _
  | .vshl _ a b _ | .vshr _ a b _ | .vsar _ a b _ | .vbfx _ a b _ | .vlea _ _ a b _ | .vcmp _ _ a b _ | .vsel _ a b _
  | .fadd _ _ a b _ | .fsub _ _ a b _ | .fmul _ _ a b _ | .fmin _ _ a b _ | .fmax _ _ a b _ | .fdiv _ _ a b _
  | .fscale _ _ a b _ | .fcmp _ _ a b _ | .pack8 _ _ a b _ | .perm _ a b _ => [a, b]
  | .vmad _ a b m | .vbfi _ a b m | .ffma _ _ a b m => [a, b, m.codeC]
  | .topki _ a _ i => [a, i]
  | .st w => (List.range (w.cnt + 1)).map (fun j => w.data + BitVec.ofNat 7 j) ++ (if w.idx then [w.index] else [])
  | .qst w => w.data :: (if w.idx then [w.index] else [])
  | .ld w | .ldq w | .ldb w | .probe w | .atom w | .cas w => if w.idx then [w.index] else []
  | .xgath w => [w.index]
  | _ => []

/-- A clause that never falls through to the next. -/
def endsPath : Option Instr → Bool
  | some (.bra _) | some (.ret _) | some .exit | some .rft | some (.trap _) => true
  | _ => false

/-- Fewest pushes at each clause of a section along its paths, refined `n` times from its first clause. A path goes on after a CALL
with none of the callee's pushes, and after a clause that yields to the clause that follows it (DEDUCED,
notes/assumptions/142.md). -/
def pushMap (width : Nat) (cs : List SClause) : Nat → List (Nat × Nat) → List (Nat × Nat)
  | 0, m => m
  | n + 1, m =>
    let lower (m : List (Nat × Nat)) (t v : Nat) : List (Nat × Nat) :=
      if cs.all (fun c => decide (c.off ≠ t)) then m
      else match m.find? (fun e => decide (e.1 = t)) with
        | none => (t, v) :: m
        | some e => if v < e.2 then (t, v) :: m.filter (fun x => decide (x.1 ≠ t)) else m
    pushMap width cs n (cs.foldl (fun m c =>
      match m.find? (fun e => decide (e.1 = c.off)) with
      | none => m
      | some e =>
        let is := c.ins.map (fun i => instrAt i.2)
        let out := e.2 + (is.map (fun i => i.elim 0 (pushes width))).foldl (· + ·) 0
        let m := if endsPath c.lastInstr then m else lower m c.next out
        is.foldl (fun m i => match i.bind (targetOf c.off) with
          | some t => lower m t out
          | none => m) m) m)

/-- Every queue read of a section finds its value within the section (R146). -/
def sealed (width : Nat) (cs : List SClause) : Bool :=
  match cs with
  | [] => true
  | c0 :: _ =>
    let m := pushMap width cs cs.length [(c0.off, 0)]
    cs.all (fun c => match m.find? (fun e => decide (e.1 = c.off)) with
      | none => true
      | some e => (c.ins.foldl (fun (st : Nat × Bool) i => match instrAt i.2 with
          | some x => (st.1 + pushes width x, st.2 && (vectorSources x).all (fun q => decide (0x10 ≤ q) || decide (q.toNat + 1 ≤ st.1)))
          | none => st) (e.2, true)).2)

/-! Renumbering (R146). -/

/-- New numbers for the consumer's masks, records, flags, tiles and join counters, and the sizes of the producer's part. -/
structure Renum where
  m : List (Nat × Nat)
  k : List (Nat × Nat)
  f : List (Nat × Nat)
  z : List (Nat × Nat)
  j : List (Nat × Nat)
  winV : Nat
  winS : Nat
  spill : Nat

def look (l : List (Nat × Nat)) (n : Nat) : Nat := (l.find? (fun e => decide (e.1 = n))).elim n (·.2)
def lookB {w : Nat} (l : List (Nat × Nat)) (n : BitVec w) : BitVec w := BitVec.ofNat w (look l n.toNat)

/-- The lowest numbers that `used` does not hold, for `ns` in ascending order. -/
def assign : List Nat → List Nat → List (Nat × Nat)
  | _, [] => []
  | used, n :: ns =>
    let x := ((List.range 64).find? (fun i => !used.contains i)).getD 63
    (n, x) :: assign (x :: used) ns

def Renum.flags (r : Renum) (f : BitVec 12) : BitVec 12 :=
  (List.range 12).foldl (fun a i => if f.getLsbD i then a ||| (1#12 <<< look r.f i) else a) 0

/-- The side flag of a header; 0xF names none (R61). -/
def Renum.side (r : Renum) (f : BitVec 4) : BitVec 4 := if f = 0xF then f else lookB r.f f

def Renum.hdr (r : Renum) (h : Header) : Header := { h with wait := r.flags h.wait, seta := r.side h.seta, setb := r.side h.setb }

/-- The record, and for some words a second record or mask in `data`. -/
def Renum.mem (r : Renum) (w : MemWord) : MemWord := { w with k := lookB r.k w.k }
def Renum.data (l : List (Nat × Nat)) (w : MemWord) : MemWord :=
  { w with data := w.data.extractLsb' 4 3 ++ lookB l (w.data.extractLsb' 0 4) }
def Renum.stack (r : Renum) (w : MemWord) : MemWord :=
  { w with k := if w.idx then lookB r.k w.k else w.k, off := w.off + BitVec.ofNat 24 r.spill }

/-- One instruction of the consumer renumbered. -/
def Renum.instr (r : Renum) : Instr → Instr
  | .mmov d a => .mmov (lookB r.m d) (lookB r.m a)
  | .mand d a b => .mand (lookB r.m d) (lookB r.m a) (lookB r.m b)
  | .mor d a b => .mor (lookB r.m d) (lookB r.m a) (lookB r.m b)
  | .mxor d a b => .mxor (lookB r.m d) (lookB r.m a) (lookB r.m b)
  | .mnot d a => .mnot (lookB r.m d) (lookB r.m a)
  | .mpopc d a => .mpopc d (lookB r.m a)
  | .mffs d a => .mffs d (lookB r.m a)
  | .mtos d a => .mtos d (lookB r.m a)
  | .mfroms d a b => .mfroms (lookB r.m d) a b
  | .exmrd d => .exmrd (lookB r.m d)
  | .exmwr a => .exmwr (lookB r.m a)
  | .brv j m o => .brv (lookB r.j j) (lookB r.m m) o
  | .join j => .join (lookB r.j j)
  | .winV n => .winV (n + BitVec.ofNat 17 r.winV)
  | .winS n => .winS (n + BitVec.ofNat 17 r.winS)
  | .syncf f => .syncf (r.flags f)
  | .vcmp c q a b m => .vcmp c (lookB r.m q) a b m
  | .fcmp c q a b m => .fcmp c (lookB r.m q) a b m
  | .vcmpVri c q a i => .vcmpVri c (lookB r.m q) a i
  | .matchKeys d a m => .matchKeys (lookB r.m d) a m
  | .vsel d a b m => .vsel d a b { m with codeC := m.codeC.extractLsb' 4 3 ++ lookB r.m (m.codeC.extractLsb' 0 4) }
  | .ld w => .ld (r.mem w)
  | .st w => .st (r.mem w)
  | .ldu w => .ldu (r.mem w)
  | .qst w => .qst (r.mem w)
  | .ldq w => .ldq (r.mem w)
  | .ldb w => .ldb (r.mem w)
  | .atom w => .atom (r.mem w)
  | .cas w => .cas (r.mem w)
  | .kld w => .kld (r.mem w)
  | .kfield w => .kfield (r.mem w)
  | .kfieldW w => .kfieldW (r.mem w)
  | .kmov w => .kmov (Renum.data r.k (r.mem w))
  | .knarrow w => .knarrow (Renum.data r.k (r.mem w))
  | .kview w => .kview (Renum.data r.k (r.mem w))
  | .kperm w => .kperm (Renum.data r.k (r.mem w))
  | .qrekey w => .qrekey (Renum.data r.k (r.mem w))
  | .xcopy w => .xcopy (Renum.data r.k (r.mem w))
  | .xgath w => .xgath (Renum.data r.k (r.mem w))
  | .probe w => .probe (Renum.data r.m (r.mem w))
  | .spl w => .spl (r.stack w)
  | .fil w => .fil (r.stack w)
  | .mzero z => .mzero (lookB r.z z)
  | .mloop e z k s x => .mloop e (lookB r.z z) (lookB r.k k) s { x with kb := lookB r.k x.kb }
  | .mgrow z s => .mgrow (lookB r.z z) s
  | .msnap e z k => .msnap e (lookB r.z z) (lookB r.k k)
  | .mout e z k => .mout e (lookB r.z z) (lookB r.k k)
  | .mpri z p => .mpri (lookB r.z z) p
  | .mrel z => .mrel (lookB r.z z)
  | .sigAdd k t o => .sigAdd (lookB r.k k) t o
  | .sigSet k t o => .sigSet (lookB r.k k) t o
  | .sigWait k t o c => .sigWait (lookB r.k k) t o c
  | i => i

/-- Tiles that a kernel's code names. -/
def tileOf : Instr → Option Nat
  | .mzero z | .mloop _ z _ _ _ | .mgrow z _ | .msnap _ z _ | .mout _ z _ | .mpri z _ | .mrel z => some z.toNat
  | _ => none

def joinOf : Instr → Option Nat
  | .brv j _ _ | .join j => some j.toNat
  | _ => none

/-- Numbers a kernel uses, ascending. -/
def usedBy (n : Nat) (f : Instr → Option Nat) (k : SKernel) : List Nat :=
  (List.range n).filter (fun i => k.instrs.any (fun x => decide (f x.2.2 = some i)))

def maskBits (v : Nat) : List Nat := (List.range 16).filter (fun i => decide (bitsOf v i 1 = 1))

/-- Numbers of the two kernels for masks, records, flags, tiles and join counters, each with its limit (R144). -/
def usedSets (p c : SKernel) : List (List Nat × List Nat × Nat) :=
  let bits (lo n : Nat) : List Nat × List Nat := (maskBits (bitsOf p.h lo n), maskBits (bitsOf c.h lo n))
  [ ((bits 144 16).1, (bits 144 16).2, 16), ((bits 160 16).1, (bits 160 16).2, 16), ((bits 132 12).1, (bits 132 12).2, 12),
    (usedBy 8 tileOf p, usedBy 8 tileOf c, 8), (usedBy 8 joinOf p, usedBy 8 joinOf c, 8) ]

def renumOf (p c : SKernel) : Renum :=
  let a := (usedSets p c).map (fun u => assign u.1 u.2.1)
  { m := a.getD 0 [], k := a.getD 1 [], f := a.getD 2 [], z := a.getD 3 [], j := a.getD 4 []
    winV := p.nregs / 16, winS := p.sblk, spill := bitsOf p.h 96 32 }

/-! The spliced kernel (R145, R146). -/

/-- Windows tracked through a listing: the bases at each clause (R93). -/
def windowsAt : List SClause → Nat × Nat → List (Nat × Nat × Nat)
  | [], _ => []
  | c :: r, (v, s) =>
    let w := c.ins.foldl (fun (w : Nat × Nat) i => match instrAt i.2 with
      | some (.winV n) => (n.toNat, w.2)
      | some (.winS n) => (w.1, n.toNat)
      | _ => w) (v, s)
    (c.off, v, s) :: windowsAt r w

/-- A clause of the spliced kernel: of the consumer or not; the original clauses it stands for; the section it opens
with a window clause, by its first clause; the header; and its words with their original offsets and the header from
which their branches count. -/
structure OClause where
  cons : Bool
  keys : List Nat
  opens : Option Nat
  hdr : Header
  base : Nat
  src : Nat
  ins : List (Nat × List Word)

def bareHdr : Header := { len := 0, wait := 0, seta := 0xF, setb := 0xF, yld := false }

/-- The inserted clause of WIN.V and WIN.S before a section (R146); its words map to `src` (R148). -/
def windowClause (cons : Bool) (r : Renum) (opens : Option Nat) (src v s : Nat) : OClause :=
  let v := if cons then v + r.winV else v
  let s := if cons then s + r.winS else s
  { cons := cons, keys := [], opens := opens, hdr := bareHdr, base := src, src := src
    ins := [(src, encode (.winV (BitVec.ofNat 17 v))), (src, encode (.winS (BitVec.ofNat 17 s)))] }

/-- Clauses of a section without the word at `drop`; a clause left without words joins what follows. -/
def layClauses (cons : Bool) (drop : Nat) : List SClause → List Nat → List OClause × List Nat
  | [], ks => ([], ks)
  | c :: r, ks =>
    let ins := c.ins.filter (fun i => decide (i.1 ≠ drop))
    if ins.isEmpty then layClauses cons drop r (ks ++ [c.off])
    else
      let (l, ks') := layClauses cons drop r []
      ({ cons := cons, keys := ks ++ [c.off], opens := none, hdr := c.hdr, base := c.off, src := c.off, ins := ins } :: l, ks')

/-- A section with its window clause; transfers from outside enter a section that has clauses. -/
def laySection (k : SKernel) (cons : Bool) (r : Renum) (n drop : Nat) : List OClause × List Nat :=
  let cs := k.section n
  let ws := windowsAt k.cls (0, 0)
  let first := (cs.head?).elim (if n = 0 then k.sbeg else k.send) (·.off)
  let w := (ws.find? (fun e => decide (e.1 = first))).elim (0, 0) (·.2)
  let (l, ks) := layClauses cons drop cs []
  (windowClause cons r ((cs.head?).map (·.off)) first w.1 w.2 :: l, ks)

/-- The handler's part; the consumer's handler opens with its own window, both bases being 0 at entry (R175). -/
def layHandler (k : SKernel) (cons : Bool) (r : Renum) : List OClause :=
  (layClauses cons 0 (k.section 3) []).1.flatMap (fun c =>
    if cons && c.keys.contains k.hoff then [windowClause true r (some k.hoff) k.hoff 0 0, c] else [c])

/-- The closing branch of a kernel's body: its clause and its offset. -/
def closing (k : SKernel) : Nat × Nat × List Word :=
  match (k.section 1).getLast? with
  | some c => (c.off, (c.ins.getLast?).elim 0 (·.1), (c.ins.getLast?).elim [] (·.2))
  | none => (0, 0, [])

/-- The clauses of the spliced kernel in order, by the nine parts of R145. -/
def layParts (p c : SKernel) (r : Renum) : List (List OClause × Bool) :=
  let pc := closing p
  let cc := closing c
  let pb := laySection p false r 1 pc.2.1
  let cb := laySection c true r 1 cc.2.1
  let ws := windowsAt p.cls (0, 0)
  let w := (ws.find? (fun e => decide (e.1 = p.sbeg))).elim (0, 0) (·.2)
  let close : OClause := { cons := false, keys := [], opens := none, hdr := bareHdr, base := pc.1, src := pc.2.1
                           ins := [(pc.2.1, pc.2.2)] }
  let win := windowClause false r none pc.2.1 w.1 w.2
  [ ((laySection p false r 0 0).1, false), ((laySection c true r 0 0).1, true), (pb.1, false), (cb.1, true),
    ([win, close], false), ((laySection p false r 2 0).1, false), ((laySection c true r 2 0).1, true),
    (layHandler p false r, false), (layHandler c true r, true) ]

def OClause.words (c : OClause) : Nat := (c.ins.map (fun i => i.2.length)).foldl (· + ·) 0

/-- Offsets of the clauses laid out from `o`. -/
def layOffsets : Nat → List OClause → List (Nat × OClause)
  | _, [] => []
  | o, c :: r => (o, c) :: layOffsets (o + 4 + 4 * c.words) r

/-- Where a transfer to clause `t` of a kernel goes: a section entered from outside through its window clause, a clause
left without words (`als`) at what follows it. -/
def landing (k : SKernel) (lay : List (Nat × OClause)) (als : List (Bool × Nat × Nat)) (cons : Bool) (fromSec : Option Nat) (t : Nat) : Nat :=
  let win := lay.find? (fun e => decide (e.2.cons = cons) && decide (e.2.opens = some t))
  let own := lay.find? (fun e => decide (e.2.cons = cons) && e.2.keys.contains t)
  match als.find? (fun a => decide (a.1 = cons) && decide (a.2.1 = t)) with
  | some a => a.2.2
  | none => ((if fromSec = some (k.sec t) then own else win.or own).map (·.1)).getD 0

def retarget (d : Int) : Instr → Instr
  | .bra _ => .bra (BitVec.ofInt 17 d)
  | .brc r _ => .brc r (BitVec.ofInt 17 d)
  | .brcZ r _ => .brcZ r (BitVec.ofInt 17 d)
  | .brv j m _ => .brv j m (BitVec.ofInt 17 d)
  | .call r _ => .call r (BitVec.ofInt 17 d)
  | .xcopy w => .xcopy { w with off := BitVec.ofInt 24 d }
  | .qrekey w => .qrekey { w with off := BitVec.ofInt 24 d }
  | .xgath w => .xgath { w with off := BitVec.ofInt 24 d }
  | i => i

/-- The words of one instruction in the clause at `at`: renumbered, retargeted, the producer's EXIT replaced. -/
def spliceWords (p c : SKernel) (r : Renum) (lay : List (Nat × OClause)) (als : List (Bool × Nat × Nat)) (o : Nat) (cl : OClause) (i : Nat × List Word) : List Word :=
  let k := if cl.cons then c else p
  match instrAt i.2 with
  | none => i.2
  | some x =>
    let inserted := cl.keys.isEmpty
    let far (t : Nat) (sec : Option Nat) (cons : Bool) : Int := (((landing (if cons then c else p) lay als cons sec t : Nat) : Int) - o) / 4
    if !cl.cons && decide (x = .exit) && decide (k.sec i.1 = 2) then encode (.bra (BitVec.ofInt 17 (far c.send none true)))
    else
      let y := if cl.cons && !inserted then r.instr x else x
      match targetOf cl.base x with
      | some t =>
        let closes := decide (i.1 = (closing p).2.1) && !cl.cons
        encode (retarget (far t (if closes then none else some (k.sec i.1)) cl.cons) y)
      | none => encode y

/-- A spliced kernel: its words, their origins, its sections, ties, handlers. -/
structure Spliced where
  code : List Word
  origin : List (Nat × Nat)
  sections : List (Nat × Bool)
  ties : List (Nat × Nat × Nat)
  hoff : Nat
  hoff2 : Nat

/-- Offsets of the first clause of each part. -/
def partStarts : Nat → List (List OClause × Bool) → List (Nat × Bool)
  | _, [] => []
  | o, (cs, b) :: r => (o, b) :: partStarts (o + (cs.map (fun c => 4 + 4 * c.words)).foldl (· + ·) 0) r

/-- Where the word of kernel `cons` at original offset `a` now stands. -/
def newOffset (lay : List (Nat × OClause)) (cons : Bool) (a : Nat) : Nat :=
  (lay.findSome? (fun e =>
    if e.2.cons = cons && !e.2.keys.isEmpty then
      (e.2.ins.foldl (fun (st : Nat × Option Nat) i => (st.1 + 4 * i.2.length, if i.1 = a then some st.1 else st.2))
        (e.1 + 4, none)).2
    else none)).getD 0

/-- The spliced kernel (R145-R148). -/
def splice (p c : SKernel) : Spliced :=
  let r := renumOf p c
  let parts := layParts p c r
  let lay := layOffsets 256 (parts.flatMap (·.1))
  let starts := partStarts 256 parts
  let at_ (n : Nat) : Nat := (starts.getD n (0, false)).1
  let als := (laySection p false r 1 (closing p).2.1).2.map (fun t => (false, t, at_ 3)) ++
    (laySection c true r 1 (closing c).2.1).2.map (fun t => (true, t, at_ 4))
  let org (cons : Bool) (a : Nat) : Nat × Nat := (if cons then c.img else p.img, a)
  { code := lay.flatMap (fun e =>
      let h := if e.2.cons && !e.2.keys.isEmpty then r.hdr e.2.hdr else e.2.hdr
      encodeHeader { h with len := BitVec.ofNat 4 (e.2.words - 1) } :: e.2.ins.flatMap (spliceWords p c r lay als e.1 e.2))
    origin := lay.flatMap (fun e => org e.2.cons e.2.src :: e.2.ins.flatMap (fun i =>
      (List.range i.2.length).map (fun m => org e.2.cons (if e.2.keys.isEmpty then i.1 else i.1 + 4 * m))))
    sections := starts
    ties := (p.ties.filter (fun t => t.2.2 && decide (p.sec t.1 = 1))).filterMap (fun t =>
      (c.ties.find? (fun u => !u.2.2 && decide (u.2.1 = t.2.1) && decide (c.sec u.1 = 1))).map (fun u =>
        (t.2.1, newOffset lay false t.1, newOffset lay true u.1)))
    hoff := if p.hoff = 0 then 0 else landing p lay als false none p.hoff
    hoff2 := if c.hoff = 0 then 0 else landing c lay als true none c.hoff }

/-! The refusals (R144). -/

/-- A kernel read for the linker; code that cannot be read is not well formed, and a tie that cannot is none
(notes/assumptions/107.md). -/
def readKernel (s : State) (cx img h : Nat) : SKernel :=
  let ts := (List.range (bitsOf h 384 9)).filterMap (fun i => seqMem s cx (img + bitsOf h 352 32 + 8 * i) 8)
  let cut := match seqBytes s cx (img + 256) (4 * bitsOf h 224 32) with
    | .ok ps =>
      let ws := wordsOfBytes (ps.map (readByte s cx 0 []))
      cutClauses (ws.length + 1) 256 ws
    | .error _ => ([], false)
  { img := img, h := h, cls := cut.1, whole := cut.2
    ties := ts.map (fun t => (bitsOf t 0 32, bitsOf t 32 8, decide (bitsOf t 40 1 = 1))) }

def upTo256 (n : Nat) : Nat := (n + 255) / 256 * 256

/-- The shape of a block of the spliced kernel (R146). -/
def splicedShape (lp hp lc hc : Nat) : Shape :=
  let a := shapeOf lp hp false
  let b := shapeOf lc hc false
  { a with nregs := a.nregs + b.nregs, spill := a.spill + b.spill, scratch := upTo256 a.scratch + b.scratch
           split := max a.split b.split }

/-- A number tied twice in one kernel's table, whose entries are its side of the pairs (DEDUCED, notes/assumptions/143.md). -/
def tiedTwice (k : SKernel) : Bool :=
  decide ((k.ties.map (·.2.1)).eraseDups.length ≠ k.ties.length)

/-- The first refusal that applies, apart from 0x19, or 0x01 (R144). -/
def linkCode (lp hp lc hc : Nat) (dp dc : Nat × Nat × Nat) (p c : SKernel) : BitVec 8 :=
  let differs (lo n : Nat) : Bool := decide (bitsOf lp lo n ≠ bitsOf lc lo n)
  let sh := splicedShape lp hp lc hc
  if bitsOf hp 131 1 = 0 ∨ bitsOf hc 131 1 = 0 then 0x10
  else if dp ≠ dc ∨ differs 256 13 ∨ differs 272 13 ∨ differs 288 13 then 0x11
  else if bitsOf hp 40 2 ≠ bitsOf hc 40 2 ∨ differs 655 1 ∨ differs 656 1 ∨ differs 704 16 ∨ differs 665 3 then 0x12
  else if 480 < sh.nregs ∨ spadBytes < sh.scratch ∨ 65536 < sh.spill ∨ blockCores sh = none then 0x13
  else if 8 < bitsOf hp 56 4 + bitsOf hc 56 4 then 0x14
  else if (usedSets p c).any (fun u => decide (u.2.2 < u.1.length + u.2.1.length)) then 0x14
  else if !([p, c].all (fun k => [0, 1, 2].all (fun n => sealed sh.width (k.section n)))) then 0x15
  else if tiedTwice p || tiedTwice c || c.ties.any (fun t => !t.2.2 && !p.ties.any (fun u => u.2.2 && decide (u.2.1 = t.2.1))) then 0x16
  else if dp.1 * dp.2.1 * dp.2.2 = 0 ∨ dc.1 * dc.2.1 * dc.2.2 = 0 then 0x17
  else if !p.fits || !c.fits then 0x18
  else 0x01

/-- A record of the consumer's binding-table copy that names block memory or the spill stack, moved past the producer's
part (R146). -/
def shiftBind (block spill : Nat) (e : BitVec 256 × Bool) : BitVec 256 × Bool :=
  let r : Rec := e.1
  if r.obj = oBlock then (Rec.put r 24 40 ((Rec.base r + block) % 2 ^ 40), e.2)
  else if r.obj = oSpill then (Rec.put r 24 40 ((Rec.base r + spill) % 2 ^ 40), e.2)
  else e

/-- The grid of a completed splice, from the two grids. -/
def splicedGrid (a b : Grid) (p c : SKernel) : Grid :=
  let sp := splice p c
  let sh := splicedShape a.lrec.toNat a.hdr.toNat b.lrec.toNat b.hdr.toNat
  let n := (blockCores sh).getD 1
  { a with
    pkt2 := some b.pkt, lrec2 := b.lrec, nregs := sh.nregs, sblk := a.sblk + b.sblk, scratch := sh.scratch
    spill := sh.spill, split := sh.split, ncores := n
    binds2 := b.binds.map (shiftBind (upTo256 a.scratch) a.spill)
    code := some sp.code, origin := sp.origin, sections := sp.sections, hoff := sp.hoff, hoff2 := sp.hoff2
    codeEnd := 256 + 4 * sp.code.length, ties := sp.ties, elide := decide (bitsOf b.lrec.toNat 660 2 = 2)
    lmap := if a.det then logicalMap (a.rl 672 9) n else [] }

end Sys2Proof.Machine
end

