-- ==== Sys2Proof/Machine/Wire.lean ====
section
/-! DEFINITION. The wire of a rein (R349-R355): the CRC, frames sent, received and resent, and the memory service. -/
namespace Sys2Proof

open Machine


/-! Frames (R353). -/

/-- One bit of the CRC-24 of polynomial 0x864CFB. -/
def crcBit (c : Nat) : Nat := if c < 2 ^ 23 then 2 * c else Nat.xor (2 * c) 0x1864CFB

def crcByte (c : Nat) (b : Byte) : Nat :=
  crcBit (crcBit (crcBit (crcBit (crcBit (crcBit (crcBit (crcBit (Nat.xor c (b.toNat * 65536)))))))))

/-- The CRC of a frame: the bytes of the flit, then those of side-band bits [39:0], each byte from its high bit
(PRESUMED, notes/assumptions/40.md). -/
def Frame.crcOf (f : Frame) : Nat :=
  (bytesOfNat 64 f.flit.toNat ++ bytesOfNat 5 (bitsOf f.side.toNat 0 40)).foldl crcByte 0xB704CE

/-- A frame with the side-band fields set when it is sent, and its CRC. -/
def Frame.seal (f : Frame) (seq ack : Nat) (credit : Option Nat) : Frame :=
  let side := f.ft * 2 ^ 6 + f.nb + f.vc * 2 ^ 14 + seq % 2048 * 2 ^ 29 + ack % 2048 * 2 ^ 18 +
    credit.elim 0 (fun v => v % 16 * 2 ^ 10 + 2 ^ 9)
  let g : Frame := { f with side := BitVec.ofNat 64 side }
  { g with side := BitVec.ofNat 64 (side + g.crcOf * 2 ^ 40) }

/-- The class within which frames keep their order: a virtual channel, or the memory service. -/
def Frame.cls (f : Frame) : Nat := if 5 ≤ f.ft then 16 else f.vc

end Sys2Proof

namespace Sys2Proof.Machine

/-! The memory service (R354). -/

/-- A request is served under the context's key within its export window, or refused. -/
def msServed (s : State) (r : MsReq) : Bool :=
  let x := s.ctx r.rctx
  !r.bad && decide (x.st = 1) && decide (x.elen ≠ 0) && decide (x.ebase * 2097152 ≤ r.addr) &&
    decide (r.addr + r.len ≤ (x.ebase + x.elen) * 2097152)

/-- Physical lines of a request. -/
def msLines (r : MsReq) : List Loc :=
  ((List.range r.len).map (fun i => ({ sp := .phys, a := r.addr + i } : Loc).line)).eraseDups

/-- The first request waiting on rein `n` answered, unless another agent owns a line it writes (R278). -/
def msServeOne (s : State) (n : Nat) : State :=
  let x := s.rein n
  match x.msServe with
  | [] => s
  | r :: rest =>
    let answer (s : State) (fs : List Frame) : State :=
      let x := s.rein n
      s.setRein n { x with msServe := rest, txq := x.txq ++ fs }
    if !msServed s r then answer s [mkFrame 6 0 0 1]
    else if r.write then
      if (msLines r).any (fun l => owned s l 0) then s
      else
        let s := (msLines r).foldl l1Invalidate s
        let s := r.data.zipIdx.foldl (fun s b => writeAt s r.rctx { sp := .phys, a := r.addr + b.2 } b.1) s
        let s := wakeWaits s ((List.range r.data.length).map (fun i => { sp := .phys, a := r.addr + i }))
        answer s [mkFrame 6 0 0 0]
    else
      answer s (mkFrame 6 0 0 0 :: dataFrames 7 7 0 ((List.range r.len).map (fun i =>
        readAt s r.rctx [] { sp := .phys, a := r.addr + i })))

/-- Requests of agent `who` whose answers are awaited no longer. -/
def State.msForget (s : State) (who : Nat) : State :=
  { s with reins := s.reins.map (fun r => (r.1, { r.2 with msPend := r.2.msPend.map (fun e =>
      if e.1 = who then (8, e.2) else e) })) }

/-- The place at which address `a` of a peer is reached: its own, else one in its line, which a cell copies whole (R300). -/
def peerPlace (f : Nat → Loc) (offs : List Nat) (d a : Nat) : Option Nat :=
  (offs.find? (fun o => decide (f o = { sp := .peer d, a := a }))).or
    (offs.find? (fun o => decide ((f o).line = Loc.line { sp := .peer d, a := a })))

/-- The object offset at which the word of a slot reaches an address of its peer. -/
def slotPeerOff (s : State) (x : Slot) (d a : Nat) : Nat × Nat :=
  match decodeReinWords (x.words.drop x.pc) with
  | some i =>
    match memReg i with
    | some g =>
      let ad := (x.g g).toNat
      let offs := rOffs ad 0 (max 32 (moved i))
      let cs : Chunks := translateChunks s x.cx (objOf ad) false offs
      (objOf ad, (peerPlace (fun o => (cs.byte o).loc) offs d a).getD (offOf ad))
    | none => (signalEntry i).elim (0, 0) (fun e => (entObj (x.ent e), entOff (x.ent e)))
  | none => (0, 0)

/-- An answer to the first request of rein `n`: its bytes, or a refusal (none), which parks the agent with REMOTE_PAGE. -/
def msAnswer (s : State) (n : Nat) (got : Option (List Byte)) : State :=
  let x := s.rein n
  match x.msPend with
  | [] => s
  | (who, r) :: rest =>
    let s := s.setRein n { x with msPend := rest, msGot := none }
    let s := msPump (s.rein n).msWait.length s n
    let new (bs : List Byte) : List (Loc × Byte) := bs.zipIdx.map (fun b => ({ sp := .peer r.dev, a := r.addr + b.2 }, b.1))
    if who < 8 then
      let y := s.slot n who
      if y.asked = 0 then s
      else match got with
        | some bs => s.setSlot n who { y with asked := y.asked - 1, pgot := y.pgot ++ new bs }
        | none =>
          if y.st = 2 then parkAtChunk s n who (waitAt s y { sp := .peer r.dev, a := r.addr })
          else
          let o := slotPeerOff s y r.dev r.addr
          parkSlot s n who { cause := cRemotePage, lg := false, mq := false }
            (((decodeReinWords (y.words.drop y.pc)).bind reinBrandReg).elim 0 (fun g => (y.g g).toNat % 65536)) o.1 o.2
    else
      match s.op? (who - 8) with
      | none => s
      | some op =>
        match got with
        | some bs => s.setOp (who - 8) { op with asked := op.asked - 1, pgot := op.pgot ++ new bs }
        | none =>
          let at_ (d : Rec) (offs : List Nat) : Option Nat := peerPlace (fun o => (engineByte s op d o).loc) offs r.dev r.addr
          let us := op.units
          let line : Loc := Loc.line { sp := .peer r.dev, a := r.addr }
          let op := { op with asked := 0
                              lines := op.lines.map (fun j => if r.write && j.line = line then { j with stage := 0 } else j) }
          let dst : Bool := (at_ op.rec2 (us.flatMap (EUnit.reads op.rec2))).isNone || r.write
          let off := if dst then (at_ op.rec1 (us.flatMap (EUnit.offs op.rec1))).getD 0
                     else (at_ op.rec2 (us.flatMap (EUnit.reads op.rec2))).getD 0
          parkEngine (s.msForget who) (who - 8) op cRemotePage dst off false

/-! Sending (R350, R351). -/

/-- The first frame that may go: the first of its class, with a credit if it carries stream bytes. -/
def sendable (credits : Sparse Nat) : List Nat → List Frame → Option Frame
  | _, [] => none
  | seen, f :: r =>
    if !seen.contains f.cls && (2 ≤ f.ft || decide (sget 0 credits f.vc < 1024)) then some f
    else sendable credits (f.cls :: seen) r

/-- FRAME_SEND of rein `n`: the next frame, or an idle frame; at most 1,024 stay unacknowledged (R349, R353). -/
def execFrameSend (n : Nat) (s : State) : Out :=
  let s := msPump (s.rein n).msWait.length (msServeOne s n) n
  let x := s.rein n
  if x.link ≠ 0 || 1024 ≤ x.unacked.length then .next s
  else
    let pick := sendable x.credits [] x.txq
    let f := ((pick.getD (mkFrame 4 0 0 0)).seal x.txSeq (x.rxSeq + 2047) x.owedCredits.head?)
    .next (s.setRein n { x with
      txq := (match pick with
        | some g => x.txq.erase g
        | none => x.txq)
      unacked := x.unacked ++ [f], outbox := [f], txSeq := (x.txSeq + 1) % 2048, owedCredits := x.owedCredits.tail
      credits := if f.ft ≤ 1 then supd 0 x.credits f.vc (· + 1) else x.credits, alwOut := [] })

/-- FRAME_RESEND: no acknowledgement has come, and every frame not acknowledged is sent again; the sixteenth failure in
a row takes the rein down (R350). -/
def execFrameResend (n : Nat) (s : State) : Out :=
  let x := s.rein n
  if x.link ≠ 0 || x.unacked.isEmpty then .next s
  else if 15 ≤ x.fails then .next (s.setRein n { x with link := 2, fails := 16 })
  else .next (s.setRein n { x with fails := x.fails + 1, outbox := x.unacked, resends := min (x.resends + 1) (2 ^ 32 - 1) })

/-! Receiving. -/

/-- A frame taken in order: acknowledgements and a credit (R350, R353). None where it is not the next frame of a link that
is up, or its CRC fails. -/
def takeFrame (s : State) (n : Nat) (f : Frame) (fts : List Nat) : Option State :=
  let x := s.rein n
  if x.link = 0 && f.crc = f.crcOf && fts.contains f.ft && f.seq = x.rxSeq then
    let acked := x.unacked.any (fun g => decide (g.seq = f.ack))
    let un := if acked then (x.unacked.dropWhile (fun g => decide (g.seq ≠ f.ack))).tail else x.unacked
    some (s.setRein n { x with
      rxSeq := (x.rxSeq + 1) % 2048, unacked := un, fails := if acked then 0 else x.fails
      credits := if f.cv then supd 0 x.credits f.cvc (· - 1) else x.credits })
  else none

/-- A frame taken in order is delivered, or waits for its channel (R351). -/
def receiveFrame (s : State) (n : Nat) (f : Frame) (fts : List Nat) : State :=
  match takeFrame s n f fts with
  | none => s
  | some s => s.setRein n ((s.rein n).takeOrHold f)

/-- DATA_FRAME_RECEIVE (R352, R353, R376). -/
def execDataFrameReceive (n : Nat) (f : Frame) (s : State) : Out := .next (receiveFrame s n f [0, 1])

/-- RUN_HEADER_RECEIVE (R351, R353). -/
def execRunHeaderReceive (n : Nat) (f : Frame) (s : State) : Out := .next (receiveFrame s n f [2])

/-- ROUND_MARKER_RECEIVE (R376). -/
def execRoundMarkerReceive (n : Nat) (f : Frame) (s : State) : Out := .next (receiveFrame s n f [3])

def execIdleFrameReceive (n : Nat) (f : Frame) (s : State) : Out := .next ((takeFrame s n f [4]).getD s)

/-- MEMORY_SERVICE_REQUEST: a read is served in its turn, a write once its data has arrived (R354). -/
def execMemoryServiceRequest (n : Nat) (f : Frame) (s : State) : Out :=
  match takeFrame s n f [5] with
  | none => .next s
  | some s =>
    let v := f.flit.toNat
    let r : MsReq := { dev := 0, rctx := bitsOf v 44 10, addr := bitsOf v 64 64, len := bitsOf v 34 8 + 1
                       write := decide (bitsOf v 42 2 = 1), bad := decide (2 ≤ bitsOf v 42 2), data := [] }
    let x := s.rein n
    if r.write then .next (s.setRein n { x with msIn := some r })
    else .next (msServeOne (s.setRein n { x with msServe := x.msServe ++ [r] }) n)

/-- MEMORY_SERVICE_RESPONSE (R354). -/
def execMemoryServiceResponse (n : Nat) (f : Frame) (s : State) : Out :=
  match takeFrame s n f [6] with
  | none => .next s
  | some s =>
    match (s.rein n).msPend with
    | [] => .next s
    | (_, r) :: _ =>
      if bitsOf f.flit.toNat 0 8 ≠ 0 then .next (msAnswer s n none)
      else if r.write then .next (msAnswer s n (some []))
      else .next (s.setRein n { (s.rein n) with msGot := some [] })

/-- MEMORY_SERVICE_DATA: bytes of the request or response before it (R353, R354). -/
def execMemoryServiceData (n : Nat) (f : Frame) (s : State) : Out :=
  match takeFrame s n f [7] with
  | none => .next s
  | some s =>
    let x := s.rein n
    match x.msIn with
    | some r =>
      let r := { r with data := r.data ++ f.bytes }
      if r.len ≤ r.data.length then
        .next (msServeOne (s.setRein n { x with msIn := none, msServe := x.msServe ++ [{ r with data := r.data.take r.len }] }) n)
      else .next (s.setRein n { x with msIn := some r })
    | none =>
      match x.msGot, x.msPend with
      | some bs, (_, r) :: _ =>
        let bs := bs ++ f.bytes
        if r.len ≤ bs.length then .next (msAnswer s n (some (bs.take r.len)))
        else .next (s.setRein n { x with msGot := some bs })
      | _, _ => .next s

/-- CRC_FAILURE: a frame whose CRC fails is discarded; the sequence number it held is still awaited, so that every later
frame is discarded with it (R350). -/
def execCrcFailure (_n : Nat) (_f : Frame) (s : State) : Out := .next s

/-- ALLOWANCE_RETURN: `fl` flits come back to entry `e` of slot `sl`, up to the entry's allowance (R355). -/
def execAllowanceReturn (n sl e fl : Nat) (s : State) : Out :=
  let x := s.slot n sl
  let v := x.ent e
  if x.st ≠ 0 && e < 16 && v.getLsbD 63 && !v.getLsbD 62 then
    .next (s.setSlot n sl { x with alw := sset 0 x.alw e (min (entAlw v) (x.allow e + fl)) })
  else .next s

end Sys2Proof.Machine
end

