-- ==== Sys2Proof/Machine/Queue.lean ====
section
/-! DEFINITION. Queues (R110-R113): registers, the parse choice (R128), the fields and statuses of packets (R115-R117, R125),
and the taking of packets other than LAUNCH and NODE (R118, R124, R125). -/
namespace Sys2Proof.Machine

/-! Registers (R110, R112). -/

/-- Whether parsing is over the packets that fit the ring (R113). -/
def Queue.overrun (q : Queue) : Bool := decide (2 ^ q.lg < (q.tail - q.head).toNat)

/-- The queue halts with a cause (R113). -/
def Queue.halts (q : Queue) (c : BitVec 8) : Queue := { q with st := 3, halt := c, hold := none, waitPark := none }

def haltQueue (s : State) (qn : Nat) (c : BitVec 8) : State := s.setQueue qn ((s.queue qn).halts c)

/-- The fields of QCFG other than `en`; an `lg` outside 4–20 is left (R112). -/
def Queue.cfgFields (q : Queue) (v : Word) : Queue :=
  { q with cls := bitsOf v.toNat 28 3, die := bitsOf v.toNat 26 2, cx := bitsOf v.toNat 16 10
           lg := if 4 ≤ bitsOf v.toNat 0 5 ∧ bitsOf v.toNat 0 5 ≤ 20 then bitsOf v.toNat 0 5 else q.lg }

/-- A write to QCFG (R112); the packet that a held queue has not taken stays untaken when `en` clears (DEDUCED,
notes/assumptions/111.md). -/
def qcfgWrite (s : State) (qn : Nat) (v : Word) : State :=
  let q := s.queue qn
  if Config.queues ≤ qn then s
  else if q.en then
    if v.getLsbD 31 then s
    else s.setQueue qn { (q.cfgFields v) with en := false, st := 0, hold := none, phaseMet := false, waitPark := none }
  else
    let q := q.cfgFields v
    let st := (s.ctx q.cx).st
    if v.getLsbD 31 && (st = 1 || st = 3) then
      let q := { q with en := true, st := 1, head := 0, ctail := 0, halt := 0, phase := 0, phaseMet := false, hold := none
                        lastDet := false, noRecords := false, nextLink := 0, waitPark := none, prevTp := false }
      s.setQueue qn (if q.overrun then q.halts 0x01 else q)
    else s.setQueue qn q

def execQueueEnable (qn : Nat) (v : Word) (s : State) : Out :=
  .next (if v.getLsbD 31 && !(s.queue qn).en then qcfgWrite s qn v else s)

def execQueueDisable (qn : Nat) (v : Word) (s : State) : Out :=
  .next (if !v.getLsbD 31 && (s.queue qn).en then qcfgWrite s qn v else s)

/-- QTAIL_WRITE: the new tail releases the host's earlier writes (R120); more packets than the ring holds halt the queue
(R113). -/
def qtailWrite (s : State) (qn : Nat) (v : Word) : State :=
  let q := { (s.queue qn) with tail := v }
  if Config.queues ≤ qn then s
  else s.setQueue qn (if (q.st = 1 || q.st = 2) && q.overrun then q.halts 0x01 else q)

def execQtailWrite (qn : Nat) (v : Word) (s : State) : Out := .next (qtailWrite s qn v)

/-- QBASE, CBASE and CCFG are written only while `en` = 0 (R112); reserved bits read 0. -/
def qbaseWrite (s : State) (qn : Nat) (v : Word64) : State :=
  let q := s.queue qn
  if q.en then s else s.setQueue qn { q with base := v &&& ~~~0x3F#64 }
def cbaseWrite (s : State) (qn : Nat) (v : Word64) : State :=
  let q := s.queue qn
  if q.en then s else s.setQueue qn { q with cbase := v &&& ~~~0x1F#64 }
def ccfgWrite (s : State) (qn : Nat) (v : Word) : State :=
  let q := s.queue qn
  let n := bitsOf v.toNat 0 5
  if q.en || n < 4 || 20 < n then s else s.setQueue qn { q with clg := n }

/-! Packets (R115, R116, R125). -/

/-- The packet `k` places beyond the head, or none where the ring cannot be read. -/
def ringEntry (s : State) (q : Queue) (k : Nat) : Option Nat :=
  seqMem s q.cx (q.base.toNat + 64 * ((q.head.toNat + k) % 2 ^ q.lg)) 64

def pType (p : Nat) : Nat := bitsOf p 0 8
def pBar (p : Nat) : Bool := decide (bitsOf p 14 1 = 1)
def pCr (p : Nat) : Bool := decide (bitsOf p 15 1 = 1)
def pPhase (p : Nat) : BitVec 8 := BitVec.ofNat 8 (bitsOf p 32 8)
/-- The launch record, WAIT signal, rein image or first page. -/
def pAddr (p : Nat) : Nat := bitsOf p 64 64
/-- The signal of a release or of SIGNAL, its value, operation and class. -/
def pSig (p : Nat) : Nat := bitsOf p 128 64
def pVal (p : Nat) : Word64 := BitVec.ofNat 64 (bitsOf p 192 64)
def pRop (p : Nat) : Nat := bitsOf p 256 2
def pLazy (p : Nat) : Bool := decide (bitsOf p 258 1 = 1)
def pReins (p : Nat) : List Nat := (List.range 32).filter (fun n => decide (bitsOf p (264 + n) 1 = 1))
def pWords (p : Nat) : Nat := bitsOf p 384 12
def pArgs (p : Nat) : Nat := bitsOf p 320 64

/-- Work packets: LAUNCH, NODE and REIN (R118). -/
def pWork (p : Nat) : Bool := pType p = 1 || pType p = 2 || pType p = 6

/-- The release block of a work packet holds listed values (R116). -/
def releaseOk (p : Nat) : Bool :=
  decide (pRop p ≤ 2) && decide (pSig p % 8 = 0) && decide (pRop p = 0) == decide (pSig p = 0)

/-- Every field of the packet holds a listed value (R115, R116, R125). -/
def packetFields (p : Nat) : Bool :=
  zeroBits p [(40, 8), (16, 16), (8, 6)] &&
  match pType p with
  | 0 | 5 | 7 => decide (bitsOf p 64 448 = 0)
  | 1 => zeroBits p [(259, 5), (264, 248)] && decide (pAddr p % 256 = 0) && releaseOk p
  | 2 => zeroBits p [(259, 5), (290, 222)] && decide (pAddr p % 256 = 0) && releaseOk p &&
      decide (1 ≤ bitsOf p 280 10) && decide (bitsOf p 280 10 ≤ 1000)
  | 3 => zeroBits p [(64, 64), (259, 253)] && decide (pSig p % 8 = 0) && (decide (pRop p = 1) || decide (pRop p = 2))
  | 4 => zeroBits p [(192, 64), (258, 254)] && decide (pAddr p % 8 = 0)
  | 6 => zeroBits p [(259, 5), (315, 5), (396, 116)] && decide (pAddr p % 8 = 0) && decide (pArgs p % 8 = 0) && releaseOk p &&
      decide (1 ≤ pWords p) && decide (pWords p ≤ 2048) && decide (pReins p ≠ [])
  | 8 => zeroBits p [(64, 16), (160, 352)]
  | _ => false

/-- A walk made for the sequencer without an older entry of a translation cache (R124). -/
def freshMem (s : State) (cx a n : Nat) : Option Nat := seqMem { s with mem := { s.mem with tlb := [] } } cx a n

/-- The walk of a WAIT's signal ends in TIER_MIGRATING. -/
def migrating (s : State) (cx a : Nat) : Bool :=
  match walk s cx (objOf a) (offOf a) with
  | .error f => f.cause = cTierMigrating
  | .ok _ => false

/-- The status with which a packet is refused when it is parsed, or 0 (R117, R124). `first`: at its parse, as against a
later try; a WAIT is refused at its parse only. -/
def parseStatus (s : State) (cx p : Nat) (first : Bool) : BitVec 8 :=
  if !packetFields p then 0x01
  else if pWork p && decide (pRop p ≠ 0) && !signalWritable s cx (pSig p) then 0x04
  else match pType p with
    | 3 => if signalWritable s cx (pSig p) then 0 else 0x04
    | 4 => if !first || (freshMem s cx (pAddr p) 8).isSome || migrating s cx (pAddr p) then 0 else 0x04
    | 8 => if 0xFFFFF0 ≤ objOf (pAddr p) then 0x04 else 0
    | _ => 0

/-- The words and initial registers of a REIN packet, `k` reins (R359): none where they cannot be read. -/
def reinImage (s : State) (cx p : Nat) : Option (List Byte × List Byte) :=
  let k := (pReins p).length
  match seqBytes s cx (pAddr p) (128 * k + 4 * pWords p), seqBytes s cx (pArgs p) (256 * k) with
  | .ok a, .ok b => some (a.map (readByte s cx 0 []), b.map (readByte s cx 0 []))
  | _, _ => none

/-- The status with which a work packet is refused when it is about to start, or 0 (R117, R135). -/
def workStatus (s : State) (cx p : Nat) : BitVec 8 :=
  if pType p = 6 then (if (reinImage s cx p).isSome then 0 else 0x04)
  else match readLaunch s cx (pAddr p) with
    | none => 0x04
    | some (l, h) => if accepted s cx l h (decide (pType p = 2)) then 0 else 0x02

/-! The parse choice (R128). -/

/-- Open packets of a queue: taken and not completed. -/
def openPackets (s : State) (qn : Nat) : List (Nat × Packet) := s.q.pkts.filter (fun e => decide (e.2.q = qn))

/-- The effective class (R101, R128). -/
def effClass (s : State) (q : Queue) : Nat := min q.cls (s.ctx q.cx).prio

/-- Queue `a` is chosen before queue `b` after queue `last` - 1 was served (R128). -/
def queueBefore (s : State) (last : Nat) (a b : Nat × Queue) : Bool :=
  decide (effClass s b.2 < effClass s a.2) || (decide (effClass s a.2 = effClass s b.2) &&
    decide ((a.1 + 256 - last) % 256 < (b.1 + 256 - last) % 256))

/-- The queue whose packet the sequencer of a die takes next: of those that run with a packet at their head, and those
held whose condition is met (`met`), the first (R128). -/
def chooseAmong (s : State) (met : Nat → Bool) (die : Nat) : Option (Nat × Queue) :=
  (s.q.qs.filter (fun e => decide (e.2.die = die) && e.2.en && s.active e.2.cx &&
    ((decide (e.2.st = 1) && decide (e.2.head ≠ e.2.tail)) || (decide (e.2.st = 2) && met e.1)))).foldl (fun b e => match b with
      | none => some e
      | some x => if queueBefore s (sget 0 s.q.last die) e x then some e else b) none

/-! Taking a packet. -/

/-- Parsing stops at the packet at the head (R113). -/
def holdQueue (s : State) (qn : Nat) (w : HoldWhy) : State := s.setQueue qn { (s.queue qn) with st := 2, hold := some w }

def Packet.blank : Packet :=
  { q := 0, cx := 0, die := 0, seq := 0, bits := 0, status := 0, finished := false, blocks := 0, cause := 0
    link := 0, slots := [], loading := false, watch := [], det := false }

/-- The packet at the head is taken (R113): `head` moves past it. -/
def takePacket (s : State) (qn p : Nat) : Nat × State :=
  let q := s.queue qn
  let (i, s) := s.take
  let s := s.setQueue qn { q with head := q.head + 1, st := if q.st = 3 then 3 else 1, hold := none, phaseMet := false
                                  waitPark := none, prevTp := false, nextLink := 0 }
  (i, s.setPkt i { Packet.blank with q := qn, cx := q.cx, die := q.die, seq := q.head.toNat, bits := BitVec.ofNat 512 p
                                     det := q.lastDet })

/-- A packet taken that is done at once, with a status. -/
def takeDone (s : State) (qn p : Nat) (status : BitVec 8) : State :=
  let (i, s) := takePacket s qn p
  finishPacket s i status

/-- REPLAY: every access of the context parked now is retried, in the order in which they parked; WAITs whose walk failed
test again (R124, R258). -/
def replay (s : State) (cx : Nat) : State :=
  let s := { s with q := { s.q with qs := s.q.qs.map (fun e => if e.2.cx = cx then (e.1, { e.2 with waitPark := none }) else e) } }
  (parkedAll s (fun o => decide (o.cx = cx)) (fun l => decide (l.cx = cx)) (fun x => decide (x.cx = cx))).foldl retryParked s

/-- A page of object `obj` is one of the `n` that an INVAL names from the page of byte `off` on, or of the whole object
(R116); pages are counted in the size that the object has (R243). -/
def PageTr.inRange (t : PageTr) (obj off n : Nat) : Bool :=
  decide (t.obj = obj) && (decide (n = 0) ||
    (decide (off / pageSize t.lg ≤ t.page) && decide (t.page < off / pageSize t.lg + n)))

/-- An operation that uses no translation now: parked, with no lane of a read still to be performed, or a tied load behind a
parked one (R124, R147, R253). -/
def LongOp.atRest (o : LongOp) : Bool := o.waitsTie || (decide (o.parkNo ≠ 0) && (!o.kind.isRead || o.due.isEmpty))

/-- A slot of the context waits for a peer's memory, or a deferred write of one of its grids or REIN packets does (R288, R354). -/
def peerBusy (s : State) (cx : Nat) : Bool :=
  s.reins.any (fun r => (r.2.msPend ++ r.2.msWait).any (fun e =>
    if e.1 < 8 then decide ((sget Slot.free r.2.slots e.1).cx = cx)
    else (s.grid? (e.1 - 8)).elim false (fun g => decide (g.cx = cx)) || (s.pkt? (e.1 - 8)).elim false (fun k => decide (k.cx = cx))))

/-- INVAL: the pages leave every translation cache; the packet watches the context's accesses in flight, deferred writes among
them by their grids (R124, R251, R288). -/
def inval (s : State) (i cx p : Nat) : State :=
  let obj := objOf (pAddr p)
  let s := { s with mem := { s.mem with tlb := s.mem.tlb.filter (fun e =>
    !(decide (e.cx = cx) && e.tr.inRange obj (offOf (pAddr p)) (bitsOf p 128 32))) } }
  let ops := (s.mem.ops.filter (fun e => decide (e.2.cx = cx) && !e.2.atRest)).map (·.1)
  let sts := (s.mem.stores.filter (fun e => decide (e.2.cx = cx))).map (·.1)
  match s.pkt? i with
  | some k => s.setPkt i { k with watch := ops ++ sts ++ ((s.mem.commit.filter (fun c => decide (c.cx = cx))).map (·.grid)).eraseDups }
  | none => s

/-- INVAL_COMPLETE of packet `p` (R124). -/
def execInvalComplete (p : Nat) (s : State) : Out :=
  match s.pkt? p with
  | some k =>
    if pType k.bits.toNat = 8 && !k.finished && k.watch.all (fun i => (mget s.mem.stores i).isNone &&
        (s.op? i).elim true LongOp.atRest && !s.mem.commit.any (fun c => decide (c.grid = i))) && !peerBusy s k.cx then
      .next (finishPacket s p 0)
    else .next s
  | none => .next s

/-- The phase steps are still to be run for the packet at the head (R118). -/
def phaseDue (q : Queue) (p : Nat) : Bool := pWork p && decide (pPhase p ≠ q.phase)

/-- A packet other than LAUNCH and NODE at the head of queue `qn` takes effect, or holds the queue. -/
def headPlain (s : State) (qn p : Nat) (first : Bool) : State :=
  let q := s.queue qn
  match pType p with
  | 4 =>
    if q.waitPark.isSome && !first then holdQueue s qn .wait
    else match freshMem s q.cx (pAddr p) 8 with
      | none => (holdQueue s qn .wait).setQueue qn { q with st := 2, hold := some .wait, waitPark := some (pAddr p) }
      | some v =>
        if sigCond (bitsOf p 256 2) (BitVec.ofNat 64 v) (BitVec.ofNat 64 (bitsOf p 128 64)) then takeDone s qn p 0
        else holdQueue s qn .wait
  | 5 => if q.phaseMet then takeDone s qn p 0 else holdQueue s qn .phase
  | 6 =>
    let (i, s) := takePacket s qn p
    match s.pkt? i with
    | some k => s.setPkt i { k with loading := true }
    | none => s
  | 7 =>
    let (i, s) := takePacket s qn p
    finishPacket (replay s q.cx) i 0
  | 8 =>
    let (i, s) := takePacket s qn p
    inval s i q.cx p
  | _ => takeDone s qn p 0

end Sys2Proof.Machine
end

