-- ==== Sys2Proof/Machine/Packet.lean ====
section
/-! DEFINITION. LAUNCH and NODE packets (R121-R123, R143, R149), holds and their release (R113), the phase steps (R118), the
loading of rein slots (R359), and the completion of packets (R114, R117, R120, R126, R127). -/
namespace Sys2Proof.Machine

/-! LAUNCH. -/

/-- The acquire signal of an indirect size has its value (R121); one that does not translate has not (DEDUCED,
notes/assumptions/114.md). -/
def sizeMet (s : State) (cx l : Nat) : Bool :=
  (seqMem s cx (bitsOf l 384 64) 8).elim false (fun v => decide (bitsOf l 448 64 ≤ v))

/-- The grid dimensions of a record: its own, or the indirect ones (R121); none where those cannot be read. -/
def gridSize (s : State) (cx l : Nat) : Option (Nat × Nat × Nat) :=
  if bitsOf l 654 1 = 1 then
    (seqMem s cx (bitsOf l 320 64) 12).map (fun v => (bitsOf v 0 32, bitsOf v 32 32, bitsOf v 64 32))
  else some (ownSize l)

/-- The sequencer of a die works on the packet of queue `qn` under patch bank `b` (R130). -/
def underBank (s : State) (qn die b : Nat) : State :=
  let s := { s with q := { s.q with bankUsed := sset 0 s.q.bankUsed die b } }
  s.setQueue qn { (s.queue qn) with bank := b }

/-- What a LAUNCH taken leaves: deterministic mode for later packets (R140), and the linker's code for itself and the
next (R143, R144). -/
def noteLaunch (s : State) (qn i l : Nat) (link next : BitVec 8) (tp : Bool) : State :=
  let q := s.queue qn
  let s := s.setQueue qn { q with lastDet := decide (bitsOf l 655 1 = 1), prevTp := tp, nextLink := next }
  match s.pkt? i with
  | some k => s.setPkt i { k with link := link }
  | none => s

/-- A grid that is taken: a cooperative one with all its blocks placed at once (R139); none while they do not fit. -/
def startGrid (s : State) (gid : Nat) (gr : Grid) : Option State :=
  let s := s.setGrid gid gr
  if gr.coop then
    if decide (gr.blocks = 0) then some s
    else if mayPlace s gr && (savedBlocks s gr.cx).isEmpty then placeAllBlocks gr.blocks s gid
    else none
  else some s

/-- The grid of the LAUNCH taken as packet `i` of `t` starts alone; `held` is the state while a cooperative grid finds no
room (R121, R139). -/
def startAlone (held t : State) (qn i l h : Nat) (link next : BitVec 8) (d : Nat × Nat × Nat) : State :=
  let det := decide (bitsOf l 655 1 = 1)
  match t.pkt? i with
  | none => t
  | some k =>
    let t := noteLaunch t qn i l link next (decide (bitsOf l 658 1 = 1))
    let gr := newGrid t i k.cx qn k.seq l h d det none
    let (gid, t) := t.take
    (startGrid t gid gr).getD held

/-- A LAUNCH at the head whose size is known starts alone. -/
def launchAlone (s : State) (qn p l h : Nat) (link : BitVec 8) (d : Nat × Nat × Nat) : State :=
  if !sizeOk l h d then takeDone s qn p 0x02
  else
    let (i, t) := takePacket s qn p
    startAlone (holdQueue s qn .room) t qn i l h link 0 d

/-- The packet at the head as a consumer of a splice: itself, its record and its image, where a splice is sought (R143). -/
def consumerOf (s : State) (q : Queue) : Option (Nat × Nat × Nat) :=
  match if q.overrun then none else ringEntry s q 0 with
  | none => none
  | some c =>
    if pType c = 1 && decide (parseStatus s q.cx c true = 0) then
      match readLaunch s q.cx (pAddr c) with
      | some (l, h) => if bitsOf l 659 1 = 1 && accepted s q.cx l h false then some (c, l, h) else none
      | none => none
    else none

/-- The linker's code for a pair whose producer has size `d` (R144). -/
def spliceCode (s : State) (cx lp hp lc hc : Nat) (d : Nat × Nat × Nat) : BitVec 8 :=
  if bitsOf hp 131 1 = 0 || bitsOf hc 131 1 = 0 then 0x10
  else if bitsOf lc 654 1 = 1 && !sizeMet s cx lc then 0x19
  else linkCode lp hp lc hc d ((gridSize s cx lc).getD (0, 0, 0)) (readKernel s cx (bitsOf lp 0 64) hp)
    (readKernel s cx (bitsOf lc 0 64) hc)

/-- The consumer `c` of the producer taken as packet `i` of `t` is taken, and their kernels run as one; `held` is the state
while a cooperative grid finds no room (R143, R145, R148). The consumer's own `tp` is not acted on (DEDUCED,
notes/assumptions/115.md). -/
def launchPair (held t : State) (qn i lp hp c lc hc : Nat) (d : Nat × Nat × Nat) : State :=
  let det := decide (bitsOf lp 655 1 = 1)
  let kp := readKernel t (t.queue qn).cx (bitsOf lp 0 64) hp
  let kc := readKernel t (t.queue qn).cx (bitsOf lc 0 64) hc
  match t.pkt? i with
  | some k =>
    let t := noteLaunch t qn i lp 0x01 0 false
    let (j, t) := takePacket t qn c
    let t := noteLaunch t qn j lc 0x01 0 (decide (bitsOf lc 658 1 = 1))
    let t := t.setQueue qn { (t.queue qn) with phase := pPhase c }
    let t := match t.pkt? j with
      | some k => t.setPkt j { k with watch := [i] }
      | none => t
    let a := newGrid t i k.cx qn k.seq lp hp d det none
    let b := newGrid t j k.cx qn (k.seq + 1) lc hc d det none
    let (gid, t) := t.take
    (startGrid t gid (splicedGrid a b kp kc)).getD held
  | none => held

/-- The LAUNCH of queue `qn` that has been taken and waits as a producer for the next packet, as number `i` (R143): with the
next packet it starts as one kernel or alone; where the queue is no longer held for it, alone. A consumer whose size cannot be
read is no part of a splice, and the refusals that come before its size is read are tested first (R144). The code of this pair
replaces that of an earlier one (R144; DESIGN CHOICE, notes/assumptions/116.md). -/
def startProducer (s : State) (qn i : Nat) (k : Packet) : State :=
  let q := s.queue qn
  let held := decide (q.st = 2)
  let p := k.bits.toNat
  let s := underBank s qn k.die q.bank
  let t := s.setPkt i { k with loading := false }
  let t := if held then t.setQueue qn { q with st := 1, hold := none } else t
  let st := workStatus s k.cx p
  if st ≠ 0 then finishPacket t i st
  else match readLaunch s k.cx (pAddr p) with
    | none => finishPacket t i 0x04
    | some (l, h) =>
      match gridSize s k.cx l with
      | none => finishPacket t i 0x02
      | some d =>
        if !sizeOk l h d then finishPacket t i 0x02
        else if !held then (startAlone s t qn i l h k.link 0 d).setQueue qn q
        else match consumerOf t (t.queue qn) with
          | none => startAlone s t qn i l h k.link 0 d
          | some (c, lc, hc) =>
            let code := spliceCode s k.cx l h lc hc d
            if code = 0x10 || code = 0x19 then startAlone s t qn i l h code code d
            else match gridSize s k.cx lc with
              | none => startAlone s t qn i l h k.link 0 d
              | some dc =>
                if !sizeOk lc hc dc then startAlone s t qn i l h k.link 0 d
                else if code = 0x01 then launchPair s (underBank t qn (k.die) s.care.activeBank) qn i l h c lc hc d
                else startAlone s t qn i l h code code d

/-- The LAUNCH of a queue that has been taken and has not started. -/
def producer? (s : State) (qn : Nat) : Option (Nat × Packet) :=
  (openPackets s qn).find? (fun e => decide (pType e.2.bits.toNat = 1) && e.2.loading)

/-- A producer is taken, and its queue is held until the next packet is there (R143). -/
def takeProducer (s : State) (qn p : Nat) (link : BitVec 8) : State :=
  let (i, t) := takePacket s qn p
  match t.pkt? i with
  | none => t
  | some k =>
    let k := { k with loading := true, link := link }
    let t := holdQueue (t.setPkt i k) qn .splice
    if (t.queue qn).head = (t.queue qn).tail then t else startProducer t qn i k

/-- A LAUNCH at the head whose barrier, phase and record are met; one whose indirect size is bad leaves the queue at its phase, whose
steps have run (DEDUCED, notes/assumptions/140.md). -/
def headLaunch (s : State) (qn p l h : Nat) : State :=
  let q := s.queue qn
  let link : BitVec 8 := if bitsOf l 659 1 = 1 && !q.prevTp then 0x1A else q.nextLink
  if bitsOf l 654 1 = 1 && !sizeMet s q.cx l then holdQueue s qn .indirect
  else if bitsOf l 658 1 = 1 then takeProducer s qn p link
  else match gridSize s q.cx l with
    | none => takeDone s qn p 0x02
    | some d => launchAlone s qn p l h link d

/-! NODE (R123, R149). -/

def headNode (s : State) (qn p l h : Nat) : State :=
  let q := s.queue qn
  let entry := bitsOf l 0 64 + bitsOf h 192 32
  let disc := bitsOf p 264 16
  if (nodeOf s q.cx entry disc).isSome || decide (256 ≤ (s.k.nodes.filter (fun n => decide (n.2.die = q.die))).length) then
    holdQueue s qn .node
  else
    let (i, s) := takePacket s qn p
    let (gid, s) := s.take
    let (nid, s) := s.take
    let s := s.setGrid gid (newGrid s i q.cx qn q.head.toNat l h (0, 0, 0) q.lastDet (some nid))
    let nd : Node := { cx := q.cx, entry := entry, disc := disc, timer := bitsOf p 280 10, die := q.die, pkt := i, grid := gid
                       det := q.lastDet, held := [], ready := [], timerOn := false, closed := false, closeAt := 0, closeQs := [] }
    let mine (r : SpawnRec) : Bool := decide (r.cx = q.cx) && decide (r.entry = entry) && decide (r.disc = disc)
    let nd := (s.k.held.filter mine).foldl (fun nd r => nd.enter (widthOf h) { r with die := q.die }) nd
    { s with k := { s.k with nodes := mput s.k.nodes nid nd, held := s.k.held.filter (fun r => !mine r) } }

/-! The head of a queue. -/

/-- The packet at the head takes effect, or holds the queue at it (R113). `first`: it is being parsed; a held packet is read
from the ring again (DEDUCED, notes/assumptions/112.md). -/
def tryHead (s : State) (qn : Nat) (first : Bool) : State :=
  let q := s.queue qn
  if q.overrun then haltQueue s qn 0x01
  else match ringEntry s q 0 with
    | none => haltQueue s qn 0x02
    | some p =>
      let st := parseStatus s q.cx p first
      if st ≠ 0 then takeDone s qn p st
      else if pBar p && !(openPackets s qn).isEmpty then holdQueue s qn .bar
      else if phaseDue q p && !(openPackets s qn).isEmpty then holdQueue s qn .phase
      else if pWork p && decide (workStatus s q.cx p ≠ 0) then takeDone s qn p (workStatus s q.cx p)
      else if phaseDue q p then holdQueue s qn .phase
      else if pType p = 1 || pType p = 2 then
        match readLaunch s q.cx (pAddr p) with
        | some (l, h) => if pType p = 1 then headLaunch s qn p l h else headNode s qn p l h
        | none => s
      else headPlain s qn p first

/-- The condition of a held queue is met: the packet at its head would now be taken (R113). -/
def holdMet (s : State) (qn : Nat) : Bool :=
  decide ((s.queue qn).hold ≠ some .splice) && decide (((tryHead s qn false).queue qn).head ≠ (s.queue qn).head)

/-- The queue whose packet the sequencer of a die takes next (R128). -/
def chooseQueue (s : State) (die : Nat) : Option (Nat × Queue) := chooseAmong s (holdMet s) die

/-- The sequencer of a die has served queue `qn`. -/
def served (s : State) (die qn : Nat) : State := { s with q := { s.q with last := sset 0 s.q.last die (qn + 1) } }

/-- A packet of type `ty` is parsed by the sequencer of a die under the bank active now (R130), if the queue it turns to
has one at its head; a ring that cannot be read halts its queue whatever was sought (R113, R128). A held queue it turns to
goes on by QUEUE_HOLD_RELEASE or INDIRECT_SIZE_TAKEN. A queue whose packet is only held has been served (DEDUCED,
notes/assumptions/141.md). -/
def parseTurn (ty : Nat → Bool) (die : Nat) (s : State) : Out :=
  match chooseQueue s die with
  | none => .next s
  | some (qn, q) =>
    if q.st = 2 then .next s
    else match ringEntry s q 0 with
    | none => .next (haltQueue s qn 0x02)
    | some p =>
      if ty (pType p) then
        .next (tryHead (underBank (served s die qn) qn die s.care.activeBank) qn true)
      else .next s

/-- NOP_PACKET: also a packet of a type that is not listed, which completes with BAD_PACKET (R117). -/
def execNopPacket (die : Nat) (s : State) : Out := parseTurn (fun t => t = 0 || 9 ≤ t) die s
def execLaunch (die : Nat) (s : State) : Out := parseTurn (fun t => t = 1) die s
def execNode (die : Nat) (s : State) : Out := parseTurn (fun t => t = 2) die s
def execSignal (die : Nat) (s : State) : Out := parseTurn (fun t => t = 3) die s
def execWait (die : Nat) (s : State) : Out := parseTurn (fun t => t = 4) die s
def execPhase (die : Nat) (s : State) : Out := parseTurn (fun t => t = 5) die s
def execRein (die : Nat) (s : State) : Out := parseTurn (fun t => t = 6) die s
def execReplay (die : Nat) (s : State) : Out := parseTurn (fun t => t = 7) die s
def execInval (die : Nat) (s : State) : Out := parseTurn (fun t => t = 8) die s

/-- A held queue of an active context. -/
def heldQueue (s : State) (qn : Nat) : Bool :=
  let q := s.queue qn
  q.en && decide (q.st = 2) && s.active q.cx

/-- A held queue's turn: a packet that would be taken is, where the queue is the one its sequencer chooses (R128), under the bank
its parse began with (R130); one that still waits is held for what it waits for now. -/
def heldTurn (s : State) (qn : Nat) : State :=
  let q := s.queue qn
  if holdMet s qn then
    if (chooseQueue s q.die).elim false (fun e => decide (e.1 = qn)) then
      tryHead (underBank (served s q.die qn) qn q.die q.bank) qn false else s
  else tryHead s qn false

/-- A producer that has been taken goes on with the packet that follows it, or alone once its queue is off or halted (R112,
R143). -/
def producerGoesOn (s : State) (qn : Nat) : State :=
  let q := s.queue qn
  match producer? s qn with
  | none => s
  | some (i, k) => if s.active k.cx && (decide (q.st ≠ 2) || decide (q.head ≠ q.tail)) then startProducer s qn i k else s

/-- QUEUE_HOLD_RELEASE: the packet at the head is tried again (R113); a size that is indirect is INDIRECT_SIZE_TAKEN's, and
what a producer waits for is the packet after it. -/
def execQueueHoldRelease (qn : Nat) (s : State) : Out :=
  let q := s.queue qn
  if q.st ≠ 2 ∨ q.hold = some .splice then .next (producerGoesOn s qn)
  else if heldQueue s qn && decide (q.hold ≠ some .indirect) then .next (heldTurn s qn)
  else .next s

/-- INDIRECT_SIZE_TAKEN: the acquire signal is met and the dimensions are read (R121). -/
def execIndirectSizeTaken (qn : Nat) (s : State) : Out :=
  if heldQueue s qn && decide ((s.queue qn).hold = some .indirect) then .next (heldTurn s qn) else .next s

/-- PHASE_STEPS (R118): every earlier packet has completed; the L1 lines of the context go, its dirty host lines are
written back, and the queue takes the packet's phase. A packet that is to be refused runs no steps. -/
def execPhaseSteps (qn : Nat) (s : State) : Out :=
  let q := s.queue qn
  if heldQueue s qn && decide (q.hold = some .phase) && (openPackets s qn).isEmpty && !q.phaseMet then
    match ringEntry s q 0 with
    | none => .next (haltQueue s qn 0x02)
    | some p =>
      if pWork p && decide (workStatus s q.cx p ≠ 0) then .next s
      else
        let s := l1Drop s (fun e => decide (e.cx = q.cx))
        let s := { s with mem := s.mem.writeBackAll q.cx }
        .next (s.setQueue qn { q with phase := pPhase p, phaseMet := true })
  else .next s

/-- The entries of a patch bank: 1 A, 2 B; none is active as 0. -/
def patchBank (s : State) (b : Nat) : List (BitVec 128) :=
  if b = 1 then s.care.bankA else if b = 2 then s.care.bankB else []

/-- The word that the sequencer of a die fetches from control-store address `a` (R129): the `pword` of the valid entry of
its bank whose `paddr` is `a`, or the control store's. -/
def microFetch (s : State) (die a : Nat) : BitVec 96 :=
  match (patchBank s (sget 0 s.q.bankUsed die)).find? (fun e => e.getLsbD 108 && decide ((e.extractLsb' 96 12).toNat = a)) with
  | some e => e.extractLsb' 0 96
  | none => Config.controlStore a

/-- PATCH_BANK_SWITCH: between two packets the sequencer of a die turns to the active bank (R130). A packet held in parse keeps the
bank that its queue names. -/
def execPatchBankSwitch (die : Nat) (s : State) : Out :=
  .next { s with q := { s.q with bankUsed := sset 0 s.q.bankUsed die s.care.activeBank } }

/-! Rein slots (R125, R359, R361). -/

def unitsOfWords (n : Nat) : Nat := (n + 63) / 64

/-- Instruction-memory units of a rein in use (R361). -/
def Rein.unitsUsed (r : Rein) : Nat :=
  ((r.slots.filter (fun x => decide (x.2.st ≠ 0))).map (fun x => unitsOfWords x.2.words.length)).foldl (· + ·) 0

/-- The lowest free slot of a rein. -/
def Rein.freeSlot? (r : Rein) : Option Nat := (List.range 8).find? (fun i => decide ((sget Slot.free r.slots i).st = 0))

/-- A rein can take an image of `w` words for a communicator on a virtual channel (R125, R351). -/
def Rein.takes (r : Rein) (w comm vc : Nat) : Bool :=
  r.freeSlot?.isSome && decide (r.unitsUsed + unitsOfWords w ≤ 32) &&
    (decide (sget 0 r.vcComm vc = 0) || decide (sget 0 r.vcComm vc = comm + 1))

/-- Little-endian 64-bit values of a byte list, as a collection. -/
def words64 (n : Nat) (bs : List Byte) : Sparse Word64 :=
  (List.range n).foldl (fun m i => sset 0 m i (BitVec.ofNat 64 (natOfBytes ((bs.drop (8 * i)).take 8)))) []

/-- A slot as a REIN packet loads it: block `j` of `k` (R359). -/
def newSlot (i : Nat) (k : Packet) (j : Nat) (image args : List Byte) (step : Bool) : Slot :=
  let p := k.bits.toNat
  let n := (pReins p).length
  let chan := words64 16 ((image.drop (128 * j)).take 128)
  { Slot.free with
    st := 1, cx := k.cx, pkt := i, comm := bitsOf p 296 12, vc := bitsOf p 308 4, sprio := bitsOf p 312 3, det := k.det
    img := pAddr p, blocks := n, words := wordsOfBytes (image.drop (128 * n)), G := words64 32 ((args.drop (256 * j)).take 256)
    chan := chan, step := step
    alw := (List.range 16).foldl (fun m e =>
      let v := sget 0 chan e
      if v.getLsbD 63 && !v.getLsbD 62 then sset 0 m e (entAlw v) else m) [] }

/-- A slot put into a free place of a rein: its channel is bound, and what its senders send is kept again (R351, R359). -/
def placeSlot (s : State) (n sl : Nat) (x : Slot) : State :=
  let r := s.rein n
  s.setRein n { r with slots := sset Slot.free r.slots sl x, vcComm := sset 0 r.vcComm x.vc (x.comm + 1)
                       dead := r.dead.filter (fun k => !x.names k) }

/-- REIN_SLOT_LOAD of packet `p`: one slot on each rein named, all together, once every one of them has room (R125). -/
def execReinSlotLoad (p : Nat) (s : State) : Out :=
  match s.pkt? p with
  | none => .next s
  | some k =>
    let b := k.bits.toNat
    let ns := pReins b
    if pType b = 6 && k.loading && s.active k.cx && ns.all (fun n => (s.rein n).takes (pWords b) (bitsOf b 296 12) (bitsOf b 308 4)) then
      match reinImage s k.cx b with
      | none => .next (finishPacket (s.setPkt p { k with loading := false }) p 0x04)
      | some (image, args) =>
        let (s, slots) := ns.zipIdx.foldl (fun (a : State × List (Nat × Nat)) e =>
          let sl := ((a.1.rein e.1).freeSlot?).getD 0
          (placeSlot a.1 e.1 sl (newSlot p k e.2 image args (a.1.slot e.1 sl).step), a.2 ++ [(e.1, sl)])) (s, [])
        .next (s.setPkt p { k with loading := false, slots := slots })
    else .next s

/-! Completion. -/

/-- Everything of a context has come to rest at the boundaries of R105: no group within a clause, no operation but parked
ones and those of a tile not begun, no write to be performed, no chunk running. -/
def ctxStopped (s : State) (cx : Nat) : Bool :=
  s.k.groups.all (fun g => !(decide (g.2.cx = cx) && decide (g.2.status = .issuing))) &&
    s.mem.ops.all (fun o => !decide (o.2.cx = cx) || o.2.atRest || (decide (o.2.kind = .out) && decide (o.2.count = 0))) &&
    s.mem.stores.all (fun t => !decide (t.2.cx = cx)) &&
    s.reins.all (fun r => r.2.slots.all (fun x => !(decide (x.2.cx = cx) && decide (x.2.st = 3))))

/-- The grid of a packet. -/
def gridOf (s : State) (p : Nat) : Option (Nat × Grid) :=
  s.k.grids.find? (fun g => decide (g.2.pkt = p) || decide (g.2.pkt2 = some p))

/-- Every write and operation of a packet's groups is done. -/
def workQuiet (s : State) (p : Nat) : Bool :=
  let asks (id : Nat) : Bool := msAwaits s (8 + id)
  match gridOf s p with
  | none => !asks p
  | some (gid, _) =>
    !asks gid &&
    let gs := (s.k.groups.filter (fun g => decide (g.2.grid = gid))).map (·.1)
    s.mem.stores.all (fun t => !gs.contains t.2.gid) && s.mem.ops.all (fun o => !gs.contains o.2.gid)

/-- A packet leaves the device; its grid, groups and node go with it once no other packet needs them, but for ended groups
with loops outstanding (R309). -/
def dropPacket (s : State) (p : Nat) : State :=
  let s := match gridOf s p with
    | some (gid, gr) =>
      if gr.pkt2.elim true (fun j => decide (j = p)) && decide ((s.ctx gr.cx).st ≠ 4) then
        { s with k := { s.k with grids := mdel s.k.grids gid
                                 groups := s.k.groups.filter (fun g => decide (g.2.grid ≠ gid) || loopsOut s g.1) } }
      else s
    | none => s
  { s with q := { s.q with pkts := mdel s.q.pkts p } }

/-- The release of a packet of status OK (R120): after SYSTEM-scope visibility, or of class LAZY; none while an engine owns
its line. A page that no longer takes it leaves it unwritten. The signal of class normal is visible to the host at once. -/
def packetRelease (s : State) (k : Packet) : Option State :=
  let p := k.bits.toNat
  let has := decide (k.status = 0) && decide (pRop p ≠ 0) && (pWork p || pType p = 3)
  if !has then some s
  else match seqBytes s k.cx (pSig p) 8 with
    | .error _ => some s
    | .ok ps =>
      if ps.any (·.wp) then some s
      else if ps.any (byteOwned s k.cx 0) then none
      else
        let s := if pLazy p then s else { s with mem := s.mem.writeBackAll k.cx }
        let v : Word64 := if pRop p = 1 then pVal p else BitVec.ofNat 64 (seqRead s k.cx ps) + pVal p
        let s := writeOut s k.cx 0 ((ps.zip (bytesOfNat 8 v.toNat)).map (fun w => (w.1, w.2, 0xFF)))
        some (if pLazy p then s else { s with mem := s.mem.writeBackAll k.cx })

/-- The completion record of a packet (R126), as record `n` of a ring of 2^`clg`. -/
def completionRecord (s : State) (k : Packet) (n clg : Nat) : Nat :=
  let p := k.bits.toNat
  k.status.toNat + pType p * 2 ^ 8 + k.link.toNat * 2 ^ 16 + k.cause.toNat * 2 ^ 24 + bitsOf p 48 16 * 2 ^ 32 +
    k.q % 1024 * 2 ^ 48 + k.seq % 2 ^ 64 * 2 ^ 64 + s.cycle % 2 ^ 64 * 2 ^ 128 + k.blocks % 2 ^ 32 * 2 ^ 192 +
    (if n / 2 ^ clg % 2 = 0 then 2 ^ 255 else 0)

/-- A packet writes a record: with `cr` = 1 or a status other than OK (R127). -/
def recordWanted (k : Packet) : Bool := pCr k.bits.toNat || decide (k.status ≠ 0)

/-- The completion ring has no room (R114). -/
def ringFull (q : Queue) : Bool := decide (2 ^ q.clg ≤ (q.ctail - q.chead).toNat)

/-- The record written, after the context's dirty host lines (R120); a ring that does not take it fails (R113). None while
an engine owns its line. -/
def writeCompletion (s : State) (k : Packet) : Option State :=
  let q := s.queue k.q
  if !recordWanted k || q.noRecords then some s
  else
    let n := q.ctail.toNat
    match seqBytes s k.cx (q.cbase.toNat + 32 * (n % 2 ^ q.clg)) 32 with
    | .ok ps =>
      if ps.any (·.wp) then some (failRing s k.q q)
      else if ps.any (byteOwned s k.cx 0) then none
      else
        let s := { s with mem := s.mem.writeBackAll k.cx }
        let bs := bytesOfNat 32 (completionRecord s k n q.clg)
        let s := writeOut s k.cx 0 ((ps.zip bs).map (fun w => (w.1, w.2, 0xFF)))
        let s := { s with mem := s.mem.writeBackAll k.cx }
        some (s.setQueue k.q { (s.queue k.q) with ctail := q.ctail + 1 })
    | .error _ => some (failRing s k.q q)
where
  failRing (s : State) (qn : Nat) (q : Queue) : State :=
    s.setQueue qn { (if q.st = 0 then q else q.halts (if q.halt = 0 then 0x04 else q.halt)) with noRecords := true }

/-- Packet `p` completes: its release, its record, then it is gone; none while it must wait (R114, R117). -/
def completePacket (s : State) (p : Nat) (k : Packet) : Option State :=
  if recordWanted k && !(s.queue k.q).noRecords && ringFull (s.queue k.q) then none
  else (packetRelease s k).bind (fun s => (writeCompletion s k).map (fun s => dropPacket s p))

/-- A packet as it completes in a faulted context (R108, R117): FAULTED, unless it had another status than OK. -/
def Packet.faulted (s : State) (p : Nat) (k : Packet) : Packet :=
  let (b, c) := (gridOf s p).elim (0, k.cause) (fun g => (g.2.exited, g.2.cause))
  { k with status := if k.finished && decide (k.status ≠ 0) then k.status else 0x03
           finished := true, blocks := b, cause := c }

/-- Packets that waited for room complete in their order as far as there is room (R114); those of a faulted context once
it has stopped (R108). -/
def drainLate (qn : Nat) : List Nat → State → State
  | [], s => s
  | p :: r, s =>
    match s.pkt? p with
    | none => drainLate qn r (s.setQueue qn { (s.queue qn) with late := r })
    | some k =>
      let bad := decide ((s.ctx k.cx).st = 4)
      if bad && !ctxStopped s k.cx then s
      else match completePacket s p (if bad then k.faulted s p else k) with
      | some s => drainLate qn r (s.setQueue qn { (s.queue qn) with late := r })
      | none => s

/-- A packet whose work is done completes, after those of its queue that waited for room before it (R114), be it one that
writes no record (DEDUCED, notes/assumptions/113.md). -/
def completeLate (s : State) (p : Nat) (k : Packet) : State :=
  let q := s.queue k.q
  if q.late.isEmpty then
    match completePacket s p k with
    | some s => s
    | none =>
      if recordWanted k && !q.noRecords && ringFull q then (s.setPkt p k).setQueue k.q { q with late := [p] } else s
  else
    let l := if q.late.contains p then q.late else q.late ++ [p]
    drainLate k.q l ((s.setPkt p k).setQueue k.q { q with late := l })

/-- PACKET_COMPLETE of packet `p`: its work is done and visible, or its context has faulted and stopped (R108, R117). -/
def execPacketComplete (p : Nat) (s : State) : Out :=
  match s.pkt? p with
  | none => .next s
  | some k =>
    let st := (s.ctx k.cx).st
    if st = 4 then
      .next (if ctxStopped s k.cx then completeLate s p (k.faulted s p) else s)
    else if k.finished && (st = 1 || st = 2) && workQuiet s p &&
        (pType k.bits.toNat = 8 || k.watch.all (fun i => (s.pkt? i).isNone)) then
      .next (completeLate s p k)
    else .next s

/-- CHEAD_WRITE (R114). -/
def cheadWrite (s : State) (qn : Nat) (v : Word) : State :=
  if Config.queues ≤ qn then s
  else
    let s := s.setQueue qn { (s.queue qn) with chead := v }
    drainLate qn (s.queue qn).late s

def execCheadWrite (qn : Nat) (v : Word) (s : State) : Out := .next (cheadWrite s qn v)

end Sys2Proof.Machine
end

