-- ==== Sys2Proof/Machine/Context.lean ====
section
/-! DEFINITION. Contexts (R97-R109): the control block, the commands, pre-emption and its save, resumption, destruction, and
uncorrectable memory errors. -/
namespace Sys2Proof.Machine

/-! The control block (R98, R99). -/

/-- CXSTAT as it reads (R98). -/
def State.cxstat (s : State) : Word :=
  let x := s.ctx s.cx.sel
  BitVec.ofNat 32 (s.cx.result.toNat + x.why.toNat * 2 ^ 8 + (if x.keyed then 2 ^ 27 else 0) + x.st % 8 * 2 ^ 28 +
    (if s.cx.busy then 2 ^ 31 else 0))

/-- A write to CXSEL, CXDESC or CXKEYn: ignored while a command is in progress (R99). -/
def cxselWrite (s : State) (v : Word) : State :=
  if s.cx.busy then s else { s with cx := { s.cx with sel := bitsOf v.toNat 0 10 } }
def cxdescWrite (s : State) (v : Word64) : State :=
  if s.cx.busy then s else { s with cx := { s.cx with desc := v &&& ~~~0x3F#64 } }
def cxkeyWrite (s : State) (n : Nat) (v : Word) : State :=
  if s.cx.busy then s
  else { s with cx := { s.cx with staging := (s.cx.staging &&& ~~~((0xFFFFFFFF : BitVec 512) <<< (32 * n))) |||
                                             (v.setWidth 512 <<< (32 * n)) } }

/-- A command completes with a result. -/
def cxDone (s : State) (r : BitVec 8) : State := { s with cx := { s.cx with busy := false, result := r } }

/-- A command begins: ignored while one is in progress; BAD_STATE in a state that does not accept it (R99, R104). -/
def command (cmd : Nat) (states : List Nat) (f : Nat → State → State) (s : State) : State :=
  if s.cx.busy then s
  else
    let s := { s with cx := { s.cx with cmd := cmd } }
    if states.contains (s.ctx s.cx.sel).st then f s.cx.sel s else cxDone s 0x02

/-! Descriptors (R100, R403). -/

/-- `n` bytes from a physical address lie in device memory. -/
def inDevice (a n : Nat) : Bool := decide (n = 0) || devBacked (a + n - 1)

/-- The descriptor at CXDESC as the context reads it (R26): none where it is not backed or a reserved field is not zero. -/
def readDesc (s : State) (c : Nat) : Option Nat :=
  let a := s.cx.desc.toNat
  if backed a then
    let d := natOfBytes ((List.range 64).map (fun i => s.mem.physByte (s.ctx c).key (a + i)))
    if zeroBits d [(480, 1), (201, 7), (59, 5), (3, 29)] then some d else none
  else none

def descPool (d : Nat) : Nat × Nat := (bitsOf d 320 64, bitsOf d 384 32)

/-- A pool extent lies in device memory, aligned. -/
def poolOk (e : Nat × Nat) : Bool := decide (e.1 % 256 = 0) && inDevice e.1 (256 * e.2)

/-- The fields CREATE takes suit R100 and R403; `onbind` and `dsh` beyond what R100 allows do not (DEDUCED,
notes/assumptions/110.md). -/
def descOk (d : Nat) : Bool :=
  decide (bitsOf d 192 9 ≤ 256) && decide (bitsOf d 48 11 ≤ 1536) && decide (bitsOf d 128 64 % 4096 = 0) &&
    decide (bitsOf d 416 64 % 32 = 0) && decide (bitsOf d 224 64 % 4096 = 0) && inDevice (bitsOf d 224 64) (4096 * bitsOf d 288 32) &&
    poolOk (descPool d)

/-! Die-wide scratchpad (R20, R103). -/

/-- The shares of a context zeroed. -/
def zeroShare (s : State) (c : Nat) : State :=
  { s with mem := { s.mem with share := s.mem.share.filter (fun e => decide (e.1 / 2 ^ 29 ≠ c)) } }

/-! CREATE, KEY, POOL, QUOTA (R102-R104). -/

/-- The outrider binding table copied (R156): a record that cannot be read is left open. -/
def copyBinds (s : State) (c a n : Nat) : List (BitVec 256 × Bool) :=
  (List.range n).map (fun i => match seqMem s c (a + 32 * i) 32 with
    | some v => (BitVec.ofNat 256 v, true)
    | none => Config.strayBind s.tick i)

def create (c : Nat) (s : State) : State :=
  let x := s.ctx c
  if !x.keyed then cxDone s 0x05
  else match readDesc s c with
    | none => cxDone s 0x03
    | some d =>
      if !descOk d then cxDone s 0x03
      else if !shareFits s (bitsOf d 48 11) then cxDone s 0x09
      else
        let s := zeroShare s c
        let x := { x with
          st := 1, why := 0, prio := bitsOf d 0 3, elen := bitsOf d 32 16, ebase := bitsOf d 481 31
          dsh := bitsOf d 48 11, oimg := bitsOf d 64 64, obind := bitsOf d 416 64, onbind := bitsOf d 192 9
          objRoot := bitsOf d 128 64, brandQuota := bitsOf d 208 16, saveBase := bitsOf d 224 64, saveUnits := bitsOf d 288 32
          pool := if (descPool d).2 = 0 then [] else [descPool d]
          obinds := [], recorded := 0, savedArea := none, placedShare := true }
        let s := s.setCtx c x
        cxDone (s.setCtx c { x with obinds := copyBinds s c x.obind x.onbind }) 0x00

/-- CREATE (R103, R104). -/
def execCreate (s : State) : Out := .next (command 1 [0] create s)

/-- KEY (R104): the staging register is zeroed whichever way it goes. -/
def loadKey (c : Nat) (s : State) : State :=
  let k := s.cx.staging
  let s := { s with cx := { s.cx with staging := 0 } }
  if k.extractLsb' 0 256 = k.extractLsb' 256 256 then cxDone s 0x06
  else cxDone (s.setCtx c { (s.ctx c) with keyed := true, key := k.toNat }) 0x00

def execKey (s : State) : Out := .next (command 2 [0] loadKey s)

/-- POOL (R102): the extent is appended, and every POOL_EMPTY park of an active context is retried. -/
def addPool (c : Nat) (s : State) : State :=
  match readDesc s c with
  | none => cxDone s 0x03
  | some d =>
    let e := descPool d
    let x := s.ctx c
    if !poolOk e || decide (e.2 = 0) then cxDone s 0x03
    else if 16 ≤ x.pool.length then cxDone s 0x08
    else
      let s := s.setCtx c { x with pool := x.pool ++ [e] }
      cxDone (if x.st = 1 then retryPool s c else s) 0x00

def execPool (s : State) : Out := .next (command 6 [1, 3] addPool s)

/-- QUOTA (R102). -/
def setQuota (c : Nat) (s : State) : State :=
  match readDesc s c with
  | none => cxDone s 0x03
  | some d => cxDone (s.setCtx c { (s.ctx c) with brandQuota := bitsOf d 208 16 }) 0x00

def execQuota (s : State) : Out := .next (command 7 [1, 3] setQuota s)

/-! PREEMPT and the save area (R105, R109). -/

def sumOf (l : List Nat) : Nat := l.foldl (· + ·) 0

/-- Groups of a context that have not ended; the runs of outriders among them. -/
def ctxGroups (s : State) (c : Nat) : List (Nat × Group) :=
  s.k.groups.filter (fun g => decide (g.2.cx = c) && decide (g.2.status ≠ .ended))

def ctxBlocks (s : State) (c : Nat) : List (Nat × Block) := s.k.blocks.filter (fun b => decide (b.2.cx = c))

def ctxSlots (s : State) (c : Nat) : List Slot :=
  s.reins.flatMap (fun r => r.2.live.filter (fun x => decide (x.cx = c)))

/-- The tiles that groups of a resident block hold, ended groups with loops outstanding among them (R309). -/
def blockTiles (s : State) (b : Block) : List SavedTile :=
  b.cores.zipIdx.flatMap (fun c => (List.range 8).filterMap (fun z =>
    let t := s.tile c.1 z
    if t.holder.elim false b.groups.contains then some { pos := c.2, z := z, tile := t } else none))

/-- The tiles of a context that no resident block holds: those of groups whose block has exited (R309). -/
def orphanTiles (s : State) (c : Nat) : List (Nat × SavedTile) :=
  s.cores.flatMap (fun k => k.2.tiles.filterMap (fun t =>
    if (t.2.holder.bind s.group?).elim false (fun g => decide (g.cx = c) && (s.block? g.block).isNone) then
      some (k.1, { pos := 0, z := t.1, tile := t.2 })
    else none))

/-- Paddock records of a context. -/
def paddockRecords (s : State) (c : Nat) : Nat :=
  (s.k.held.filter (fun r => decide (r.cx = c))).length +
    sumOf ((s.k.nodes.filter (fun n => decide (n.2.cx = c))).map (fun n => n.2.held.length + sumOf (n.2.ready.map (·.length))))

/-- The size of the header of a save area (R109). -/
def saveHeader (s : State) (c : Nat) : Nat :=
  roundUp (4096 + 16 * (s.mem.commit.filter (fun e => decide (e.cx = c))).length + 96 * paddockRecords s c) 4096

/-- The size of a slot's record (R109, R373). -/
def slotSize (x : Slot) : Nat := 512 + roundUp (4 * x.words.length) 256

/-- The size of the save area in bytes (R109). -/
def saveBytes (s : State) (c : Nat) : Nat :=
  saveHeader s c +
    sumOf ((ctxGroups s c).map (fun g => if g.2.outrider.isSome then 1536
      else roundUp (256 + g.2.width * (g.2.nregs + 17) * 4 + 4096 + 128 + 512 + g.2.spillBytes) 256)) +
    sumOf ((ctxBlocks s c).map (fun b => roundUp (256 + (s.grid? b.2.grid).elim 0 (·.scratch)) 256 +
      37120 * (if b.2.saved then b.2.tiles else blockTiles s b.2).length)) +
    37120 * ((orphanTiles s c).length + (s.ctx c).orphans.length) +
    sumOf ((ctxSlots s c).map slotSize) + 4 * (s.ctx c).dsh * 65536

/-- The units of CXNEED. -/
def saveNeed (s : State) (c : Nat) : Nat := (saveBytes s c + 4095) / 4096

/-- PREEMPT (R105 steps 1 and 2): too small a save area leaves the context active; otherwise it is pre-empting, and the
command goes on until SAVE_COMPLETE. -/
def preempt (c : Nat) (s : State) : State :=
  let n := saveNeed s c
  let s := { s with cx := { s.cx with need := BitVec.ofNat 32 n } }
  if (s.ctx c).saveUnits < n then cxDone s 0x04
  else { s with cx := { s.cx with busy := true } }.setCtx c { (s.ctx c) with st := 2, recorded := 0 }

def execPreempt (s : State) : Out := .next (command 3 [1] preempt s)

/-- Leave that agents of a context hold or wait for is given up (R390). -/
def dropCtxLeave (s : State) (c : Nat) : State :=
  let mine := (s.k.groups.filter (fun g => decide (g.2.cx = c))).map (·.1) ++ (s.mem.ops.filter (fun o => decide (o.2.cx = c))).map (·.1) ++
    s.cores.flatMap (fun k => k.2.tiles.flatMap (fun t => (t.2.loops.filter (fun l => decide (l.cx = c))).map (·.id)))
  mine.foldl (fun s i => (List.range 4).foldl (fun s d => dropLeave s d i) s) s

/-- Engine operations of a context leave the queues of their engines. -/
def dropEngineQueues (s : State) (c : Nat) : State :=
  let keep (i : Nat) : Bool := (s.op? i).elim true (fun o => decide (o.cx ≠ c))
  { s with cores := s.cores.map (fun k => (k.1, { k.2 with copyQ := k.2.copyQ.filter keep, gathQ := k.2.gathQ.filter keep })) }

/-- A block saved with the tiles its groups hold (R105 steps 4 and 6). -/
def saveBlock (s : State) (b : Nat × Block) : State :=
  if b.2.saved then s
  else
    let ts := blockTiles s b.2
    let s := ts.foldl (fun s t => s.setTile (b.2.cores.getD t.pos 0) t.z Tile.free) s
    s.setBlock b.1 { b.2 with saved := true, tiles := ts }

/-- The tiles of a context whose holders have ended, with their blocks, saved with their loops (R105, R334). -/
def saveOrphans (s : State) (c : Nat) : State :=
  let ts := orphanTiles s c
  let s := ts.foldl (fun s t => s.setTile t.1 t.2.z Tile.free) s
  s.setCtx c { (s.ctx c) with orphans := (s.ctx c).orphans ++ ts.map (·.2) }

/-- Operations saved parked own no line: what they have not written they ask for again at their retry (R238, R278). -/
def releaseLines (s : State) (c : Nat) : State :=
  let s := ((s.mem.ops.filter (fun o => decide (o.2.cx = c))).map (·.1)).foldl dropAll s
  { s with mem := { s.mem with ops := s.mem.ops.map (fun o => if o.2.cx = c then
      (o.1, { o.2 with lines := o.2.lines.map (fun j => if j.stage = 1 then { j with stage := 0 } else j) }) else o) } }

/-- A slot saved (R373): its index and units are free, and its communicator's channels stay bound. -/
def saveSlot (n : Nat) (s : State) (e : Nat × Slot) : State :=
  let r := ((s.rein n).forget e.1).leave e.1
  let s := s.setRein n { r with slots := sset Slot.free r.slots e.1 { Slot.free with step := e.2.step }
                                saved := r.saved ++ [{ e.2.dropPeer with st := 7, savedSt := e.2.st }] }
  match s.pkt? e.2.pkt with
  | some k => s.setPkt e.2.pkt { k with slots := k.slots.map (fun p => if p = (n, e.1) then (n, 8) else p) }
  | none => s

def saveSlots (s : State) (c : Nat) : State :=
  s.reins.foldl (fun s r =>
    (r.2.slots.filter (fun x => decide (x.2.cx = c) && decide (x.2.st ≠ 0))).foldl (saveSlot r.1) s) s

/-- The bytes of the save area as they read. -/
def areaBytes (s : State) (c : Nat) : List Byte :=
  (List.range (4096 * (s.ctx c).saveUnits)).map (fun i => s.mem.physByte (s.ctx c).key ((s.ctx c).saveBase + i))

/-- The record of a saved slot (R373): none for a byte of its claim state, whose layout is private. -/
def savedSlot (x : Slot) : List (Option Byte) :=
  let head := ((List.range 32).flatMap (fun i => bytesOfNat 8 (sget 0 x.G i).toNat)) ++
    ((List.range 16).flatMap (fun e => bytesOfNat 8 (x.ent e).toNat)) ++
    ((List.range 16).flatMap (fun e => bytesOfNat 4 (x.allow e))) ++
    bytesOfNat 4 (x.pc % 2 ^ 11 + x.savedSt % 16 * 2 ^ 11 + x.passes % 8 * 2 ^ 15 + (if x.step then 2 ^ 18 else 0) +
      x.flags.toNat * 2 ^ 19) ++
    bytesOfNat 4 x.written ++
    bytesOfNat 4 (x.comm % 4096 + x.vc % 16 * 2 ^ 12 + x.sprio % 8 * 2 ^ 16 + (if x.det then 2 ^ 19 else 0)) ++
    bytesOfNat 4 x.cause.toNat
  let words := x.words.flatMap bytesOfWord
  head.map some ++ List.replicate 48 none ++ words.map some ++
    List.replicate (roundUp words.length 256 - words.length) (some 0)

/-- The records of a context's saved slots, one after the other. -/
def slotRecords (s : State) (c : Nat) : List (Option Byte) := (ctxSlots s c).flatMap savedSlot

/-- The save area written: the records of rein slots as R373 lays them out, at a place among the others that is private to the
device, as are the layout of the other records and the digest (R109): those bytes are left open. -/
def writeArea (s : State) (c : Nat) : State :=
  let slots := slotRecords s c
  let first := saveHeader s c + 256 * (Config.slotRecords s.tick % ((saveBytes s c - saveHeader s c - slots.length) / 256 + 1))
  let area := (List.range (4096 * s.cx.need.toNat)).map (Config.saveByte s.tick)
  let area := area.take first ++ ((slots.zip (area.drop first)).map (fun e => e.1.getD e.2)) ++ area.drop (first + slots.length)
  let s := area.zipIdx.foldl (fun s b => writeAt s c { sp := .phys, a := (s.ctx c).saveBase + b.2 } b.1) s
  s.setCtx c { (s.ctx c) with savedArea := some (areaBytes s c) }

/-- A group as it is saved: a SIG.WAIT that waits as not issued (R348). -/
def Group.save (g : Group) : Group :=
  if g.status = .barrier && g.sigw.isSome then { g with saved := true, status := .issuing, sigw := none } else { g with saved := true }

/-- What a context holds leaves cores and reins (R105 steps 3 to 7). -/
def saveAll (s : State) (c : Nat) : State :=
  let s := releaseLines (dropEngineQueues (dropCtxLeave s c) c) c
  let s := saveOrphans ((ctxBlocks s c).foldl saveBlock s) c
  let s := saveSlots s c
  let s := l1Drop s (fun e => decide (e.cx = c))
  { s with k := { s.k with
      groups := s.k.groups.map (fun g => if g.2.cx = c then (g.1, g.2.save) else g)
      outriders := s.k.outriders.map (fun o =>
        if o.2.run.elim false (fun r => (s.group? r).elim false (fun g => decide (g.cx = c))) then (o.1, { o.2 with run := none })
        else o) } }

/-- The end of a save: the context is saved, or faulted (R104). -/
def endSave (s : State) (c : Nat) : State :=
  let x := s.ctx c
  let t := s.setCtx c { x with st := 3, placedShare := false }
  cxDone (if x.recorded = 0 then t else faultContext t c x.recorded) 0x00

/-- SAVE_COMPLETE (R105, R104): once all of the context stands at its boundaries it is saved, or faulted if a fault was
recorded meanwhile. -/
def execSaveComplete (s : State) : Out :=
  let c := s.cx.sel
  if s.cx.busy && decide (s.cx.cmd = 3) && decide ((s.ctx c).st = 2) && ctxStopped s c then
    .next (endSave (writeArea (saveAll s c) c) c)
  else .next s

/-! RESUME (R106). -/

/-- The saved run of outrider `o` that may return to it: the first of an active context. -/
def savedRun (s : State) (o : Nat) : Option (Nat × Group) :=
  s.k.groups.find? (fun g => decide (g.2.outrider = some o) && g.2.saved && decide (g.2.status ≠ .ended) && s.active g.2.cx)

/-- A saved run returned to its idle outrider (R158); its parked access is retried (R106). -/
def returnRun (s : State) (o : Nat) : State :=
  let x := sget Outrider.idle s.k.outriders o
  if x.run.isSome then s
  else match savedRun s o with
    | none => s
    | some (id, g) =>
      let st : GStatus := match g.status with
        | .stalled _ => .issuing
        | t => t
      let s := s.setGroup id { g with saved := false, status := st }
      let s := { s with k := { s.k with outriders := sset Outrider.idle s.k.outriders o { x with run := some id } } }
      (parkedAll s (fun p => decide (p.gid = id)) (fun _ => false) (fun _ => false)).foldl retryParked s

/-- Slots whose rein has been reset since the save count as aborted, and what arrives for them is discarded (R106, R372). -/
def abortLost (s : State) (c : Nat) : State :=
  s.reins.foldl (fun s r =>
    let lost := r.2.saved.filter (fun x => decide (x.cx = c) && x.lost)
    let s := s.setRein r.1 { (s.rein r.1) with saved := (s.rein r.1).saved.filter (fun x => !(decide (x.cx = c) && x.lost)) }
    lost.foldl (fun s x => slotGone (s.setRein r.1 ((s.rein r.1).without x)) x.pkt r.1 8 (some cReinChannel)) s) s

def resume (c : Nat) (s : State) : State :=
  let x := s.ctx c
  if x.savedArea ≠ some (areaBytes s c) then cxDone s 0x07
  else
    let s := s.setCtx c { x with st := 1, savedArea := none }
    let s := abortLost (placeShares s c) c
    cxDone (returnLeft ((List.range Config.clusters).foldl returnRun s)) 0x00

def execResume (s : State) : Out := .next (command 4 [3] resume s)

/-- REIN_SLOT_RESTORE (R106): the first saved slot of rein `n` whose context is active returns, once there is a free slot and
room for its words; a parked access is retried. -/
def execReinSlotRestore (n : Nat) (s : State) : Out :=
  let r := s.rein n
  match r.saved.find? (fun x => s.active x.cx && !x.lost) with
  | none => .next s
  | some x =>
    match r.freeSlot? with
    | some sl =>
      if r.unitsUsed + unitsOfWords x.words.length ≤ 32 then
        let s := s.setRein n { r with saved := r.saved.erase x }
        let s := s.setSlot n sl { x with st := x.savedSt, savedSt := 0 }
        let s := match s.pkt? x.pkt with
          | some k => s.setPkt x.pkt { k with slots := k.slots.map (fun p => if p = (n, 8) then (n, sl) else p) }
          | none => s
        .next (if x.savedSt = 4 then retryParked s (0, .slot n sl) else s)
      else .next s
    | none => .next s

/-! DESTROY (R107). -/

/-- The slots of a context leave its reins: their streams are discarded, and a communicator without slots is unbound. -/
def dropSlots (s : State) (c : Nat) : State :=
  s.reins.foldl (fun s r =>
    let n := r.1
    let mine := r.2.slots.filter (fun x => decide (x.2.cx = c) && decide (x.2.st ≠ 0))
    let gone := mine.map (·.2) ++ r.2.saved.filter (fun x => decide (x.cx = c))
    let s := mine.foldl (fun s e =>
      let s := dropAll s (reinAgent n e.1)
      let s := s.setSlot n e.1 { Slot.free with step := e.2.step }
      let q := ((s.rein n).forget e.1).leave e.1
      s.setRein n (e.2.claimed.elim q (fun m => q.owe m.flits))) s
    let q := { (s.rein n) with saved := (s.rein n).saved.filter (fun x => decide (x.cx ≠ c))
                               msWait := (s.rein n).msWait.filter (fun e => decide (e.2.rctx ≠ c)) }
    s.setRein n (gone.foldl (fun q x => q.without x) q)) s

/-- Tiles of a context freed, those of ended groups too. -/
def dropCtxTiles (s : State) (c : Nat) : State :=
  let mine (t : Tile) : Bool := t.loops.any (fun l => decide (l.cx = c)) ||
    t.holder.elim false (fun g => (s.group? g).elim false (fun g => decide (g.cx = c)))
  { s with cores := s.cores.map (fun k => (k.1, { k.2 with tiles := k.2.tiles.filter (fun t => !mine t.2) })) }

/-- The kernel objects of a context. -/
def dropKernel (s : State) (c : Nat) : State :=
  let gids := (s.k.grids.filter (fun g => decide (g.2.cx = c))).map (·.1)
  let bids := (ctxBlocks s c).map (·.1)
  let mine (r : Nat) : Bool := (s.group? r).elim false (fun g => decide (g.cx = c))
  { s with
    mem := { s.mem with detOwn := s.mem.detOwn.filter (fun d => !gids.contains d.grid) }
    k := {
      grids := s.k.grids.filter (fun g => decide (g.2.cx ≠ c))
      blocks := s.k.blocks.filter (fun b => decide (b.2.cx ≠ c))
      groups := s.k.groups.filter (fun g => decide (g.2.cx ≠ c))
      nodes := s.k.nodes.filter (fun n => decide (n.2.cx ≠ c))
      held := s.k.held.filter (fun r => decide (r.cx ≠ c))
      bars := s.k.bars.filter (fun n => !((decide (n.lv = 0) && bids.contains n.id) || (decide (n.lv = 1) && gids.contains (n.id / 32)) ||
        (decide (n.lv = 2) && gids.contains n.id)))
      outriders := s.k.outriders.map (fun o => (o.1, {
        irq := o.2.irq.filter (fun a => decide (a.cx ≠ c)), waiting := o.2.waiting.filter (fun a => decide (a.cx ≠ c))
        run := if o.2.run.elim false mine then none else o.2.run })) } }

/-- The accesses of a context dropped with what they hold, and its translation-cache entries. -/
def dropMem (s : State) (c : Nat) : State :=
  let ids := (s.mem.ops.filter (fun o => decide (o.2.cx = c))).map (·.1)
  let s := ids.foldl dropAll s
  { s with
    mem := { s.mem with
      ops := s.mem.ops.filter (fun o => decide (o.2.cx ≠ c))
      stores := s.mem.stores.filter (fun t => decide (t.2.cx ≠ c))
      commit := s.mem.commit.filter (fun e => decide (e.cx ≠ c))
      tlb := s.mem.tlb.filter (fun e => decide (e.cx ≠ c))
      l1 := s.mem.l1.filter (fun e => decide (e.cx ≠ c)) }
    br := { table := s.br.table.filter (fun e => decide (e.1 / 65536 ≠ c)), cells := s.br.cells.filter (fun e => decide (e.cx ≠ c)) } }

/-- The queues of a context go off, its packets and its waiting fault records are gone (R113). -/
def dropQueues (s : State) (c : Nat) : State :=
  { s with
    q := { s.q with
      qs := s.q.qs.map (fun e => if e.2.cx = c ∧ (e.2.st = 1 ∨ e.2.st = 2) then
        (e.1, { e.2 with st := 0, en := false, hold := none, phaseMet := false, waitPark := none, late := [] }) else e)
      pkts := s.q.pkts.filter (fun e => decide (e.2.cx ≠ c)) }
    fq := { s.fq with waiting := s.fq.waiting.filter (fun rs =>
      rs.all (fun r => decide ((r.extractLsb' 240 10).toNat ≠ c))) } }

/-- A context destroyed: everything it holds is gone, its key slot zeroed. -/
def destroyContext (s : State) (c : Nat) : State :=
  let s := dropEngineQueues (dropCtxLeave s c) c
  let s := dropSlots (dropCtxTiles s c) c
  (dropQueues (dropMem (dropKernel s c) c) c).setCtx c Context.free

def destroy (c : Nat) (s : State) : State := cxDone (destroyContext s c) 0x00

/-- DESTROY (R104, R107). -/
def execDestroy (s : State) : Out := .next (command 5 [1, 3, 4] destroy s)

/-- A write to CXCMD (R98, R99): a reserved bit or a command that is not listed gives BAD_CMD. -/
def cxcmdWrite (s : State) (v : Word) : State :=
  match v.toNat with
  | 1 => command 1 [0] create s
  | 2 => command 2 [0] loadKey s
  | 3 => command 3 [1] preempt s
  | 4 => command 4 [3] resume s
  | 5 => command 5 [1, 3, 4] destroy s
  | 6 => command 6 [1, 3] addPool s
  | 7 => command 7 [1, 3] setQuota s
  | _ => if s.cx.busy then s else cxDone s 0x01

/-! Uncorrectable errors (R108). -/

/-- UNCORRECTABLE_ERROR at physical address `addr` of context `cx`, a number of 1,024 or above for none. -/
def execUncorrectableError (addr cx : Nat) (s : State) : Out :=
  let x := s.ctx cx
  if !backed addr then .next s
  else if Config.contexts ≤ cx || decide (x.st = 0) then
    .next { s with care := { s.care with noCtxErrors := min (s.care.noCtxErrors + 1) (2 ^ 32 - 1) } }
  else
    let why : BitVec 8 := if decide (x.saveBase ≤ addr) && decide (addr < x.saveBase + 4096 * x.saveUnits) then 0x03
      else if devBacked addr then 0x01 else 0x02
    .next (faultContext s cx why)

end Sys2Proof.Machine
end

