-- ==== Sys2Proof/Machine/Clause.lean ====
section
/-! DEFINITION. The start of a clause (R61, R66, R67, R172), the runs of outriders (R156-R158), the release of a stalled word
(R172), and the completion of operations, writes and lines (R64, R68, R274, R278, R279). -/
namespace Sys2Proof.Machine

/-! Clauses. -/

/-- The header at a group's clause boundary: none where it cannot be read. -/
def headerAt (s : State) (g : Group) : Option (Option Header) :=
  match codeWords s g g.pc 1 with
  | .ok (w :: _) => some (decodeHeader w)
  | .ok [] => some none
  | .error _ => none

/-- Every `wait` flag of the next clause is clear; a header that cannot be read or breaks R61 waits for nothing. -/
def waitClear (s : State) (g : Group) : Bool :=
  match headerAt s g with
  | some (some h) => g.clearOf h.wait
  | _ => true

/-- A group within the clause whose header `h` stands at its program counter, before its first word. -/
def Group.openClause (g : Group) (h : Header) : Group :=
  { g with status := .issuing, cla := g.pc, pc := g.pc + 4, cend := g.pc + 8 + 4 * h.len.toNat, seta := h.seta, setb := h.setb
           yld := h.yld, yielding := false }

/-- The clause at a group's boundary starts (R172): a data fault of a loop whose flag it waits for comes first (R333), and
what the loops collected reaches its lanes (R44). A broken header raises ILLEGAL_ENCODING (R67). -/
def startClause (s : State) (id : Nat) (g : Group) : State :=
  let t := noteTlb s g.cx (codeChunks s g g.pc 1).good
  match parkDue s id g with
  | some s => s
  | none =>
  match codeWords s g g.pc 1 with
  | .error fs => parkFetch t id g true fs
  | .ok ws =>
    match decodeHeader (ws.headD 0) with
    | none => takeTrap t id g { cause := cIllegalEncoding }
    | some h =>
      match takeDataFault t id g (fun d => d.flag.elim false (fun f => h.wait.getLsbD f)) with
      | some s => s
      | none => t.setGroup id ((g.mergeOwed h.wait).openClause h)

/-! The choice of a pipe (R170). -/

/-- Groups of a pipe. -/
def pipeGroups (s : State) (co p : Nat) : List (Nat × Group) :=
  s.k.groups.filter (fun e => decide (e.2.core = co) && decide (e.2.pipe = p) && e.2.outrider.isNone && !e.2.saved)

/-- A group can start its next clause: its context runs (R105), no re-entry is asked for, and every `wait` flag is clear. -/
def canStart (s : State) (g : Group) : Bool :=
  decide (g.status = .boundary) && s.active g.cx && g.reenter.isNone && waitClear s g

/-- A group can issue a word: within a clause, which it finishes even while its context is pre-empted, or at a boundary. -/
def canIssue (s : State) (g : Group) : Bool :=
  (decide (g.status = .issuing) && s.draining g.cx) || canStart s g

/-- A group that could issue for more than 256 slots without being chosen: it is promoted until it issues. -/
def Group.promoted (g : Group) : Bool := decide (256 < g.waited)

/-- The class by which a group is chosen. -/
def Group.class (g : Group) : Nat := if g.promoted then 8 else g.prio

/-- Group `a` is chosen before group `b`: the higher class, then the older, then the lower number. -/
def chosenBefore (a b : Nat × Group) : Bool :=
  decide (b.2.class < a.2.class) || (decide (a.2.class = b.2.class) && decide (b.2.age < a.2.age))

def bestOf (l : List (Nat × Group)) : Option (Nat × Group) :=
  l.foldl (fun b e => match b with
    | none => some e
    | some x => if chosenBefore e x then some e else b) none

/-- Those that have not yielded, unless all have (R187). -/
def awake (l : List (Nat × Group)) : List (Nat × Group) :=
  let r := l.filter (fun e => !e.2.yielding)
  if r.isEmpty then l else r

/-- The chosen group starts its clause; those of its pipe that have yielded may be chosen again (R187). -/
def startPicked (id : Nat) (s : State) : State :=
  match s.group? id with
  | none => s
  | some g =>
    let s := startClause s id g
    { s with k := { s.k with groups := s.k.groups.map (fun e =>
      if e.2.core = g.core ∧ e.2.pipe = g.pipe then (e.1, { e.2 with yielding := false }) else e) } }

/-! Outriders (R156-R158). -/

/-- ARRIVAL_INTERRUPT of rein `n`: its oldest interrupt that waits for an outrider with room enters that queue, and the slot of its
packet, wherever it stands now, waits for it no more (R157, R384). -/
def execArrivalInterrupt (n : Nat) (s : State) : Out :=
  match s.k.outriders.find? (fun o => decide (o.2.irq.length < 64) && o.2.waiting.any (fun a => decide (a.rein = n))) with
  | none => .next s
  | some (c, o) =>
    match o.waiting.find? (fun a => decide (a.rein = n)) with
    | none => .next s
    | some a =>
      let o' : Outrider := { o with irq := o.irq ++ [a], waiting := o.waiting.erase a }
      let s := { s with k := { s.k with outriders := sset Outrider.idle s.k.outriders c o' } }
      let enter (x : Slot) : Slot := if x.st ≠ 0 && x.pkt = a.pkt then { x with irqOut := x.irqOut - 1 } else x
      let r := s.rein n
      .next (s.setRein n { r with slots := r.slots.map (fun e => (e.1, enter e.2)), saved := r.saved.map enter })

/-- The scalar registers of a run. -/
def arrivalRegs (a : Arrival) : Sparse Word :=
  [(0, a.rein), (1, a.slot), (2, a.comm), (3, a.entry), (4, a.value.toNat), (5, a.value.toNat / 2 ^ 32)].foldl
    (fun m e => sset 0 m e.1 (BitVec.ofNat 32 e.2)) []

/-- A run at the entry of its image, once the image's header has been read. -/
def enterImage (s : State) (g : Group) : Option Group :=
  let s := if g.afresh then { s with mem := { s.mem with tlb := [] } } else s
  (seqMem s g.cx g.img 128).map (fun h => { g with
    pc := bitsOf h 192 32, hoff := bitsOf h 256 32, codeEnd := 256 + 4 * bitsOf h 224 32 })

/-- The run of an arrival interrupt on outrider `c` (R157). -/
def newRun (s : State) (c : Nat) (a : Arrival) : Group :=
  { Group.blank with cx := a.cx, outrider := some c, core := 384 + c, img := (s.ctx a.cx).oimg, S := arrivalRegs a }

/-- OUTRIDER_RUN_START of outrider `c` while it has no run: a saved run goes on first (R158); else the oldest entry of an
active context is taken, and its run begins with an acquire, or parks for its image's header. -/
def execOutriderRunStart (c : Nat) (s : State) : Out :=
  let o := sget Outrider.idle s.k.outriders c
  if o.run.isSome then .next s
  else if (savedRun s c).isSome then .next (returnRun s c)
  else match o.irq.find? (fun a => s.active a.cx) with
    | none => .next s
    | some a =>
      let o := { o with irq := o.irq.erase a }
      if (s.ctx a.cx).oimg = 0 then
        .next { s with
          k := { s.k with outriders := sset Outrider.idle s.k.outriders c o }
          care := { s.care with discarded := min (s.care.discarded + 1) (2 ^ 32 - 1) } }
      else
        let (id, s) := s.take
        let o' : Outrider := { o with run := some id }
        let s := { s with k := { s.k with outriders := sset Outrider.idle s.k.outriders c o' } }
        let s := doAcquire s (384 + c) a.cx 4
        let g := newRun s c a
        match enterImage s g with
        | some g => .next (s.setGroup id g)
        | none => .next (parkFetch s id g true (match seqBytes s a.cx g.img 128 with
          | .error f => [(f, offOf g.img)]
          | .ok _ => []))

/-- A run whose image's header was not readable reads it again before its first clause. -/
def startRun (s : State) (id : Nat) (g : Group) : State :=
  if g.codeEnd ≠ 0 then startClause s id g
  else match enterImage s g with
    | some g => s.setGroup id g
    | none => parkFetch s id g true (match seqBytes s g.cx g.img 128 with
      | .error f => [(f, offOf g.img)]
      | .ok _ => [])

/-! The release of stalled words. -/

/-- The cause of a stall is gone, as far as it can be told without the word; the word is tried again (R172). -/
def stallOver (s : State) (id : Nat) (g : Group) : Stall → Bool
  | .flagFull f => decide (g.count f < 63)
  | .leave => hasLeave s (Config.dieOfCore g.core) id
  | .brandQuota => !allocStalls s g
  | .syncf m => g.clearOf m
  | .merge b => decide (b = 0)
  | .overflowed => false
  | .reports => !mustWaitReports s id g
  | .recall l b => !owned s l b
  | .storeRoom | .fence | .drain | .tile _ => true

/-- STALL_RELEASE of group `id`: its word is issued again; a BND.MRG whose brand is free completes (R306). -/
def execStallRelease (id : Nat) (s : State) : Out :=
  match s.group? id with
  | none => .next s
  | some g =>
    match g.status with
    | .stalled w =>
      if !g.saved && s.active g.cx && stallOver s id g w then
        .next (s.setGroup id (match w with
          | .merge _ => g.adv 1
          | _ => { g with status := .issuing }))
      else .next s
    | _ => .next s

/-! Completion. -/

/-- OPERATION_COMPLETE of operation `op`, if what it waits for is done; a retry that waits for the owner of a line is made
again (R271, R301). -/
def execOperationComplete (op : Nat) (s : State) : Out :=
  match s.op? op with
  | none => .next s
  | some o =>
    if !s.draining o.cx then .next s
    else if o.recalled then .next (if s.active o.cx && !opSaved s o then retryAny s op else s)
    else .next (match o.kind with
      | .load | .loadQ => completeLoad s op o
      | .loadU => completeLoadU s op o
      | .atom _ | .cas => completeAtomic s op o
      | .store => if decide (o.left = 0) && storesDone s op then finishOp s op o else s
      | .spill | .fill | .sfu => completeCaptured s op o
      | .fillRec => completeFillRec s op o
      | .probe => completeProbe s op o
      | .copy | .rekey | .gather | .raw => completeEngine s op o
      | .snap | .out => completeTile s op o
      | .sigAccess | .fetch | .signalWait | .brk => s)

/-- STORE_PERFORMED of write `st` (R274). -/
def execStorePerformed (st : Nat) (s : State) : Out :=
  match mget s.mem.stores st with
  | some w => if s.draining w.cx then .next (storePerformed s st) else .next s
  | none => .next s

/-- OWNERSHIP_GRANT and LINE_COMPLETE of line `ln` % 2²⁴ of engine operation `ln` / 2²⁴ (R278, R279). -/
def execOwnershipGrant (ln : Nat) (s : State) : Out := .next (grantEngine ln s)
def execLineComplete (ln : Nat) (s : State) : Out := .next (completeEngineLine ln s)

end Sys2Proof.Machine
end

