-- ==== Sys2Proof/Machine/Reset.lean ====
section
/-! DEFINITION. Resets and bring-up (R394, R395, R398, R400), and the die-memory split (R401). -/
namespace Sys2Proof.Machine

/-! Work of a unit (R394). -/

/-- Groups resident on a core, runs of outriders apart. -/
def coreGroups (s : State) (co : Nat) : List Group :=
  (s.k.groups.filter (fun g => decide (g.2.core = co) && g.2.outrider.isNone && !g.2.saved && decide (g.2.status ≠ .ended))).map (·.2)

/-- Outstanding engine operations of a core that satisfy `f`; those of saved groups are no work of it. -/
def coreOps (s : State) (co : Nat) (f : OpKind → Bool) : List LongOp :=
  (s.mem.ops.filter (fun o => decide (o.2.core = co) && f o.2.kind && !(s.group? o.2.gid).elim false (·.saved))).map (·.2)

/-- The contexts of tiles of a core. -/
def tileCtxs (s : State) (co : Nat) : List Nat :=
  (s.core co).tiles.flatMap (fun t => t.2.loops.map (·.cx) ++ (t.2.holder.bind s.group?).elim [] (fun g => [g.cx]))

def OpKind.isCopy : OpKind → Bool
  | .copy | .rekey | .raw => true
  | _ => false

/-- The contexts that hold work on a core. -/
def coreWork (s : State) (co : Nat) : List Nat :=
  (coreGroups s co).map (·.cx) ++ tileCtxs s co ++ (coreOps s co (fun k => k.isEngine || k.isTile)).map (·.cx)

/-- Contexts whose groups have continuations pending on a cluster, which its outrider stores (R168). -/
def contWork (s : State) (c : Nat) : List Nat :=
  (((clusterCores c).flatMap (coreGroups s)).filter (fun g => !g.conts.isEmpty || g.reenter.isSome)).map (·.cx)

/-- The contexts that hold work on an outrider: its run, the pending continuations it stores and its arrival interrupts, those
that wait for its queue among them; those of saved contexts are kept with them (R105, R158, notes/assumptions/131.md). -/
def outriderWork (s : State) (c : Nat) : List Nat :=
  let o := sget Outrider.idle s.k.outriders c
  (o.run.bind s.group?).elim [] (fun g => [g.cx]) ++ contWork s c ++
    ((o.irq ++ o.waiting).map (·.cx)).filter (fun x => decide ((s.ctx x).st ≠ 3))

def clusterWork (s : State) (c : Nat) : List Nat := (clusterCores c).flatMap (coreWork s) ++ outriderWork s c

/-- The contexts whose packets a command sequencer has in parse: at the head of a held queue. -/
def sequencerWork (s : State) (d : Nat) : List Nat :=
  (s.q.qs.filter (fun q => decide (q.2.die = d) && decide (q.2.st = 2) && s.draining q.2.cx)).map (·.2.cx)

/-- The contexts of a rein's loaded slots. -/
def reinWork (s : State) (n : Nat) : List Nat :=
  ((s.rein n).slots.filter (fun x => decide (x.2.st ≠ 0))).map (·.2.cx)

def dieClusters (d : Nat) : List Nat := (List.range 8).map (8 * d + ·)

/-- The contexts that hold work in the unit of a level, ascending; none for a level or index outside R395. -/
def unitWork (s : State) (lvl idx : Nat) : Option (List Nat) :=
  let ok (n : Nat) (l : List Nat) : Option (List Nat) :=
    if idx < n then some ((List.range Config.contexts).filter l.contains) else none
  match lvl with
  | 1 => ok 1 ((List.range Config.clusters).flatMap (clusterWork s) ++ (List.range 4).flatMap (sequencerWork s) ++
      (List.range Config.reins).flatMap (reinWork s))
  | 2 => ok 4 ((dieClusters idx).flatMap (clusterWork s) ++ sequencerWork s idx)
  | 3 => ok 32 (clusterWork s idx)
  | 4 => ok 384 (coreWork s idx)
  | 5 => ok 384 ((coreGroups s idx).map (·.cx))
  | 6 => ok 384 (tileCtxs s idx ++ (coreOps s idx OpKind.isTile).map (·.cx))
  | 7 => ok 384 ((coreOps s idx OpKind.isCopy).map (·.cx))
  | 8 => ok 384 ((coreOps s idx OpKind.isGather).map (·.cx))
  | 9 => ok 32 (outriderWork s idx)
  | 10 => ok 4 (sequencerWork s idx)
  | 11 => ok 32 (reinWork s idx)
  | 12 => ok 1 []
  | _ => none

/-- A PREEMPT of a context that is no more has ended (R99), with a result that no rule states. -/
def endPreempt (s : State) (c : Nat) : State :=
  if s.cx.busy && decide (s.cx.sel = c) then cxDone s (BitVec.ofNat 8 (Config.lostResult s.tick).val) else s

/-- Contexts destroyed by a forced reset, counted with the last of them (R394, R396). -/
def forceDestroy (s : State) (cs : List Nat) : State :=
  cs.foldl (fun s c =>
    let s := endPreempt (destroyContext s c) c
    { s with care := { s.care with destroyed := min (s.care.destroyed + 1) (2 ^ 32 - 1), lastDestroyed := c } }) s

/-! The effects (R395). -/

/-- The split every core takes at a reset: that of the configuration record. -/
def resetSplit (s : State) : Nat := s.care.conf.elim 0 (·.dsplit)

/-- Translations cached by engines are gone: the model keeps one list of them for the device (notes/assumptions/8.md). -/
def dropTlb (s : State) : State := { s with mem := { s.mem with tlb := [] } }

/-- Core `co`: pipes, engines and L1 cleared; scratchpad zeroed, block memory and spill stacks of no resident group. -/
def resetCore (s : State) (co : Nat) : State :=
  dropTlb ((l1Drop s (fun e => decide (e.core = co))).setCore co { Core.idle with split := resetSplit s })

/-- Outrider `c`: its registers, TQARB among them (R319), and its queue, but for what saved contexts keep there (R158). -/
def resetOutriderUnit (s : State) (c : Nat) : State :=
  let keep (l : List Arrival) : List Arrival := l.filter (fun a => decide ((s.ctx a.cx).st = 3))
  let o := sget Outrider.idle s.k.outriders c
  { s with k := { s.k with outriders := sset Outrider.idle s.k.outriders c { irq := keep o.irq, waiting := keep o.waiting, run := none } }
           care := { s.care with tqarb := sset 0x44 s.care.tqarb c 0x44 } }

/-- The barrier nodes of cluster `c` cleared. Blocks whose arrivals are still counted stand elsewhere or are saved: no work is left
on the cluster, and the arrivals stay counted (R105, R343). -/
def resetBarriers (s : State) (c : Nat) : State :=
  let here (n : BarNode) : Bool := match n.lv with
    | 0 => (s.block? n.id).elim true (fun b => !b.saved && (b.cores.head?).elim true (fun k => decide (Config.clusterOf k = c)))
    | 1 => decide (n.id % 32 = c) && (n.arr.isEmpty || (s.grid? (n.id / 32)).isNone)
    | _ => false
  { s with k := { s.k with bars := s.k.bars.filter (fun n => !here n) } }

def resetClusterUnit (s : State) (c : Nat) : State :=
  resetBarriers (resetOutriderUnit ((clusterCores c).foldl resetCore s) c) c

/-- Dirty host sectors of a die written back. -/
def writeBackDie (s : State) (d : Nat) : State :=
  let secs := (s.mem.dirtyCtx.map (·.1)).filter (fun x => decide (homeDie { sp := .host, a := 64 * x } = d))
  { s with mem := secs.foldl (fun m x => MemUnit.writeBack m x) s.mem }

/-- A line number of the presence masks belongs to a die. -/
def lineOfDie (n d : Nat) : Bool :=
  decide (homeDie (if n < 2 ^ 56 then { sp := .phys, a := n * 256 } else { sp := .host, a := n * 256 - 2 ^ 64 }) = d)

/-- Compute die `d`: L2 written back; die memory, directory, overlay map and its share of the brand table cleared. -/
def resetDieUnit (s : State) (d : Nat) : State :=
  let s := writeBackDie s d
  let s := { s with
    mem := { s.mem with
      share := s.mem.share.filter (fun e => decide (e.1 / 2 ^ 27 % 4 ≠ d) || !(s.ctx (e.1 / 2 ^ 29)).placedShare)
      dir := s.mem.dir.filter (fun l => decide (homeDie l.line ≠ d))
      presence := s.mem.presence.filter (fun e => !lineOfDie e.1 d) }
    br := { table := s.br.table.filter (fun e => decide (Config.brandDie e.1 ≠ d))
            cells := s.br.cells.filter (fun c => decide (homeDie c.line ≠ d)) } }
  (dieClusters d).foldl resetClusterUnit s

/-- A package reset (R6, R395): every field at its reset value. What stands in device, extended, host and flash memory
stays, as do the bundles of the patch banks that the management block keeps, the counts that only its own reset clears
(R396), and the inputs still to come. -/
def resetPackageUnit (s : State) : State :=
  let z := State.reset
  let t := { z with
    cycle := s.cycle, tick := s.tick, fresh := s.fresh, agenda := s.agenda
    mem := { z.mem with phys := s.mem.phys, host := s.mem.host, keyTag := s.mem.keyTag, tags := s.mem.tags }
    care := { z.care with
      flash := s.care.flash, marked := s.care.marked, active := s.care.marked, counter := s.care.counter
      keptA := s.care.keptA, keptB := s.care.keptB
      corrected := s.care.corrected, noCtxErrors := s.care.noCtxErrors, faultedCount := s.care.faultedCount
      destroyed := s.care.destroyed, lastDestroyed := s.care.lastDestroyed, discarded := s.care.discarded } }
  s.reins.foldl (fun t r => t.setRein r.1 { Rein.untrained with resends := r.2.resends }) t

/-- Vector pipes of a core: issue schedulers cleared. -/
def resetPipes (s : State) (co : Nat) : State := s.setCore co { (s.core co) with prev := [] }

/-- The matrix engine of a core: tiles freed and zeroed, its queues emptied. -/
def resetMatrix (s : State) (co : Nat) : State :=
  s.setCore co { (s.core co) with tiles := [], contended := 0, choice := none }

def resetCopy (s : State) (co : Nat) : State := dropTlb (s.setCore co { (s.core co) with copyQ := [] })
def resetGather (s : State) (co : Nat) : State := dropTlb (s.setCore co { (s.core co) with gathQ := [] })

/-- Command sequencer `d`: parse state cleared, the active bank in use (R402). -/
def resetSequencer (s : State) (d : Nat) : State :=
  { s with q := { s.q with
      last := sset 0 s.q.last d 0, bankUsed := sset 0 s.q.bankUsed d s.care.activeBank
      qs := s.q.qs.map (fun q => if q.2.die = d ∧ q.2.st = 2 then (q.1, { q.2 with st := 1, hold := none, phaseMet := false }) else q) } }

/-- The requests that a rein had sent for engines are lost: the operations ask again (R280, R354). -/
def reask (s : State) (who : Nat) : State :=
  match s.op? (who - 8) with
  | some o => if who < 8 then s else s.setOp (who - 8) { o with asked := o.asked - 1 }
  | none => s

/-- Rein `n`: buffers discarded, channels unbound, slots freed, those saved marked as lost, which abort when their context
resumes or at once where it has (R106); its link trains. Deferred writes that it carried are sent again (R288, R354). -/
def resetReinUnit (s : State) (n : Nat) : State :=
  let r := s.rein n
  let s := (r.msPend.map (·.1)).foldl reask s
  let s := s.setRein n { Rein.untrained with saved := r.saved.map (fun x => { x with lost := true }), resends := r.resends,
                                               msWait := (r.msPend ++ r.msWait).filter (fun e =>
                                                 (s.grid? (e.1 - 8)).isSome || (s.pkt? (e.1 - 8)).isSome) }
  ((r.saved.map (·.cx)).eraseDups.filter (s.active ·)).foldl abortLost s

/-- The management block: telemetry restarted, its counts cleared (R396). -/
def resetManagement (s : State) : State :=
  { s with
    reins := s.reins.map (fun r => (r.1, { r.2 with resends := 0 }))
    care := { s.care with
      corrected := [], noCtxErrors := 0, faultedCount := 0, destroyed := 0, lastDestroyed := 0, discarded := 0, fast := [], full := []
      sensorOut := none, spdmOut := none } }

/-- The effect of a level on its unit. -/
def resetEffect (s : State) (lvl idx : Nat) : State :=
  match lvl with
  | 1 => resetPackageUnit s
  | 2 => resetDieUnit s idx
  | 3 => resetClusterUnit s idx
  | 4 => resetCore s idx
  | 5 => resetPipes s idx
  | 6 => resetMatrix s idx
  | 7 => resetCopy s idx
  | 8 => resetGather s idx
  | 9 => resetOutriderUnit s idx
  | 10 => resetSequencer s idx
  | 11 => resetReinUnit s idx
  | 12 => resetManagement s
  | _ => s

/-- A reset command (R394): ignored while one is in progress; BAD_ARG, BUSY, or the reset, after a forced one has destroyed
the contexts that hold work in the unit. After a package reset the register holds its reset value. -/
def resetCommand (lvl idx : Nat) (force : Bool) (s : State) : State :=
  if s.care.rstBusy then s
  else
    let s := { s with care := { s.care with rstForce := force, rstLvl := lvl % 16, rstIdx := idx % 512 } }
    match unitWork s lvl idx with
    | none => { s with care := { s.care with rstRes := 0x01 } }
    | some cs =>
      if !cs.isEmpty && !force then { s with care := { s.care with rstRes := 0x02 } }
      else
        let s := resetEffect (forceDestroy s cs) lvl idx
        if lvl = 1 then s else { s with care := { s.care with rstBusy := true } }

def execResetPackage (idx : Nat) (force : Bool) (s : State) : Out := .next (resetCommand 1 idx force s)
def execResetDie (idx : Nat) (force : Bool) (s : State) : Out := .next (resetCommand 2 idx force s)
def execResetCluster (idx : Nat) (force : Bool) (s : State) : Out := .next (resetCommand 3 idx force s)
def execResetCore (idx : Nat) (force : Bool) (s : State) : Out := .next (resetCommand 4 idx force s)
def execResetVectorPipes (idx : Nat) (force : Bool) (s : State) : Out := .next (resetCommand 5 idx force s)
def execResetMatrixEngine (idx : Nat) (force : Bool) (s : State) : Out := .next (resetCommand 6 idx force s)
def execResetCopyEngine (idx : Nat) (force : Bool) (s : State) : Out := .next (resetCommand 7 idx force s)
def execResetGatherEngine (idx : Nat) (force : Bool) (s : State) : Out := .next (resetCommand 8 idx force s)
def execResetOutrider (idx : Nat) (force : Bool) (s : State) : Out := .next (resetCommand 9 idx force s)
def execResetCommandSequencer (idx : Nat) (force : Bool) (s : State) : Out := .next (resetCommand 10 idx force s)
def execResetRein (idx : Nat) (force : Bool) (s : State) : Out := .next (resetCommand 11 idx force s)
def execResetManagementBlock (idx : Nat) (force : Bool) (s : State) : Out := .next (resetCommand 12 idx force s)

/-- RESET_COMPLETE: the register is free again with OK; a rein's link is up. -/
def execResetComplete (s : State) : Out :=
  if s.care.rstBusy then
    let s := { s with care := { s.care with rstBusy := false, rstRes := 0x00 } }
    .next (if s.care.rstLvl = 11 then s.setRein s.care.rstIdx { (s.rein s.care.rstIdx) with link := 0 } else s)
  else .next s

/-- A write to RSTCTL (R394). -/
def rstctlWrite (s : State) (v : Word) : State :=
  let n := v.toNat
  let lvl := bitsOf n 24 4
  if s.care.rstBusy then s
  else if lvl = 0 then
    { s with care := { s.care with rstForce := v.getLsbD 30, rstLvl := 0, rstIdx := bitsOf n 0 9 } }
  else if bitsOf n 28 2 ≠ 0 || bitsOf n 9 7 ≠ 0 then
    { s with care := { s.care with rstForce := v.getLsbD 30, rstLvl := lvl, rstIdx := bitsOf n 0 9, rstRes := 0x01 } }
  else resetCommand lvl (bitsOf n 0 9) (v.getLsbD 30) s

/-! The die-memory split (R401). -/

/-- A kernel is resident on a die, or a context holds a share there. -/
def dieInUse (s : State) (d : Nat) : Bool :=
  s.k.groups.any (fun g => g.2.outrider.isNone && !g.2.saved && decide (g.2.status ≠ .ended) && decide (Config.dieOfCore g.2.core = d)) ||
    s.cx.ctxs.any (fun x => x.2.placedShare && decide (x.2.dsh ≠ 0))

/-- A write to DMSPLIT; its reserved bits are ignored (R7). -/
def dmsplitWrite (s : State) (v : Word) : State :=
  let n := v.toNat
  let d := bitsOf n 26 2
  let u := bitsOf n 0 4
  if s.care.dmBusy then s
  else
    let s := { s with care := { s.care with dmDie := d, dmL2u := u } }
    if u < 2 || 8 < u then
      { s with care := { s.care with dmRes := 0x01 } }
    else if dieInUse s d then { s with care := { s.care with dmRes := 0x02 } }
    else
      let s := writeBackDie s d
      { s with care := { s.care with dmBusy := true } }

def execDmsplitWrite (v : Word) (s : State) : Out := .next (dmsplitWrite s v)

/-- DMSPLIT_COMPLETE: the split takes effect, whatever has come to the die since the write was accepted (DEDUCED,
notes/assumptions/138.md). -/
def execDmsplitComplete (s : State) : Out :=
  if s.care.dmBusy then
    .next { s with care := { s.care with
      dmBusy := false, dmRes := 0x00, l2u := sset 6 s.care.l2u s.care.dmDie s.care.dmL2u } }
  else .next s

/-! Configuration records and bring-up (R398, R400). -/

/-- A record's body as its fields, where it is valid but for its signatures, against a monotonic counter (R398). -/
def readConfig (counter : Nat) (b : BitVec 2048) : Option ConfigRec :=
  let n := b.toNat
  let c : ConfigRec :=
    { svn := bitsOf n 80 32, devno := bitsOf n 70 10, l2u := bitsOf n 64 4, lvnear := bitsOf n 56 8, lvmax := bitsOf n 48 8
      bank := bitsOf n 44 2, plim := bitsOf n 32 12, dsplit := bitsOf n 112 3 }
  if bitsOf n 0 16 = 0xCA3E && decide (bitsOf n 16 16 = 1) && zeroBits n [(115, 1933), (68, 2), (46, 2)] &&
      decide (2 ≤ c.l2u) && decide (c.l2u ≤ 8) && decide (1 ≤ c.lvmax) && decide (c.lvmax ≤ 96) && decide (1 ≤ c.lvnear) &&
      decide (c.lvnear ≤ c.lvmax) && decide (c.bank ≤ 2) && decide (100 ≤ c.plim) && decide (c.plim ≤ 2600) &&
      decide (c.dsplit ≤ 4) && decide (counter ≤ c.svn) then some c else none

def flashRecord (s : State) (i : Nat) : Option ConfigRec := readConfig s.care.counter (sget 0 s.care.flash i)

/-- What the five indices of R397 measure; the fixed functions are the management block's own. -/
def measured (s : State) (i : Nat) : List (BitVec 128) :=
  let bank (b : Nat) : List (BitVec 128) := if b = 1 then s.care.keptA else if b = 2 then s.care.keptB else []
  match i with
  | 1 => (List.range 4096).map (fun a => (Config.controlStore a).setWidth 128)
  | 2 => bank s.care.activeBank
  | 3 => bank (if s.care.activeBank = 1 then 2 else 1)
  | 4 => (List.range 16).map (fun k => (sget 0 s.care.flash s.care.active).extractLsb' (128 * k) 128)
  | _ => []

/-- The measurements are taken (R397, R400): at bring-up, and when an update changes what they measure
(notes/assumptions/42.md). -/
def takeMeasures (s : State) : State :=
  { s with care := { s.care with measures := (List.range 5).map (fun i => Config.measure (i + 1) (measured s (i + 1))) } }

/-- BRING_UP after a package reset: the record marked active, or the other, is the one in force; measurements are taken, the
record is applied, its patch bank is loaded and activated, and reins and the host port train. With neither valid the host
port does not train. -/
def execBringUp (s : State) : Out :=
  let m := s.care.marked
  if s.care.up then .next s
  else match ((flashRecord s m).map (m, ·)).or ((flashRecord s (1 - m)).map (1 - m, ·)) with
    | none => .next (takeMeasures { s with care := { s.care with activeBank := 0 } })
    | some (n, c) =>
      let s := takeMeasures { s with care := { s.care with active := n, activeBank := c.bank } }
      let s := { s with
        care := { s.care with conf := some c, up := true
                              bankA := if c.bank = 1 then s.care.keptA else s.care.bankA
                              bankB := if c.bank = 2 then s.care.keptB else s.care.bankB
                              l2u := (List.range 4).foldl (fun m d => sset 6 m d c.l2u) s.care.l2u }
        q := { s.q with bankUsed := (List.range 4).foldl (fun m d => sset 0 m d c.bank) s.q.bankUsed } }
      let s := (List.range Config.cores).foldl (fun s k => s.setCore k { (s.core k) with split := c.dsplit }) s
      .next ((List.range Config.reins).foldl (fun s n => s.setRein n { (s.rein n) with link := 0 }) s)

end Sys2Proof.Machine
end

