-- ==== Sys2Proof/Machine/Care.lean ====
section
/-! DEFINITION. Power (R392), telemetry, measurement and update (R396-R399), the registers of the host port's BAR, and the
accesses of the host to memory (R120). -/
namespace Sys2Proof.Machine

/-! The power limiter (R392). -/

/-- The limit in milliwatts. -/
def powerLimit (s : State) : Nat := 1000 * min 2600 (s.care.conf.elim 2600 (·.plim))

/-- The withholding after a window of `n` samples that sum to `sum`. -/
def withholdNext (w limit n sum : Nat) : Nat :=
  if limit * n < sum then min 15 (w + 1) else if 100 * sum < 97 * limit * n then w - 1 else w

/-- A window of 10 samples ends once it has them; an activated record's limits govern the next (R399, R402). -/
def closeWindow (s : State) : State :=
  if s.care.samples < 10 then s
  else
    let conf := match s.care.pending with
      | some p => some (s.care.conf.elim p (fun c => { p with l2u := c.l2u, devno := c.devno }))
      | none => s.care.conf
    { s with care := { s.care with
      withhold := withholdNext s.care.withhold (powerLimit s) s.care.samples s.care.powerSum
      powerSum := 0, samples := 0, conf := conf, pending := none } }

/-- LIMITER_WINDOW: the end of a window. -/
def execLimiterWindow (s : State) : Out := .next (closeWindow s)

/-- POWER_SAMPLE: package power in milliwatts, and that of each die; a window that has its 10 samples ends before the next
sample. 100 samples are the 100 µs of R391. -/
def execPowerSample (mw : Nat) (dies : List Nat) (s : State) : Out :=
  let s := closeWindow s
  .next { s with care := { s.care with
    powerSum := s.care.powerSum + mw, samples := s.care.samples + 1, lastPower := mw :: dies
    sinceWithheld := if 0 < s.care.withhold then 100 else s.care.sinceWithheld - 1 } }

/-! Telemetry (R396). -/

def sumLengths (m : Sparse (List Nat)) : Nat := (m.map (fun e => e.2.length)).foldl (· + ·) 0

/-- The fast sensors; powers in 0.1 W from milliwatts. -/
def fastSensors (s : State) (temp : Nat) : List (Nat × Nat) :=
  (List.range 5).map (fun i => (i + 1, s.care.lastPower.getD i 0 / 100)) ++
    [(0x0006, s.care.withhold), (0x0007, temp), (0x0008, sumLengths s.care.asking)]

/-- The full record: the fast sensors, then its own. -/
def fullSensors (s : State) (temp : Nat) (hbm : List Nat) : List (Nat × Nat) :=
  fastSensors s temp ++ (List.range 12).map (fun i => (0x0010 + i, hbm.getD i 0)) ++
    (List.range 32).map (fun n => (0x0020 + n, (s.rein n).link)) ++
    (List.range 32).map (fun n => (0x0040 + n, (s.rein n).resends)) ++
    [(0x0060, sget 0 s.care.corrected 0), (0x0061, sget 0 s.care.corrected 1), (0x0062, s.care.noCtxErrors),
      (0x0063, s.care.faultedCount), (0x0064, s.care.destroyed * 1024 + s.care.lastDestroyed), (0x0065, s.br.table.length),
      (0x0066, s.care.activeBank), (0x0067, s.care.conf.elim 0 (·.svn)), (0x0068, s.care.discarded)]

/-- TELEMETRY_FAST_RECORD; the temperature, in 0.1 °C, is an input. -/
def execTelemetryFastRecord (temp : Nat) (s : State) : Out :=
  .next { s with care := { s.care with fast := fastSensors s temp } }

def execTelemetryFullRecord (temp : Nat) (hbm : List Nat) (s : State) : Out :=
  .next { s with care := { s.care with full := fullSensors s temp hbm } }

/-- SENSOR_READ: the value last sampled; an identifier that is not listed does not exist. -/
def execSensorRead (id : Nat) (s : State) : Out :=
  let all := (if id ≤ 8 then s.care.fast else []) ++ s.care.full
  .next { s with care := { s.care with sensorOut := all.find? (fun e => decide (e.1 = id)) } }

/-- CORRECTED_ERROR in device or (`ext`) extended memory. -/
def execCorrectedError (ext : Bool) (s : State) : Out :=
  .next { s with care := { s.care with
    corrected := supd 0 s.care.corrected (if ext then 1 else 0) (fun n => min (n + 1) (2 ^ 32 - 1)) } }

/-! Measurement (R397). -/

/-- SPDM_MEASUREMENTS under certificate slot 0 or 1: the SHA-384 digest of an index, as three words; no answer for another
index, or before measurements have been taken. -/
def execSpdmMeasurements (slot index : Nat) (s : State) : Out :=
  let out := if slot ≤ 1 && decide (1 ≤ index) then
    (s.care.measures[index - 1]?).map (fun d => (slot, index, (List.range 3).map (fun k => d.extractLsb' (128 * k) 128)))
    else none
  .next { s with care := { s.care with spdmOut := out } }

/-! Update (R129, R130, R399). -/

/-- A patch bundle that passes R129. -/
def bundleOk (b : List (BitVec 128)) : Bool :=
  let as_ := (b.filter (fun e => e.getLsbD 108)).map (fun e => e.extractLsb' 96 12)
  decide (b.length ≤ 256) && decide as_.Nodup

/-- FIRMWARE_TRANSFER: both components verify, and the inactive bank and flash record are written; or nothing is. -/
def execFirmwareTransfer (up : Update) (s : State) : Out :=
  let okB := up.bundle.elim true (fun b => up.bundleSigned && bundleOk b)
  let okR := up.record.elim true (fun r => up.recordSigned && (readConfig s.care.counter r).isSome)
  if !okB || !okR then .next s
  else
    let c := s.care
    let c := match up.bundle with
      | some b => if c.activeBank = 1 then { c with bankB := b, keptB := b } else { c with bankA := b, keptA := b }
      | none => c
    let c := match up.record with
      | some r => { c with flash := sset 0 c.flash (1 - c.active) r }
      | none => c
    .next (takeMeasures { s with care := c })

/-- ACTIVATE_FIRMWARE: the other record, if valid, is marked active and raises the counter; its bank takes effect at packet
boundaries, its limits at the next limiter window (R130, R399). -/
def execActivateFirmware (s : State) : Out :=
  let n := 1 - s.care.active
  match flashRecord s n with
  | none => .next s
  | some c =>
    let s := { s with care := { s.care with marked := n, active := n, counter := max s.care.counter c.svn } }
    .next (if s.care.up then takeMeasures { s with care := { s.care with pending := some c, activeBank := c.bank } } else s)

/-! The registers of the BAR. -/

def outState (o : Out) (s : State) : State :=
  match o with
  | .next t => t
  | .fault _ | .refused _ => s

/-- A write to SLCTL of a slot (R362). -/
def slctlWrite (s : State) (n sl : Nat) (v : Word) : State :=
  let s := outState (execSlotStep n sl (v.getLsbD 2) s) s
  let s := if v.getLsbD 1 then outState (execSlotAbort n sl s) s else s
  if v.getLsbD 0 then outState (execSlotGo n sl s) s else s

/-- A register of the context block (R98). -/
def contextReg (s : State) (o : Nat) (v : Word64) : State :=
  let w := v.setWidth 32
  if o = 0x00 then cxselWrite s w
  else if o = 0x04 then cxcmdWrite s w
  else if o = 0x10 then cxdescWrite s v
  else if 0x40 ≤ o ∧ o ≤ 0x7C ∧ o % 4 = 0 then cxkeyWrite s ((o - 0x40) / 4) w
  else s

/-- A register of queue `q` (R110). -/
def queueReg (s : State) (q o : Nat) (v : Word64) : State :=
  let w := v.setWidth 32
  match o with
  | 0x00 => qbaseWrite s q v
  | 0x08 => qcfgWrite s q w
  | 0x0C => qtailWrite s q w
  | 0x18 => cbaseWrite s q v
  | 0x20 => ccfgWrite s q w
  | 0x24 => cheadWrite s q w
  | _ => s

/-- A register of the fault queue (R256). -/
def faultReg (s : State) (o : Nat) (v : Word64) : State :=
  match o with
  | 0x00 => if s.fq.en then s else { s with fq := { s.fq with base := v &&& ~~~0x1F#64 } }
  | 0x08 => fqcfgWrite s (v.setWidth 32)
  | 0x10 => { s with fq := { s.fq with head := v.setWidth 32 } }
  | _ => s

/-- A register of a slot (R362). -/
def slotReg (s : State) (n sl o : Nat) (v : Word64) : State :=
  match o with
  | 0x00 => slctlWrite s n sl (v.setWidth 32)
  | 0x08 => s.setRein n { (s.rein n) with selIdx := sset 0 (s.rein n).selIdx sl (bitsOf v.toNat 0 6) }
  | 0x10 => outState (execSlgdatWrite n sl v s) s
  | _ => s

/-- TRBASE or TRLIM (R248): ignored while any context is not free. -/
def regionReg (s : State) (lim : Bool) (v : Word64) : State :=
  let v := v &&& ~~~0xFFFF#64
  if s.cx.ctxs.any (fun c => decide (c.2.st ≠ 0)) then s
  else { s with care := if lim then { s.care with trlim := v } else { s.care with trbase := v } }

/-- A write of `v` to the register at offset `off`; a register that is read-only or not there ignores it (R5, R7). -/
def registerWrite (s : State) (off : Nat) (v : Word64) : State :=
  if 0x100000 ≤ off ∧ off < 0x100080 then contextReg s (off - 0x100000) v
  else if 0x200000 ≤ off ∧ off < 0x204000 then queueReg s ((off - 0x200000) / 64) (off % 64) v
  else if 0x300000 ≤ off ∧ off < 0x300014 then faultReg s (off - 0x300000) v
  else if 0x400000 ≤ off ∧ off < 0x400200 then
    if off % 16 = 0 then tqarbWrite s ((off - 0x400000) / 16) (v.setWidth 32) else s
  else if 0x500000 ≤ off ∧ off < 0x520000 then
    if off % 0x1000 < 0x400 then slotReg s ((off - 0x500000) / 0x1000) (off % 0x1000 / 0x80) (off % 0x80) v else s
  else if off = 0x600000 then rstctlWrite s (v.setWidth 32)
  else if off = 0x600010 then dmsplitWrite s (v.setWidth 32)
  else if off = 0x600020 then regionReg s false v
  else if off = 0x600028 then regionReg s true v
  else s

def execRegisterWrite (off : Nat) (v : Word64) (s : State) : Out := .next (registerWrite s off v)

/-! What the registers read as (R5, R7): a field that is write-only or reserved reads 0, and so does what is not there. -/

def contextRead (s : State) (o : Nat) : Nat :=
  match o with
  | 0x00 => s.cx.sel
  | 0x08 => s.cxstat.toNat
  | 0x0C => s.cx.need.toNat
  | 0x10 => s.cx.desc.toNat
  | _ => 0

def queueRead (s : State) (n o : Nat) : Nat :=
  let q := s.queue n
  match o with
  | 0x00 => q.base.toNat
  | 0x08 => (if q.en then 2 ^ 31 else 0) + q.cls % 8 * 2 ^ 28 + q.die % 4 * 2 ^ 26 + q.cx % 1024 * 2 ^ 16 + q.lg % 32
  | 0x0C => q.tail.toNat
  | 0x10 => q.head.toNat
  | 0x14 => q.st % 4 * 2 ^ 30 + q.halt.toNat
  | 0x18 => q.cbase.toNat
  | 0x20 => q.clg % 32
  | 0x24 => q.chead.toNat
  | 0x28 => q.ctail.toNat
  | _ => 0

def faultRead (s : State) (o : Nat) : Nat :=
  match o with
  | 0x00 => s.fq.base.toNat
  | 0x08 => (if s.fq.en then 2 ^ 31 else 0) + s.fq.iv % 2 ^ 11 * 2 ^ 16 + s.fq.lg % 32
  | 0x0C => s.fq.tail.toNat
  | 0x10 => s.fq.head.toNat
  | _ => 0

/-- SLCTL, SLSTAT, SLGSEL and SLGDAT of a slot (R362). -/
def slotRead (s : State) (n sl o : Nat) : Nat :=
  let x := s.slot n sl
  let i := sget 0 (s.rein n).selIdx sl
  match o with
  | 0x00 => if x.step then 4 else 0
  | 0x04 => x.st % 16 * 2 ^ 28 + x.cause.toNat * 2 ^ 20 + x.flags.toNat * 2 ^ 15 + x.pc % 2 ^ 11
  | 0x08 => i
  | 0x10 => if i < 32 then (sget 0 x.G i).toNat else if i < 48 then (sget 0 x.chan (i - 32)).toNat else 0
  | _ => 0

/-- RSTCTL and DMSPLIT (R394, R401), TRBASE and TRLIM (R248). -/
def careRead (s : State) (off : Nat) : Nat :=
  let c := s.care
  if off = 0x600000 then
    (if c.rstBusy then 2 ^ 31 else 0) + (if c.rstForce then 2 ^ 30 else 0) + c.rstLvl % 16 * 2 ^ 24 + c.rstRes.toNat * 2 ^ 16 +
      c.rstIdx % 512
  else if off = 0x600010 then
    (if c.dmBusy then 2 ^ 31 else 0) + c.dmDie % 4 * 2 ^ 26 + c.dmRes.toNat * 2 ^ 16 + c.dmL2u % 16
  else if off = 0x600020 then c.trbase.toNat
  else if off = 0x600028 then c.trlim.toNat
  else 0

/-- What a read of the register at offset `off` returns. -/
def registerRead (s : State) (off : Nat) : Nat :=
  if 0x100000 ≤ off ∧ off < 0x100080 then contextRead s (off - 0x100000)
  else if 0x200000 ≤ off ∧ off < 0x204000 then queueRead s ((off - 0x200000) / 64) (off % 64)
  else if 0x300000 ≤ off ∧ off < 0x300014 then faultRead s (off - 0x300000)
  else if 0x400000 ≤ off ∧ off < 0x400200 then
    if off % 16 = 0 then (tqarbOf s ((off - 0x400000) / 16) ||| (if (tqarbOf s ((off - 0x400000) / 16)).extractLsb' 0 4 = 0 then 1 else 0)).toNat
    else 0
  else if 0x500000 ≤ off ∧ off < 0x520000 then
    if off % 0x1000 < 0x400 then slotRead s ((off - 0x500000) / 0x1000) (off % 0x1000 / 0x80) (off % 0x80) else 0
  else careRead s off

/-! Accesses of the host (R120). -/

/-- The key under which the host port reads and writes device and extended memory (notes/assumptions/6.md). -/
def hostKey (s : State) : Option Nat → Nat
  | some c => (s.ctx c).key
  | none => plainKey

/-- Every byte of a range is backed. -/
def rangeBacked (a n : Nat) : Bool := (List.range n).all (fun i => backed (a + i))

/-- Dirty host lines that have been evicted are in host memory when the host reads (R267, notes/assumptions/18.md). -/
def evictHost (s : State) (a n : Nat) : State :=
  (((List.range n).map (fun i => (a + i) / 64)).eraseDups).foldl (fun s x =>
    let (k, s) := s.draw
    if Config.evicted k then { s with mem := s.mem.writeBack x } else s) s

/-- HOST_PORT_ACCESS: the host reads or writes host memory, or backed device and extended memory, or reads a register; what
it writes is no record move, so the tags of the granules clear (R226). -/
def execHostPortAccess (h : HostAccess) (s : State) : Out :=
  match h with
  | .writeHost a bs =>
    .next (wakeWaits (bs.zipIdx.foldl (fun s e =>
      setTag { s with mem := { s.mem with host := Memory.put s.mem.host (a + e.2) e.1 } } { sp := .host, a := a + e.2 } false) s)
      ((List.range bs.length).map (fun i => { sp := .host, a := a + i })))
  | .readHost a n =>
    let s := evictHost s a n
    .next { s with care := { s.care with hostRead := Memory.bytes s.mem.host a n } }
  | .writeDev c a bs =>
    if rangeBacked a bs.length then
      .next (wakeWaits (bs.zipIdx.foldl (fun s e =>
        setTag { s with mem := s.mem.putPhys (hostKey s c) (a + e.2) e.1 } { sp := .phys, a := a + e.2 } false) s)
        ((List.range bs.length).map (fun i => { sp := .phys, a := a + i })))
    else .fault .unbackedAddress
  | .readDev c a n =>
    if rangeBacked a n then
      .next { s with care := { s.care with hostRead := (List.range n).map (fun i => s.mem.physByte (hostKey s c) (a + i)) } }
    else .fault .unbackedAddress
  | .readReg off => .next { s with care := { s.care with hostRead := bytesOfNat 8 (registerRead s off) } }

end Sys2Proof.Machine
end

