-- ==== Sys2Proof/Machine/Schedule.lean ====
section
/-! DEFINITION. What the agent of a turn does: the word a group fetches and issues (R78, R170, R172, R260), the next word of a
rein's sequencer (R366), and the events of the table that the host makes through its port (R120, R400). -/
namespace Sys2Proof.Machine

/-! The word at a group's program counter. -/

/-- The word a group would issue: its pages do not translate (`parked`), it raises a cause of R78 (`bad`), or an
instruction. -/
inductive Fetched where
  | parked (fs : List (PageFault × Nat))
  | bad (c : Cause)
  | word (i : Instr)
  deriving DecidableEq, Repr

/-- An instruction that a group may not execute by its first word: a run of an outrider has no lanes and executes only the
words of R156, and a group's SPAWN takes its payload from named registers (R150). -/
def barred (g : Group) : Instr → Bool
  | .spawn _ t _ _ => g.outrider.isNone && decide (t < 0x10)
  | i => g.outrider.isSome && !outriderWord i

/-- The instruction that words form for a group; ILLEGAL_ENCODING comes before ILLEGAL_CLAUSE (R79). -/
def readWords (g : Group) (ws : List Word) : Fetched :=
  match decodeClause ws with
  | .error .encoding => .bad cIllegalEncoding
  | .error .clause => .bad (if (decodeSimt (ws.headD 0) 0).elim false (barred g) then cIllegalEncoding else cIllegalClause)
  | .ok i => if barred g i then .bad cIllegalEncoding else .word i

def fetchWord (s : State) (g : Group) : Fetched :=
  match codeWords s g g.pc 1 with
  | .error fs => .parked fs
  | .ok ws =>
    let w := ws.headD 0
    if wordsLeft g w = 1 then readWords g [w]
    else match codeWords s g g.pc 2 with
      | .error fs => .parked fs
      | .ok ws => readWords g ws

/-! The choice of a pipe (R170). -/

/-- The group as it stands at its next word: at a boundary, within the clause that begins there. -/
def atNextWord (s : State) (g : Group) : Option Group :=
  if g.status = .issuing then some g
  else match headerAt s g with
    | some (some h) => some (g.openClause h)
    | _ => none

/-- The next word of a group needs leave (R170): an MLOOP, an MGROW that would start a continuation, a large XGATH. -/
def nextNeedsLeave (s : State) (g : Group) : Bool :=
  match atNextWord s g with
  | none => false
  | some g =>
    match fetchWord s g with
    | .word (.mloop ..) => true
    | .word (.mgrow z _) =>
      let t := s.tile g.core z.toNat
      t.last.elim false (fun l => !t.loops.any (fun q => decide (q.id = l.id)))
    | .word (.xgath w) =>
      let op := { LongOp.blank with kind := .gather, rec1 := g.rdK w.k, rec2 := g.rdK (recSrc w)
                                    rows := g.activeReal.map (fun l => (l, (g.src w.index 0 l).toNat)) }
      op.needsLeave
    | _ => false

/-- The groups among which a pipe chooses: near its die's budget those that need no leave, if there are any. -/
def candidates (s : State) (co p : Nat) : List (Nat × Group) :=
  let l := (pipeGroups s co p).filter (fun e => canIssue s e.2)
  if nearBudget s (Config.dieOfCore co) then
    let r := l.filter (fun e => !nextNeedsLeave s e.2)
    if r.isEmpty then l else r
  else l

/-- The group a pipe takes: the one that issued in the slot before while it is within its clause, else the best. -/
def chosen (s : State) (co p : Nat) : Option (Nat × Group) :=
  let l := candidates s co p
  match l.find? (fun e => decide (e.2.status = .issuing) && decide (sget 0 (s.core co).prev p = e.1 + 1)) with
  | some e => some e
  | none => bestOf (awake l)

/-- A group after a slot of pipe `p` of core `co` for which `who` is chosen: its age grows until it issues (`noteIssue`), and so
does the time it has been able to issue without being chosen; once promoted it stays so until it issues (R170). -/
def slotOf (s : State) (co p : Nat) (who : Option Nat) (id : Nat) (g : Group) : Group :=
  if g.core = co ∧ g.pipe = p ∧ g.outrider = none then
    { g with
      age := g.age + 1
      waited := if g.promoted then g.waited else if who ≠ some id ∧ canIssue s g then g.waited + 1 else 0 }
  else g

/-- One slot of a pipe passes; no group has issued in it yet. -/
def passSlot (s : State) (co p : Nat) (who : Option Nat) : State :=
  let k : KUnit := { s.k with groups := s.k.groups.map (fun e => (e.1, slotOf s co p who e.1 e.2)) }
  let s := { s with k := k }
  let c := s.core co
  s.setCore co { c with prev := sset 0 c.prev p 0 }

/-- A word of group `id` has issued, unless it stalled (R172): the group's age is 0, it is promoted no more, and its pipe goes on
with it in the next slot (R170). -/
def noteIssue (s : State) (id : Nat) : State :=
  match s.group? id with
  | none => s
  | some g =>
    match g.status with
    | .stalled _ => s
    | _ =>
      if g.outrider.isSome then s
      else
        let s := s.setGroup id { g with age := 0, waited := 0 }
        let c := s.core g.core
        s.setCore g.core { c with prev := sset 0 c.prev g.pipe (id + 1) }

/-- CLAUSE_START: the group that its pipe chooses starts its clause, if it stands at a boundary. The turn of a pipe (`pipeTurn`)
does so by itself; the row issues no word. -/
def execClauseStart (co p : Nat) (s : State) : Out :=
  match chosen s co p with
  | none => .next s
  | some (id, g) => .next (if g.status = .boundary then startPicked id s else s)

/-! Turns. -/

/-- What a turn comes to: nothing more, a row of the table (OUTRIDER_RUN_START and WRITE_PROTECT_REPORT have entries of their
own), or an instruction that group `id` issues. -/
inductive Act where
  | rest
  | row (i : Instr)
  | start (c : Nat)
  | report (id : Nat)
  | word (id : Nat) (i : Instr)
  deriving DecidableEq, Repr

/-- A record waits to be reported at the word the group is about to issue (R260). -/
def Group.reportDue (g : Group) : Bool := !g.sfq.isEmpty && !g.ih

/-- The state after an instruction of group `id` whose report was due: the report comes first unless the word itself
raised a trapping cause (R260). -/
def reportFirst (s t : State) (id : Nat) : Bool :=
  match s.group? id with
  | some g => g.reportDue && decide ((t.group? id).elim g.traps (·.traps) = g.traps)
  | none => false

/-- The state `s` before a word of group `id`, `t` after it: a word that raises a trapping cause does so; else a record
due is reported in its place (R260), and with a store 32 instructions back still untested the word stalls (R260, R173). -/
def afterWord (s t : State) (id : Nat) : Out :=
  match s.group? id with
  | some g =>
    if reportFirst s t id then execWriteProtectReport id s
    else if mustWaitReports s id g && decide ((t.group? id).elim g.traps (·.traps) = g.traps) then
      .next (s.setGroup id (g.stall .reports))
    else .next (noteIssue t id)
  | none => .next t

/-- The word of a group within a clause: a report of R260 precedes a page that does not translate. -/
def issueTurn (s : State) (id : Nat) (g : Group) : State × Act :=
  let s := { s with cur := id }
  match parkDue s id g with
  | some s => (s, .rest)
  | none =>
  match fetchWord s g with
  | .bad c => (noteIssue (takeTrap s id { g with afresh := false } { cause := c }) id, .rest)
  | .parked fs => if g.reportDue then (s, .report id) else (parkFetch s id g false fs, .rest)
  | .word i =>
    let t := noteTlb s g.cx (codeChunks s g g.pc (encode i).length).good
    (if g.afresh then t.setGroup id { g with afresh := false } else t, .word id i)

/-- A slot of pipe `p` of core `co`: one that the power limiter withholds issues no word (R392). A group chosen at a boundary
starts its clause and issues the first word in the same slot (R172). -/
def pipeTurn (s : State) (co p : Nat) : State × Act :=
  let idle := withheld s co p
  let s := countSlot s co p
  if idle then (passSlot s co p none, .rest)
  else match chosen s co p with
  | none => (passSlot s co p none, .rest)
  | some (id, g) =>
    let s := passSlot s co p (some id)
    let s := if g.status = .boundary then startPicked id s else s
    match s.group? id with
    | some g => if g.status = .issuing then issueTurn s id g else (s, .rest)
    | none => (s, .rest)

/-- A slot of outrider `c` (R156): its run goes on, or one starts. -/
def outriderTurn (s : State) (c : Nat) : State × Act :=
  match (sget Outrider.idle s.k.outriders c).run with
  | none => (s, .start c)
  | some id =>
    match s.group? id with
    | none => (s, .rest)
    | some g =>
      if g.saved then (s, .rest)
      else if g.status = .issuing && s.draining g.cx then issueTurn s id g
      else if g.status = .boundary && s.active g.cx && waitClear s g then (startRun s id g, .rest)
      else (s, .rest)

/-- What the sequencer of rein `n` does by itself (R366, R379). -/
def reinTurn (s : State) (n : Nat) : State × Act :=
  match reinNext s n with
  | none => (s, .rest)
  | some (sl, w) =>
    let s := reinFocus s n sl
    match w with
    | some i => (s, .row i)
    | none => (stopSlot s n sl cReinIllegal 0 0 0, .rest)

/-- Rows that the host makes through its port, which trains last in bring-up (R400). -/
def hostRow : Instr → Bool
  | .create | .key | .preempt | .resume | .destroy | .pool | .quota | .registerWrite .. | .qtailWrite .. | .queueEnable ..
  | .queueDisable .. | .cheadWrite .. | .faultQueueEnable .. | .faultQueueDisable .. | .fqheadWrite .. | .tqarbWrite ..
  | .dmsplitWrite .. | .slotAbort .. | .slotGo .. | .slotStep .. | .slgdatWrite .. | .hostPortAccess .. => true
  | _ => false

/-- Rows that an agent executes as words: they are no events (R69, R378). -/
def wordRow (i : Instr) : Bool := !(encode i).isEmpty

/-- What the turn comes to, with the state in which it is done. An event that names a word of a program, or one of the
host before its port has trained, is nothing. -/
def act (t : Turn) (s : State) : State × Act :=
  match t with
  | .pipe co p => pipeTurn s co p
  | .outrider c => outriderTurn s c
  | .rein n => reinTurn s n
  | .event i => if wordRow i || (hostRow i && !s.care.up) then (s, .rest) else (s, .row i)

/-- The turn that comes next, and the clock: the agenda's head, or with an empty agenda whichever agent the device lets
act (notes/assumptions/1.md). -/
def nextTurn (s : State) : Turn × State :=
  match s.agenda with
  | t :: r => (t, { s with agenda := r, cycle := s.cycle + 1, tick := s.tick + 1 })
  | [] => (Config.freeTurn s.tick, { s with cycle := s.cycle + 1, tick := s.tick + 1 })

end Sys2Proof.Machine
end

