-- ==== Sys2Proof/Machine/Dispatch.lean ====
section
/-! DEFINITION. The meaning of every row of the opcode table: one arm, one direct call. -/
namespace Sys2Proof.Machine

/-- What each instruction or event does to the machine. -/
def exec (i : Instr) (s : State) : Host.Outcome State Fault Refusal :=
  match i with
  | .smov d b lit => Sys2Proof.Machine.execSmov d b lit s
  | .sadd d a b lit => Sys2Proof.Machine.execSadd d a b lit s
  | .ssub d a b lit => Sys2Proof.Machine.execSsub d a b lit s
  | .smul d a b lit => Sys2Proof.Machine.execSmul d a b lit s
  | .smulh d a b lit => Sys2Proof.Machine.execSmulh d a b lit s
  | .smulhu d a b lit => Sys2Proof.Machine.execSmulhu d a b lit s
  | .sdivu d a b lit => Sys2Proof.Machine.execSdivu d a b lit s
  | .sremu d a b lit => Sys2Proof.Machine.execSremu d a b lit s
  | .sand d a b lit => Sys2Proof.Machine.execSand d a b lit s
  | .sor d a b lit => Sys2Proof.Machine.execSor d a b lit s
  | .sxor d a b lit => Sys2Proof.Machine.execSxor d a b lit s
  | .snot d a => Sys2Proof.Machine.execSnot d a s
  | .sshl d a b lit => Sys2Proof.Machine.execSshl d a b lit s
  | .sshr d a b lit => Sys2Proof.Machine.execSshr d a b lit s
  | .ssar d a b lit => Sys2Proof.Machine.execSsar d a b lit s
  | .sclz d a => Sys2Proof.Machine.execSclz d a s
  | .smin d a b lit => Sys2Proof.Machine.execSmin d a b lit s
  | .smax d a b lit => Sys2Proof.Machine.execSmax d a b lit s
  | .sminu d a b lit => Sys2Proof.Machine.execSminu d a b lit s
  | .smaxu d a b lit => Sys2Proof.Machine.execSmaxu d a b lit s
  | .ssel d a b lit => Sys2Proof.Machine.execSsel d a b lit s
  | .spopc d a => Sys2Proof.Machine.execSpopc d a s
  | .sbfx d a b lit => Sys2Proof.Machine.execSbfx d a b lit s
  | .sbfi d a b lit => Sys2Proof.Machine.execSbfi d a b lit s
  | .scmp c d a b lit => Sys2Proof.Machine.execScmp c d a b lit s
  | .smovi d im => Sys2Proof.Machine.execSmovi d im s
  | .slui d im => Sys2Proof.Machine.execSlui d im s
  | .saddi d a im => Sys2Proof.Machine.execSaddi d a im s
  | .sandi d a im => Sys2Proof.Machine.execSandi d a im s
  | .sori d a im => Sys2Proof.Machine.execSori d a im s
  | .sxori d a im => Sys2Proof.Machine.execSxori d a im s
  | .scmpi c d a im => Sys2Proof.Machine.execScmpi c d a im s
  | .mmov d a => Sys2Proof.Machine.execMmov d a s
  | .mand d a b => Sys2Proof.Machine.execMand d a b s
  | .mor d a b => Sys2Proof.Machine.execMor d a b s
  | .mxor d a b => Sys2Proof.Machine.execMxor d a b s
  | .mnot d a => Sys2Proof.Machine.execMnot d a s
  | .mpopc d a => Sys2Proof.Machine.execMpopc d a s
  | .mffs d a => Sys2Proof.Machine.execMffs d a s
  | .mtos d a => Sys2Proof.Machine.execMtos d a s
  | .mfroms d a b => Sys2Proof.Machine.execMfroms d a b s
  | .exmrd d => Sys2Proof.Machine.execExmrd d s
  | .exmwr a => Sys2Proof.Machine.execExmwr a s
  | .srd d n => Sys2Proof.Machine.execSrd d n s
  | .swr n a => Sys2Proof.Machine.execSwr n a s
  | .bra o => Sys2Proof.Machine.execBra o s
  | .brc r o => Sys2Proof.Machine.execBrc r o s
  | .brcZ r o => Sys2Proof.Machine.execBrcZ r o s
  | .brv j m o => Sys2Proof.Machine.execBrv j m o s
  | .join j => Sys2Proof.Machine.execJoin j s
  | .call r o => Sys2Proof.Machine.execCall r o s
  | .ret r => Sys2Proof.Machine.execRet r s
  | .winV n => Sys2Proof.Machine.execWinV n s
  | .winS n => Sys2Proof.Machine.execWinS n s
  | .syncf f => Sys2Proof.Machine.execSyncf f s
  | .yieldW => Sys2Proof.Machine.execYieldW s
  | .exit => Sys2Proof.Machine.execExit s
  | .nop => Sys2Proof.Machine.execNop s
  | .brk c => Sys2Proof.Machine.execBrk c s
  | .trap c => Sys2Proof.Machine.execTrap c s
  | .rft => Sys2Proof.Machine.execRft s
  | .vmov d a m => Sys2Proof.Machine.execVmov d a m s
  | .vbcast d a => Sys2Proof.Machine.execVbcast d a s
  | .vlane d => Sys2Proof.Machine.execVlane d s
  | .vadd d a b m => Sys2Proof.Machine.execVadd d a b m s
  | .vsub d a b m => Sys2Proof.Machine.execVsub d a b m s
  | .vadds d a b m => Sys2Proof.Machine.execVadds d a b m s
  | .vsubs d a b m => Sys2Proof.Machine.execVsubs d a b m s
  | .vmul d a b m => Sys2Proof.Machine.execVmul d a b m s
  | .vmulh d a b m => Sys2Proof.Machine.execVmulh d a b m s
  | .vmulhu d a b m => Sys2Proof.Machine.execVmulhu d a b m s
  | .vmad d a b m => Sys2Proof.Machine.execVmad d a b m s
  | .vabs d a m => Sys2Proof.Machine.execVabs d a m s
  | .vneg d a m => Sys2Proof.Machine.execVneg d a m s
  | .vmin d a b m => Sys2Proof.Machine.execVmin d a b m s
  | .vmax d a b m => Sys2Proof.Machine.execVmax d a b m s
  | .vminu d a b m => Sys2Proof.Machine.execVminu d a b m s
  | .vmaxu d a b m => Sys2Proof.Machine.execVmaxu d a b m s
  | .vand d a b m => Sys2Proof.Machine.execVand d a b m s
  | .vor d a b m => Sys2Proof.Machine.execVor d a b m s
  | .vxor d a b m => Sys2Proof.Machine.execVxor d a b m s
  | .vnot d a m => Sys2Proof.Machine.execVnot d a m s
  | .vshl d a b m => Sys2Proof.Machine.execVshl d a b m s
  | .vshr d a b m => Sys2Proof.Machine.execVshr d a b m s
  | .vsar d a b m => Sys2Proof.Machine.execVsar d a b m s
  | .vbfx d a b m => Sys2Proof.Machine.execVbfx d a b m s
  | .vbfi d a b m => Sys2Proof.Machine.execVbfi d a b m s
  | .vclz d a m => Sys2Proof.Machine.execVclz d a m s
  | .vpopc d a m => Sys2Proof.Machine.execVpopc d a m s
  | .vlea sr d a b m => Sys2Proof.Machine.execVlea sr d a b m s
  | .vcmp c q a b m => Sys2Proof.Machine.execVcmp c q a b m s
  | .vsel d a b m => Sys2Proof.Machine.execVsel d a b m s
  | .fadd f d a b m => Sys2Proof.Machine.execFadd f d a b m s
  | .fsub f d a b m => Sys2Proof.Machine.execFsub f d a b m s
  | .fmul f d a b m => Sys2Proof.Machine.execFmul f d a b m s
  | .ffma f d a b m => Sys2Proof.Machine.execFfma f d a b m s
  | .fmin f d a b m => Sys2Proof.Machine.execFmin f d a b m s
  | .fmax f d a b m => Sys2Proof.Machine.execFmax f d a b m s
  | .fdiv f d a b m => Sys2Proof.Machine.execFdiv f d a b m s
  | .fscale f d a b m => Sys2Proof.Machine.execFscale f d a b m s
  | .fcmp c q a b m => Sys2Proof.Machine.execFcmp c q a b m s
  | .fabs d a f m => Sys2Proof.Machine.execFabs d a f m s
  | .fneg d a f m => Sys2Proof.Machine.execFneg d a f m s
  | .fclass d a f m => Sys2Proof.Machine.execFclass d a f m s
  | .frnd d a f m => Sys2Proof.Machine.execFrnd d a f m s
  | .fsqrt d a f m => Sys2Proof.Machine.execFsqrt d a f m s
  | .frcp d a sr f m => Sys2Proof.Machine.execFrcp d a sr f m s
  | .frsq d a sr f m => Sys2Proof.Machine.execFrsq d a sr f m s
  | .fexp2 d a sr f m => Sys2Proof.Machine.execFexp2 d a sr f m s
  | .flog2 d a sr f m => Sys2Proof.Machine.execFlog2 d a sr f m s
  | .fsin d a sr f m => Sys2Proof.Machine.execFsin d a sr f m s
  | .fcos d a sr f m => Sys2Proof.Machine.execFcos d a sr f m s
  | .ftanh d a sr f m => Sys2Proof.Machine.execFtanh d a sr f m s
  | .cvtff d a y z m => Sys2Proof.Machine.execCvtff d a y z m s
  | .cvtfi d a u y z m => Sys2Proof.Machine.execCvtfi d a u y z m s
  | .cvtif d a u y z m => Sys2Proof.Machine.execCvtif d a u y z m s
  | .vflg d a w => Sys2Proof.Machine.execVflg d a w s
  | .pack8 f d a b m => Sys2Proof.Machine.execPack8 f d a b m s
  | .unpk8 y d a f m => Sys2Proof.Machine.execUnpk8 y d a f m s
  | .perm d a b m => Sys2Proof.Machine.execPerm d a b m s
  | .qswz d a sr m => Sys2Proof.Machine.execQswz d a sr m s
  | .matchKeys d a m => Sys2Proof.Machine.execMatchKeys d a m s
  | .scan d a e t o m => Sys2Proof.Machine.execScan d a e t o m s
  | .red d a t o m => Sys2Proof.Machine.execRed d a t o m s
  | .vmovi d im => Sys2Proof.Machine.execVmovi d im s
  | .vaddVri d a im => Sys2Proof.Machine.execVaddVri d a im s
  | .vmulVri d a im => Sys2Proof.Machine.execVmulVri d a im s
  | .vandVri d a im => Sys2Proof.Machine.execVandVri d a im s
  | .vorVri d a im => Sys2Proof.Machine.execVorVri d a im s
  | .vxorVri d a im => Sys2Proof.Machine.execVxorVri d a im s
  | .vshlVri d a im => Sys2Proof.Machine.execVshlVri d a im s
  | .vshrVri d a im => Sys2Proof.Machine.execVshrVri d a im s
  | .vsarVri d a im => Sys2Proof.Machine.execVsarVri d a im s
  | .vminVri d a im => Sys2Proof.Machine.execVminVri d a im s
  | .vmaxVri d a im => Sys2Proof.Machine.execVmaxVri d a im s
  | .vminuVri d a im => Sys2Proof.Machine.execVminuVri d a im s
  | .vmaxuVri d a im => Sys2Proof.Machine.execVmaxuVri d a im s
  | .vcmpVri c q a im => Sys2Proof.Machine.execVcmpVri c q a im s
  | .topki d a k im => Sys2Proof.Machine.execTopki d a k im s
  | .ld w => Sys2Proof.Machine.execLd w s
  | .st w => Sys2Proof.Machine.execSt w s
  | .ldu w => Sys2Proof.Machine.execLdu w s
  | .spl w => Sys2Proof.Machine.execSpl w s
  | .fil w => Sys2Proof.Machine.execFil w s
  | .qst w => Sys2Proof.Machine.execQst w s
  | .ldq w => Sys2Proof.Machine.execLdq w s
  | .qrekey w => Sys2Proof.Machine.execQrekey w s
  | .xcopy w => Sys2Proof.Machine.execXcopy w s
  | .xgath w => Sys2Proof.Machine.execXgath w s
  | .kld w => Sys2Proof.Machine.execKld w s
  | .kmov w => Sys2Proof.Machine.execKmov w s
  | .knarrow w => Sys2Proof.Machine.execKnarrow w s
  | .kview w => Sys2Proof.Machine.execKview w s
  | .kperm w => Sys2Proof.Machine.execKperm w s
  | .kfield w => Sys2Proof.Machine.execKfield w s
  | .kfieldW w => Sys2Proof.Machine.execKfieldW w s
  | .drainst w => Sys2Proof.Machine.execDrainst w s
  | .probe w => Sys2Proof.Machine.execProbe w s
  | .atom w => Sys2Proof.Machine.execAtom w s
  | .cas w => Sys2Proof.Machine.execCas w s
  | .fence w => Sys2Proof.Machine.execFence w s
  | .ldb w => Sys2Proof.Machine.execLdb w s
  | .mzero z => Sys2Proof.Machine.execMzero z s
  | .mloop e z k sr x => Sys2Proof.Machine.execMloop e z k sr x s
  | .mgrow z sr => Sys2Proof.Machine.execMgrow z sr s
  | .msnap e z k => Sys2Proof.Machine.execMsnap e z k s
  | .mout e z k => Sys2Proof.Machine.execMout e z k s
  | .mpri z p => Sys2Proof.Machine.execMpri z p s
  | .mrel z => Sys2Proof.Machine.execMrel z s
  | .bndNew sr => Sys2Proof.Machine.execBndNew sr s
  | .bndFork sr t => Sys2Proof.Machine.execBndFork sr t s
  | .bndSet t => Sys2Proof.Machine.execBndSet t s
  | .bndRet t => Sys2Proof.Machine.execBndRet t s
  | .bndMrg t => Sys2Proof.Machine.execBndMrg t s
  | .bar => Sys2Proof.Machine.execBar s
  | .barl sr => Sys2Proof.Machine.execBarl sr s
  | .barg => Sys2Proof.Machine.execBarg s
  | .sigAdd k t ord => Sys2Proof.Machine.execSigAdd k t ord s
  | .sigSet k t ord => Sys2Proof.Machine.execSigSet k t ord s
  | .sigWait k t ord c => Sys2Proof.Machine.execSigWait k t ord c s
  | .spawn sr t pw eoff => Sys2Proof.Machine.execSpawn sr t pw eoff s
  | .padClose sr eoff => Sys2Proof.Machine.execPadClose sr eoff s
  | .halt => Sys2Proof.Machine.execHalt s
  | .chunk n => Sys2Proof.Machine.execChunk n s
  | .nextW => Sys2Proof.Machine.execNextW s
  | .setg a lit => Sys2Proof.Machine.execSetg a lit s
  | .setgHi a lit => Sys2Proof.Machine.execSetgHi a lit s
  | .addg a b im => Sys2Proof.Machine.execAddg a b im s
  | .loop a im => Sys2Proof.Machine.execLoop a im s
  | .brz a im => Sys2Proof.Machine.execBrz a im s
  | .brnz a im => Sys2Proof.Machine.execBrnz a im s
  | .waits a e c => Sys2Proof.Machine.execWaits a e c s
  | .sigs a e set irq c sys => Sys2Proof.Machine.execSigs a e set irq c sys s
  | .xmit a b e c => Sys2Proof.Machine.execXmit a b e c s
  | .xmitA a b e last c => Sys2Proof.Machine.execXmitA a b e last c s
  | .stow a b e c => Sys2Proof.Machine.execStow a b e c s
  | .stowA a b d c => Sys2Proof.Machine.execStowA a b d c s
  | .fold a b e op ty c => Sys2Proof.Machine.execFold a b e op ty c s
  | .foldf a b e f op ty c => Sys2Proof.Machine.execFoldf a b e f op ty c s
  | .create => Sys2Proof.Machine.execCreate s
  | .key => Sys2Proof.Machine.execKey s
  | .preempt => Sys2Proof.Machine.execPreempt s
  | .resume => Sys2Proof.Machine.execResume s
  | .destroy => Sys2Proof.Machine.execDestroy s
  | .pool => Sys2Proof.Machine.execPool s
  | .quota => Sys2Proof.Machine.execQuota s
  | .saveComplete => Sys2Proof.Machine.execSaveComplete s
  | .uncorrectableError addr cx => Sys2Proof.Machine.execUncorrectableError addr cx s
  | .registerWrite off v => Sys2Proof.Machine.execRegisterWrite off v s
  | .qtailWrite q v => Sys2Proof.Machine.execQtailWrite q v s
  | .queueEnable q v => Sys2Proof.Machine.execQueueEnable q v s
  | .queueDisable q v => Sys2Proof.Machine.execQueueDisable q v s
  | .cheadWrite q v => Sys2Proof.Machine.execCheadWrite q v s
  | .faultQueueEnable v => Sys2Proof.Machine.execFaultQueueEnable v s
  | .faultQueueDisable v => Sys2Proof.Machine.execFaultQueueDisable v s
  | .fqheadWrite v => Sys2Proof.Machine.execFqheadWrite v s
  | .tqarbWrite c v => Sys2Proof.Machine.execTqarbWrite c v s
  | .dmsplitWrite v => Sys2Proof.Machine.execDmsplitWrite v s
  | .dmsplitComplete => Sys2Proof.Machine.execDmsplitComplete s
  | .resetPackage idx force => Sys2Proof.Machine.execResetPackage idx force s
  | .resetDie idx force => Sys2Proof.Machine.execResetDie idx force s
  | .resetCluster idx force => Sys2Proof.Machine.execResetCluster idx force s
  | .resetCore idx force => Sys2Proof.Machine.execResetCore idx force s
  | .resetVectorPipes idx force => Sys2Proof.Machine.execResetVectorPipes idx force s
  | .resetMatrixEngine idx force => Sys2Proof.Machine.execResetMatrixEngine idx force s
  | .resetCopyEngine idx force => Sys2Proof.Machine.execResetCopyEngine idx force s
  | .resetGatherEngine idx force => Sys2Proof.Machine.execResetGatherEngine idx force s
  | .resetOutrider idx force => Sys2Proof.Machine.execResetOutrider idx force s
  | .resetCommandSequencer idx force => Sys2Proof.Machine.execResetCommandSequencer idx force s
  | .resetRein idx force => Sys2Proof.Machine.execResetRein idx force s
  | .resetManagementBlock idx force => Sys2Proof.Machine.execResetManagementBlock idx force s
  | .resetComplete => Sys2Proof.Machine.execResetComplete s
  | .slotAbort n sl => Sys2Proof.Machine.execSlotAbort n sl s
  | .slotGo n sl => Sys2Proof.Machine.execSlotGo n sl s
  | .slotStep n sl v => Sys2Proof.Machine.execSlotStep n sl v s
  | .slgdatWrite n sl v => Sys2Proof.Machine.execSlgdatWrite n sl v s
  | .nopPacket die => Sys2Proof.Machine.execNopPacket die s
  | .launch die => Sys2Proof.Machine.execLaunch die s
  | .node die => Sys2Proof.Machine.execNode die s
  | .signal die => Sys2Proof.Machine.execSignal die s
  | .wait die => Sys2Proof.Machine.execWait die s
  | .phase die => Sys2Proof.Machine.execPhase die s
  | .rein die => Sys2Proof.Machine.execRein die s
  | .replay die => Sys2Proof.Machine.execReplay die s
  | .inval die => Sys2Proof.Machine.execInval die s
  | .invalComplete p => Sys2Proof.Machine.execInvalComplete p s
  | .phaseSteps q => Sys2Proof.Machine.execPhaseSteps q s
  | .queueHoldRelease q => Sys2Proof.Machine.execQueueHoldRelease q s
  | .indirectSizeTaken q => Sys2Proof.Machine.execIndirectSizeTaken q s
  | .packetComplete p => Sys2Proof.Machine.execPacketComplete p s
  | .patchBankSwitch die => Sys2Proof.Machine.execPatchBankSwitch die s
  | .blockPlace g => Sys2Proof.Machine.execBlockPlace g s
  | .gridComplete g => Sys2Proof.Machine.execGridComplete g s
  | .paddockTimerLapse nd => Sys2Proof.Machine.execPaddockTimerLapse nd s
  | .arrivalInterrupt n => Sys2Proof.Machine.execArrivalInterrupt n s
  | .outriderRunStart c => Sys2Proof.Machine.execOutriderRunStart c s
  | .continuationReentry c => Sys2Proof.Machine.execContinuationReentry c s
  | .weightedTileChoice co => Sys2Proof.Machine.execWeightedTileChoice co s
  | .clauseStart co p => Sys2Proof.Machine.execClauseStart co p s
  | .stallRelease g => Sys2Proof.Machine.execStallRelease g s
  | .operationComplete op => Sys2Proof.Machine.execOperationComplete op s
  | .faultRecordWrite => Sys2Proof.Machine.execFaultRecordWrite s
  | .storePerformed st => Sys2Proof.Machine.execStorePerformed st s
  | .writeProtectReport g => Sys2Proof.Machine.execWriteProtectReport g s
  | .barrierComplete lv b => Sys2Proof.Machine.execBarrierComplete lv b s
  | .sigWaitResume g => Sys2Proof.Machine.execSigWaitResume g s
  | .ownershipGrant ln => Sys2Proof.Machine.execOwnershipGrant ln s
  | .lineComplete ln => Sys2Proof.Machine.execLineComplete ln s
  | .brandFree cx b => Sys2Proof.Machine.execBrandFree cx b s
  | .brandMergeApply cx b => Sys2Proof.Machine.execBrandMergeApply cx b s
  | .kStep co => Sys2Proof.Machine.execKStep co s
  | .moutReadout op => Sys2Proof.Machine.execMoutReadout op s
  | .leaveGrant die => Sys2Proof.Machine.execLeaveGrant die s
  | .powerSample mw dies => Sys2Proof.Machine.execPowerSample mw dies s
  | .limiterWindow => Sys2Proof.Machine.execLimiterWindow s
  | .frameSend n => Sys2Proof.Machine.execFrameSend n s
  | .dataFrameReceive n f => Sys2Proof.Machine.execDataFrameReceive n f s
  | .runHeaderReceive n f => Sys2Proof.Machine.execRunHeaderReceive n f s
  | .roundMarkerReceive n f => Sys2Proof.Machine.execRoundMarkerReceive n f s
  | .idleFrameReceive n f => Sys2Proof.Machine.execIdleFrameReceive n f s
  | .memoryServiceRequest n f => Sys2Proof.Machine.execMemoryServiceRequest n f s
  | .memoryServiceResponse n f => Sys2Proof.Machine.execMemoryServiceResponse n f s
  | .memoryServiceData n f => Sys2Proof.Machine.execMemoryServiceData n f s
  | .frameResend n => Sys2Proof.Machine.execFrameResend n s
  | .reinSlotLoad p => Sys2Proof.Machine.execReinSlotLoad p s
  | .reinSlotRestore n => Sys2Proof.Machine.execReinSlotRestore n s
  | .slotChoose n => Sys2Proof.Machine.execSlotChoose n s
  | .chunkComplete n => Sys2Proof.Machine.execChunkComplete n s
  | .boundaryRunLimit n => Sys2Proof.Machine.execBoundaryRunLimit n s
  | .bringUp => Sys2Proof.Machine.execBringUp s
  | .telemetryFastRecord temp => Sys2Proof.Machine.execTelemetryFastRecord temp s
  | .telemetryFullRecord temp hbm => Sys2Proof.Machine.execTelemetryFullRecord temp hbm s
  | .sensorRead id => Sys2Proof.Machine.execSensorRead id s
  | .spdmMeasurements slot index => Sys2Proof.Machine.execSpdmMeasurements slot index s
  | .firmwareTransfer up => Sys2Proof.Machine.execFirmwareTransfer up s
  | .activateFirmware => Sys2Proof.Machine.execActivateFirmware s
  | .crcFailure n f => Sys2Proof.Machine.execCrcFailure n f s
  | .allowanceReturn n sl e fl => Sys2Proof.Machine.execAllowanceReturn n sl e fl s
  | .hostPortAccess h => Sys2Proof.Machine.execHostPortAccess h s
  | .correctedError ext => Sys2Proof.Machine.execCorrectedError ext s

end Sys2Proof.Machine
end

