-- ==== Sys2Proof/Machine/Setup.lean ====
section
/-! DEFINITION. A program of one word where the machine fetches its next instruction: a kernel in device memory whose group
is within its only clause, or a program in a rein's slot (notes/assumptions/14.md). -/
namespace Sys2Proof.Machine

/-- The context whose program is placed. -/
def setupCtx : Nat := 1

/-- Bytes of device memory written under a key. -/
def putDevice (s : State) (k a : Nat) (bs : List Byte) : State :=
  { s with mem := bs.zipIdx.foldl (fun (m : MemUnit) e => m.putPhys k (a + e.2) e.1) s.mem }

/-- An object table for `setupCtx` at physical address 0, in a table region of 1 MiB: object 1 has one page, whose frame
is at 0x10_0000 (R243-R246). -/
def setupTables (s : State) : State :=
  let x : Context := { s.ctx setupCtx with st := 1, objRoot := 0 }
  let s := { s with care := { s.care with trbase := 0, trlim := 0x100000 } }
  let s := s.setCtx setupCtx x
  let s := { s with mem := { s.mem with tlb := s.mem.tlb.filter (fun e => decide (e.cx ≠ setupCtx)) } }
  let s := putDevice s plainKey 0 (bytesOfNat 8 0x20001)
  let s := putDevice s plainKey 0x20020 (bytesOfNat 32 (2 ^ 7 + 0x40000 * 2 ^ 192))
  putDevice s plainKey 0x40000 (bytesOfNat 8 (2 ^ 63 + 0x100000))

/-- The address of the placed image: offset 0 of object 1. -/
def setupImage : Nat := 2 ^ 40

/-- The image header: width 16, 64 registers, one clause of `n` words (R131). -/
def setupHeader (n : Nat) : Nat :=
  0x4C454143 + 2 ^ 32 + 4 * 2 ^ 48 + 2 ^ 56 + 256 * 2 ^ 192 + (n + 1) * 2 ^ 224

/-- A launch record of one block of 16 threads for that image (R133). -/
def setupLaunch : Nat :=
  setupImage + 2 ^ 160 + 2 ^ 192 + 2 ^ 224 + 16 * 2 ^ 256 + 2 ^ 272 + 2 ^ 288

/-- A kernel of one clause with the words `ws`, its one group within that clause, and its pipe's slot next. -/
def placeKernel (s : State) (ws : List Word) : State :=
  let s := setupTables s
  let head := encodeHeader { len := BitVec.ofNat 4 (ws.length - 1), wait := 0, seta := 0xF, setb := 0xF, yld := false }
  let s := putDevice s (s.ctx setupCtx).key (0x100000 + 256) ((head :: ws).flatMap bytesOfWord)
  let (gid, s) := s.take
  let gr := newGrid s 0 setupCtx 0 0 setupLaunch (setupHeader ws.length) (1, 1, 1) false none
  let s := startBlock (s.setGrid gid gr) gid gr 0 16 [(0, 1)] [] 0
  match s.k.groups.getLast? with
  | none => s
  | some (id, g) =>
    let s := startClause s id g
    let c := s.core g.core
    let s := s.setCore g.core { c with prev := sset 0 c.prev g.pipe (id + 1) }
    { s with agenda := .pipe g.core g.pipe :: s.agenda }

/-- A program of the words `ws` in slot 0 of rein 0: in its body if the word stands in one. -/
def placeReinProgram (s : State) (i : Instr) (ws : List Word) : State :=
  let x : Context := { s.ctx setupCtx with st := 1 }
  let s := s.setCtx setupCtx x
  let y : Slot := { Slot.free with st := if bodyKind i then 3 else 1, cx := setupCtx, words := ws
                                   bodyEnd := if bodyKind i then some ws.length else none }
  let s := s.setSlot 0 0 y
  let s := s.setRein 0 { s.rein 0 with running := some 0 }
  { s with agenda := .rein 0 :: s.agenda }

/-- The instruction whose bits are `w` placed where the machine runs it next. -/
def placeWord (s : State) (nbits w : Nat) : State :=
  let ws := wordsOfBytes (bytesOfNat 8 (w % 2 ^ nbits))
  match decodeTableWord nbits w with
  | some i => if reinInstr i then placeReinProgram s i ws else placeKernel s (ws.take (encode i).length)
  | none => placeKernel s ws

end Sys2Proof.Machine
end

