-- ==== Sys2Proof/Machine/Step.lean ====
section
/-! DEFINITION. One step of the machine, and the placing of a single instruction. -/
namespace Sys2Proof.Machine

/-- One step: the agent of the next turn acts. An instruction of a group whose report of R260 is due, or whose
stores wait to be tested, gives way unless it raises a trapping cause itself. -/
def step (s : State) : Host.Outcome State Fault Refusal :=
  let t := nextTurn s
  match act t.1 t.2 with
  | (s, .rest) => .next s
  | (s, .row i) => exec i s
  | (s, .start c) => execOutriderRunStart c s
  | (s, .report id) => execWriteProtectReport id s
  | (s, .word id i) =>
    match exec i s with
    | .next t => afterWord s t id
    | .fault r => .fault r
    | .refused r => .refused r

/-- `s` with the instruction whose bits are `w` where `step` runs it next (notes/assumptions/14.md). -/
def State.withFetchWord (s : State) (nbits w : Nat) : State := placeWord s nbits w

end Sys2Proof.Machine
end

