-- ==== Sys2Proof/Safety.lean ====
section
/-! DEFINITION. The words in which claims are made: an instruction that may issue, the next state in which one group has
changed, the values the manual's tables give, and what a safe run is. -/
namespace Sys2Proof.Claims
open Sys2Proof.Machine

/-- Group `g` is in step, and its operands `u` raise none of the causes of R79. -/
abbrev Ready (s : State) (g : Group) (u : Uses) : Prop :=
  s.group? s.cur = some g ∧ checkUses s s.cur g u = none

/-- The word of a transfer, which stands last in its clause (R66). -/
abbrev Last (g : Group) : Prop := g.pc + 4 = g.cend

/-- The machine goes on, and the group in step has become `g`; nothing else has changed. -/
abbrev goes (s : State) (g : Group) : Out := .next (s.setGroup s.cur g)

/-- The group in step takes trapping fault `c`, which is not per lane. -/
abbrev traps (s : State) (g : Group) (c : Cause) : Out := .next (takeTrap s s.cur g { cause := c })

/-- The scalars that a two-operand instruction names (R179). -/
def scalars (d a b : BitVec 7) (lit : Option Word) : Uses :=
  { sc := (if lit.isSome then [d, a] else [d, a, b]).map (·.toNat) }

/-- Bits [lo + n - 1 : lo] of a value. -/
def part (v lo n : Nat) : Nat := v / 2 ^ lo % 2 ^ n

/-- The conditions of R75. -/
def holds (c : BitVec 3) (a b : Word) : Bool :=
  match c.toNat with
  | 0 => decide (a = b)
  | 1 => decide (a ≠ b)
  | 2 => decide (a.toInt < b.toInt)
  | 3 => decide (a.toInt ≤ b.toInt)
  | 4 => decide (b.toInt < a.toInt)
  | 5 => decide (b.toInt ≤ a.toInt)
  | 6 => decide (a.toNat < b.toNat)
  | _ => decide (b.toNat ≤ a.toNat)

/-- Position and length of a bit field (R180): pos = v[4:0], len = v[10:5] with 33 to 63 read as 32, n = min(len, 32 - pos). -/
def fieldAt (v : Word) : Nat := v.toNat % 32
def fieldBits (v : Word) : Nat := min (min (v.toNat / 32 % 64) 32) (32 - fieldAt v)

/-- `v` is the field that `b` names in `a`, extended as bit 11 of `b` says (SBFX and VBFX, R180, R200). -/
abbrev IsExtract (v a b : Word) : Prop :=
  v = if fieldBits b = 0 then 0
      else
        let x := a.toNat / 2 ^ fieldAt b % 2 ^ fieldBits b
        if b.getLsbD 11 ∧ 2 ^ (fieldBits b - 1) ≤ x then BitVec.ofInt 32 ((x : Int) - 2 ^ fieldBits b)
        else BitVec.ofNat 32 x

/-- `v` is `c` with the field that `b` names replaced by the low bits of `a` (SBFI and VBFI, R180, R200). -/
abbrev IsInsert (v a b c : Word) : Prop :=
  ∀ i, i < 32 → v.getLsbD i =
    if fieldAt b ≤ i ∧ i < fieldAt b + fieldBits b then a.getLsbD (i - fieldAt b) else c.getLsbD i

/-- `n` is the number of leading zero bits of `a`. -/
abbrev LeadingZeros (n : Nat) (a : Word) : Prop := n ≤ 32 ∧ a.toNat < 2 ^ (32 - n) ∧ (n < 32 → 2 ^ (31 - n) ≤ a.toNat)

/-- How many bits of a value are set. -/
def setBits {w : Nat} (a : BitVec w) : Nat := ((List.range w).filter (fun i => a.getLsbD i)).length

/-- `i` is the index of the lowest set bit of `m`, 64 for none. -/
abbrev LowestSet (i : Nat) (m : Word64) : Prop := i ≤ 64 ∧ (∀ j, j < i → m.getLsbD j = false) ∧ (i < 64 → m.getLsbD i = true)

/-- A signed shift right of any distance. -/
def arithRight (a b : Word) : Word := BitVec.ofInt 32 (a.toInt / 2 ^ b.toNat)

/-- A branch target, in words from the clause's header (R66, R183). -/
def branchTarget (g : Group) (o : BitVec 17) : Int := g.cla + 4 * o.toInt

/-- A target within the image's code (R183). -/
abbrev InCode (g : Group) (t : Int) : Prop := 256 ≤ t ∧ t < g.codeEnd

/-- No write of a spliced pair is held back by ELIDE in the group (R147). -/
abbrev NothingHeld (g : Group) : Prop := ∀ h ∈ g.ties, h.elide = false

/-- The side's completion flag has room for one more operation (R62). -/
def FlagRoom (g : Group) (sel : Bool) : Prop := ∀ f, g.sideFlag sel = some f → g.count f < 63

/-- One more operation is counted in the side's flag, and in no other (R62). -/
def CountedUp (g g' : Group) (sel : Bool) : Prop :=
  ∀ f, g'.count f = if g.sideFlag sel = some f then g.count f + 1 else g.count f

/-- Lane `l` of group `g` is active. -/
abbrev Active (g : Group) (l : Nat) : Prop := l < g.width ∧ g.exm.getLsbD l = true

/-- Lane `l` is active and no helper lane (R160). -/
def Takes (g : Group) (l : Nat) : Bool := decide (l < g.width) && g.exm.getLsbD l && !g.hlp.getLsbD l

/-- The accumulator of SCAN before lane `p` (R216). -/
def scanBefore (op : Word → Word → Word × FFlags) (one : Word) (takes : Nat → Bool) (v : Nat → Word) (p : Nat) : Word :=
  ((List.range p).filter takes).foldl (fun acc q => (op acc (v q)).1) one

/-- Position `p` of the tree of RED after `k` levels, with the flags raised below it (R216). -/
def redAt (op : Word → Word → Word × FFlags) (v : Nat → Word) : Nat → Nat → Word × FFlags
  | 0, p => (v p, 0)
  | k + 1, p =>
    let x := redAt op v k (2 * p)
    let y := redAt op v k (2 * p + 1)
    let r := op x.1 y.1
    (r.1, x.2 ||| y.2 ||| r.2)

/-- The machine's memory as any agent finds it is unchanged: device and extended memory with its keys, host memory and what
the L2s hold of it, the scratchpad shares and the tags of records. -/
def SameMemory (s t : State) : Prop :=
  t.mem.phys = s.mem.phys ∧ t.mem.keyTag = s.mem.keyTag ∧ t.mem.host = s.mem.host ∧ t.mem.dirty = s.mem.dirty ∧
    t.mem.dirtyCtx = s.mem.dirtyCtx ∧ t.mem.share = s.mem.share ∧ t.mem.tags = s.mem.tags ∧ t.k.blocks = s.k.blocks

/-- Nothing but groups, operations outstanding and memory has changed: contexts, queues, reins, engines, brands and the
device's own registers are as before. -/
def SameDevice (s t : State) : Prop :=
  t.cx = s.cx ∧ t.q = s.q ∧ t.cores = s.cores ∧ t.br = s.br ∧ t.reins = s.reins ∧ t.care = s.care

/-- Every group but `id` is as before. -/
def OtherGroups (s t : State) (id : Nat) : Prop := ∀ k, k ≠ id → t.group? k = s.group? k

/-- The byte at object offset `o` of a record's storage, for accesses of the group in step that touch `as` (R222, R245). -/
def placeOf (s : State) (g : Group) (r : Rec) (as : List LaneAcc) (o : Nat) : PByte :=
  if r.special then { loc := { sp := (coreStore s s.cur g r.obj).1, a := o }, wp := false, brd := false, det := 0 }
  else (translateChunks s g.cx r.obj true (as.flatMap LaneAcc.offs)).byte o

/-- Every page that the captured accesses `as` touch translates. -/
def Mapped (s : State) (g : Group) (r : Rec) (as : List LaneAcc) : Prop :=
  r.special = true ∨ ∀ a ∈ as, a.faults (translateChunks s g.cx r.obj true (as.flatMap LaneAcc.offs)) = []

/-- The lane access `f` of the group in step raises no cause of R79 or R232 and has room in its flag; `as` are its captured
lanes. -/
structure AccessIssues (s : State) (g : Group) (f : LaneForm) (as : List LaneAcc) : Prop where
  here : s.group? s.cur = some g
  operands : checkUses s s.cur g f.uses = none
  own : f.trap s s.cur g = none
  room : FlagRoom g f.sel
  reports : f.writes = true → g.reportsFull = false
  captured : as = (f.lanes g).filterMap (f.cap g (g.rdK f.form.k))

/-- As `AccessIssues`, and every page translates. -/
structure AccessRuns (s : State) (g : Group) (f : LaneForm) (as : List LaneAcc) : Prop extends AccessIssues s g f as where
  mapped : Mapped s g (g.rdK f.form.k) as

/-- The chunks of one access: its pages are of one size, and those that translate lie behind the L2s (R249). -/
def ChunksPlain (cs : Chunks) : Prop :=
  (∃ lg : Bool, ∀ o f, cs.at o = .error f → f.lg = lg) ∧
    ∀ o p, cs.at o = .ok p → p.1.base.sp = .phys ∨ p.1.base.sp = .host

/-- `recs` are the records of the pages that the lanes `as` touch and that do not translate, `out` of each lane (R254, R255): one
for each page, by the lowest lane that touches it, then by offset; `whole` are the lanes of an access for the whole group. -/
def PageRecords (as : List LaneAcc) (out : LaneAcc → List (PageFault × Nat)) (whole : Option Lanes) (cx b obj kind : Nat)
    (recs : List (BitVec 256)) : Prop :=
  let page (x : PageFault × Nat) : Nat := x.2 / pageSize x.1.lg
  ∃ rows : List (Nat × PageFault × Nat), recs.length = rows.length ∧ (rows.map (fun x => page x.2)).Nodup ∧
    (∀ a ∈ as, ∀ y ∈ out a, ∃ x ∈ rows, page x.2 = page y) ∧
    (∀ x ∈ rows, (∃ a ∈ as, a.lane = x.1 ∧ x.2 ∈ out a) ∧ ∀ a ∈ as, ∀ y ∈ out a, page y = page x.2 → x.1 ≤ a.lane) ∧
    rows.Pairwise (fun x y => x.1 < y.1 ∨ (x.1 = y.1 ∧ x.2.2 < y.2.2)) ∧
    ∀ j x c, rows[j]? = some x → recs[j]? = some c →
      part c.toNat 0 8 = x.2.1.cause.toNat ∧ part c.toNat 160 40 = x.2.2 % 2 ^ 40 ∧ part c.toNat 200 24 = obj % 2 ^ 24 ∧
      part c.toNat 224 16 = b % 2 ^ 16 ∧ part c.toNat 240 10 = cx % 1024 ∧ part c.toNat 250 3 = kind % 8 ∧
      part c.toNat 253 1 = x.2.1.mq.toNat ∧ part c.toNat 254 2 = (decide (j + 1 = rows.length)).toNat ∧
      part c.toNat 8 17 = 0 ∧
      ∀ l, l < 64 → (c.getLsbD (96 + l) = true ↔ match whole with
        | some m => m.getLsbD l = true
        | none => ∃ a ∈ as, a.lane = l ∧ ∃ y ∈ out a, page y = page x.2)

/-- A place of memory that stands: the block or group whose storage it is exists, and it is not a peer's (R249). -/
def Stands (s : State) (l : Loc) : Prop :=
  match l.sp with
  | .block b => (s.block? b).isSome = true
  | .spill g => (s.group? g).isSome = true
  | .peer _ => False
  | .phys | .host | .share _ _ => True

/-- `t` is S · 2^sh rounded to the nearest integer, ties to even (R37). -/
abbrev NearestEven (t S sh : Int) : Prop :=
  (0 ≤ sh → t = S * 2 ^ sh.toNat) ∧
    (sh < 0 → 2 * (S - t * 2 ^ (-sh).toNat).natAbs ≤ 2 ^ (-sh).toNat ∧
      (2 * (S - t * 2 ^ (-sh).toNat).natAbs = 2 ^ (-sh).toNat → t % 2 = 0))

/-- S · 2^sh is the integer `t`. -/
abbrev Exactly (t S sh : Int) : Prop := if 0 ≤ sh then t = S * 2 ^ sh.toNat else t * 2 ^ (-sh).toNat = S

/-- The translations that the next K-step of a loop uses: after a retry it walks afresh (R258). -/
def stepWalks (s : State) (l : MLoop) : State := if l.afresh then { s with mem := { s.mem with tlb := [] } } else s

/-- Every page that the next K-step of a loop reads of A translates (R332). -/
abbrev StepMapped (s : State) (l : MLoop) : Prop :=
  let offs := rowOffs l.recA (l.first + l.done)
  Rec.special l.recA = true ∨
    ∀ o ∈ offs, ∃ p, (translateChunks (stepWalks s l) l.cx (Rec.obj l.recA) true offs).at o = .ok p

/-- The bytes of element `e` of A as the next K-step of a loop of group `g` reads them, at L2 (R311). -/
def stepRead (s : State) (g : Group) (l : MLoop) (e : Nat) : List Byte :=
  (srcOffs l.recA e).map (fun o => readByte s l.cx l.brand []
    (if Rec.special l.recA then
      { loc := { sp := (coreStore s l.gid g (Rec.obj l.recA)).1, a := o }, wp := false, brd := false, det := 0 }
    else (translateChunks (stepWalks s l) l.cx (Rec.obj l.recA) true (rowOffs l.recA (l.first + l.done))).byte o))

/-- K-steps `m` to `m + n` - 1 of A and B lie in the storage of their records (R222). -/
abbrev StepsStored (s : State) (g : Group) (a b : Rec) (planes m n : Nat) : Prop :=
  ∀ j, j < n →
    (a.special = true → ∀ o ∈ rowOffs a (m + j), o < (coreStore s s.cur g a.obj).2) ∧
    (b.special = true → ∀ o ∈ slabOffs b planes (m + j), o < (coreStore s s.cur g b.obj).2)

/-- The value of a field of a record (R218), and a record with one field changed. -/
def fieldOf (r : Rec) (lo n : Nat) : Nat := r.toNat / 2 ^ lo % 2 ^ n

/-- The fields of a record by their number in R231: first bit and width. -/
def recordFields : List (Nat × Nat × Nat) :=
  [(0, 0, 24), (1, 24, 32), (2, 56, 8), (3, 64, 16), (4, 80, 16), (5, 96, 8), (6, 104, 20), (7, 124, 16), (8, 140, 16),
    (9, 156, 16), (10, 172, 8), (11, 180, 32), (12, 212, 8), (13, 220, 5), (14, 225, 3), (15, 228, 2), (16, 230, 5),
    (17, 235, 3), (18, 238, 2), (19, 240, 16)]

/-- Pool lines in use are whole lines, each of one cell or reservation, and no cell stands for one (R299). -/
abbrev PoolsApart (s : State) : Prop :=
  (s.br.cells.map (·.pool)).Nodup ∧ ∀ c ∈ s.br.cells, c.pool % 256 = 0 ∧ c.line.a % 256 = 0 ∧
    ∀ e ∈ s.br.cells, c.line ≠ { sp := .phys, a := e.pool }

/-- The descriptor at CXDESC, read under the key of context `c` (R26, R100). -/
def descriptor (s : State) (c : Nat) : Nat :=
  natOfBytes ((List.range 64).map (fun i => s.mem.physByte (s.ctx c).key (s.cx.desc.toNat + i)))

/-- The descriptor is backed and its reserved bits are zero (R99, R100). -/
abbrev DescriptorReads (s : State) (c : Nat) : Prop :=
  backed s.cx.desc.toNat = true ∧ ∀ f ∈ [(480, 1), (201, 7), (59, 5), (3, 29)], part (descriptor s c) f.1 f.2 = 0

/-- The pool extent of a descriptor: whole lines of device memory (R100, R403). -/
abbrev ExtentReads (d : Nat) : Prop := part d 320 64 % 256 = 0 ∧ inDevice (part d 320 64) (256 * part d 384 32) = true

/-- The fields that CREATE takes hold what R100 gives them. -/
abbrev FieldsRead (d : Nat) : Prop :=
  part d 192 9 ≤ 256 ∧ part d 48 11 ≤ 1536 ∧ part d 128 64 % 4096 = 0 ∧ part d 416 64 % 32 = 0 ∧
    part d 224 64 % 4096 = 0 ∧ inDevice (part d 224 64) (4096 * part d 288 32) = true ∧ ExtentReads d

/-- The context that a descriptor gives (R100, R103): active; `ebase` and `elen` are in units of 2 MiB. -/
def bound (x : Context) (d : Nat) : Context :=
  { x with
    st := 1, why := 0, prio := part d 0 3, elen := part d 32 16, ebase := part d 481 31, dsh := part d 48 11
    oimg := part d 64 64, obind := part d 416 64, onbind := part d 192 9, objRoot := part d 128 64
    brandQuota := part d 208 16, saveBase := part d 224 64, saveUnits := part d 288 32
    pool := if part d 384 32 = 0 then [] else [(part d 320 64, part d 384 32)]
    obinds := [], recorded := 0, savedArea := none, placedShare := true }

/-- The bits that R116 and R125 leave zero in a packet of type `t`, beside those of the header: first bit and width. -/
def packetZeros (t : Nat) : List (Nat × Nat) :=
  if t = 1 then [(259, 5), (264, 248)]
  else if t = 2 then [(259, 5), (290, 222)]
  else if t = 3 then [(64, 64), (259, 253)]
  else if t = 4 then [(192, 64), (258, 254)]
  else if t = 6 then [(259, 5), (315, 5), (396, 116)]
  else if t = 8 then [(64, 16), (160, 352)]
  else [(64, 448)]

/-- A packet of type `t` whose reserved bits are zero (R115, R116). -/
abbrev OfType (p t : Nat) : Prop :=
  part p 0 8 = t ∧ part p 40 8 = 0 ∧ part p 16 16 = 0 ∧ part p 8 6 = 0 ∧ ∀ f ∈ packetZeros t, part p f.1 f.2 = 0

/-- The release block of a work packet or SIGNAL: none, or an aligned signal that can be written (R116, R117). -/
abbrev ReleaseStands (s : State) (cx p : Nat) : Prop :=
  (part p 256 2 = 0 ∧ part p 128 64 = 0) ∨
    (part p 256 2 ∈ [1, 2] ∧ part p 128 64 % 8 = 0 ∧ part p 128 64 ≠ 0 ∧ signalWritable s cx (part p 128 64) = true)

/-- No earlier packet of the queue keeps packet `p` from being taken (R113). -/
abbrev Free (s : State) (n p : Nat) : Prop := part p 14 1 = 0 ∨ ∀ e ∈ s.q.pkts, e.2.q ≠ n

/-- The sequencer of a die turns to queue `n`, `q`, which runs and whose next packet is `p`, a ring that is not overrun (R113,
R128). -/
structure Parses (s : State) (die n : Nat) (q : Queue) (p : Nat) : Prop where
  chosen : chooseQueue s die = some (n, q)
  here : s.queue n = q
  runs : q.st = 1
  fits : (q.tail - q.head).toNat ≤ 2 ^ q.lg
  packet : ringEntry s q 0 = some p

/-- Packet `p` of queue `n` is taken: the queue runs on behind it, and the packet stands open under the next number. -/
def Taken (s u : State) (n p : Nat) (q : Queue) (k : Packet) : Prop :=
  (u.queue n).head = q.head + 1 ∧ (u.queue n).st = 1 ∧ (u.queue n).hold = none ∧ (u.queue n).phase = q.phase ∧
    (∀ m, m ≠ n → u.queue m = s.queue m) ∧ u.pkt? s.fresh = some k ∧ k.q = n ∧ k.cx = q.cx ∧ k.seq = q.head.toNat ∧
    k.bits = BitVec.ofNat 512 p ∧ (∀ i, i ≠ s.fresh → u.pkt? i = s.pkt? i) ∧ u.cx = s.cx ∧ u.br = s.br

/-- A packet taken and done with a status, nothing else changed (R117). -/
def TakenDone (s u : State) (n p : Nat) (q : Queue) (st : BitVec 8) : Prop :=
  ∃ k, Taken s u n p q k ∧ k.finished = true ∧ k.status = st ∧ u.mem = s.mem ∧ u.k = s.k ∧ u.reins = s.reins

/-- Parsing stops at the packet at the head for reason `w` (R113). -/
def HeldFor (s u : State) (n : Nat) (q : Queue) (w : HoldWhy) : Prop :=
  (u.queue n).st = 2 ∧ (u.queue n).hold = some w ∧ (u.queue n).head = q.head ∧ (u.queue n).phase = q.phase ∧
    (∀ m, m ≠ n → u.queue m = s.queue m) ∧ u.q.pkts = s.q.pkts ∧ u.mem = s.mem ∧ u.k = s.k ∧ u.cx = s.cx ∧ u.reins = s.reins

/-- The condition of a WAIT (R116). -/
def waitCond (c : Nat) (x v : Word64) : Bool :=
  if c = 0 then decide (v.toNat ≤ x.toNat)
  else if c = 1 then decide (x = v)
  else if c = 2 then decide (x ≠ v)
  else decide (x.toNat < v.toNat)

/-- Row `i` of the table parses packets of type `t` on die `die` (R115). -/
def PacketRow (die t : Nat) (i : Instr) : Prop :=
  (t = 0 ∧ i = .nopPacket die) ∨ (t = 1 ∧ i = .launch die) ∨ (t = 2 ∧ i = .node die) ∨ (t = 3 ∧ i = .signal die) ∨
    (t = 4 ∧ i = .wait die) ∨ (t = 5 ∧ i = .phase die) ∨ (t = 6 ∧ i = .rein die) ∨ (t = 7 ∧ i = .replay die) ∨
    (t = 8 ∧ i = .inval die)

/-! What a rounded result is (R33, R37, R38), said of the exact value and of the codes alone. -/

/-- a · 2^p is at most b · 2^q. -/
abbrev PowLe (a : Nat) (p : Int) (b : Nat) (q : Int) : Prop := a * 2 ^ (p - min p q).toNat ≤ b * 2 ^ (q - min p q).toNat

/-- A positive real number X, known by the dyadic numbers that it is at least and at most. -/
structure Magnitude where
  atLeast : Nat → Int → Prop
  atMost : Nat → Int → Prop

/-- m · 2^e. -/
def dyadic (m : Nat) (e : Int) : Magnitude := { atLeast := fun a p => PowLe a p m e, atMost := fun a p => PowLe m e a p }

/-- (m · 2^e) / (n · 2^f). -/
def quotient (m : Nat) (e : Int) (n : Nat) (f : Int) : Magnitude :=
  { atLeast := fun a p => PowLe (a * n) (p + f) m e, atMost := fun a p => PowLe m e (a * n) (p + f) }

/-- The square root of m · 2^e. -/
def root (m : Nat) (e : Int) : Magnitude :=
  { atLeast := fun a p => PowLe (a * a) (p + p) m e, atMost := fun a p => PowLe m e (a * a) (p + p) }

/-- `s` · 2^q is X with the sign `neg` rounded to a multiple of 2^q (R37): to the nearest, a tie to the even one, or to the
adjacent one that the mode names. -/
def RoundsAt (r : RMode) (neg : Bool) (X : Magnitude) (q : Int) (s : Nat) : Prop :=
  ∃ f, X.atLeast f q ∧ ¬ X.atLeast (f + 1) q ∧
    let up : Prop := match r with
      | .rne => ¬ X.atMost (2 * f + 1) (q - 1) ∨ (X.atLeast (2 * f + 1) (q - 1) ∧ f % 2 = 1)
      | .rtz => False
      | .rup => neg = false
      | .rdn => neg = true
    (X.atMost f q → s = f) ∧ (¬ X.atMost f q → (up → s = f + 1) ∧ (¬ up → s = f))

/-- A floating-point format as the table of R33 lays it out: the bits of its exponent and significand, its bias, and its largest
finite value `big` · 2^`top`. -/
structure Layout where
  F : FFmt
  eb : Nat
  t : Nat
  bias : Int
  big : Nat
  top : Int

/-- The table of R33. -/
def layouts : List Layout :=
  [{ F := fp32, eb := 8, t := 23, bias := 127, big := 2 ^ 24 - 1, top := 104 },
    { F := fp16, eb := 5, t := 10, bias := 15, big := 2 ^ 11 - 1, top := 5 },
    { F := bf16, eb := 8, t := 7, bias := 127, big := 2 ^ 8 - 1, top := 120 },
    { F := e5m2, eb := 5, t := 2, bias := 15, big := 7, top := 13 },
    { F := e4m3, eb := 4, t := 3, bias := 7, big := 14, top := 5 }]

/-- E4M3, the format that has no infinity and one NaN of each sign (R34). -/
def Layout.isE4M3 (y : Layout) : Bool := decide (y.eb = 4)

/-- `c` is the code with its flags of X with the sign `neg` rounded to a format (R37, R38): k is the exponent of X, s its
rounded significand at the format's spacing, and u the one with an unbounded exponent. -/
def Layout.Rounds (y : Layout) (r : RMode) (sat neg : Bool) (X : Magnitude) (c : Nat × FFlags) : Prop :=
  ∃ (k : Int) (s u : Nat), X.atLeast 1 k ∧ ¬ X.atLeast 1 (k + 1) ∧
    let q := max (k - y.t) (1 - y.bias - y.t)
    let exact : Prop := X.atLeast s q ∧ X.atMost s q
    let tiny : Prop := ¬ PowLe 1 (1 - y.bias) u (k - y.t)
    let toMax : Prop := sat = true ∨ (match r with
      | .rne => False
      | .rtz => True
      | .rup => neg = true
      | .rdn => neg = false)
    RoundsAt r neg X q s ∧ RoundsAt r neg X (k - y.t) u ∧ c.1 < 2 ^ (1 + y.eb + y.t) ∧
    (PowLe s q y.big y.top → (∃ m e, y.F.decode c.1 = .fin neg m e ∧ PowLe m e s q ∧ PowLe s q m e) ∧
      c.2 &&& (fNV ||| fDZ ||| fOF) = 0 ∧ (c.2 &&& fNX ≠ 0 ↔ ¬ exact) ∧ (c.2 &&& fUF ≠ 0 ↔ tiny ∧ ¬ exact)) ∧
    (¬ PowLe s q y.big y.top → c.2 = fOF ||| fNX ∧ (toMax → y.F.decode c.1 = .fin neg y.big y.top) ∧
      (¬ toMax → y.F.decode c.1 = if y.isE4M3 then .nan neg true (7 * 2 ^ 20) else .inf neg))

/-- `c` is the zero with the sign `neg`, without flags. -/
def Layout.Zero (y : Layout) (neg : Bool) (c : Nat × FFlags) : Prop :=
  c.1 < 2 ^ (1 + y.eb + y.t) ∧ (∃ e, y.F.decode c.1 = .fin neg 0 e) ∧ c.2 = 0

/-- `m` with a sign. -/
def signed (neg : Bool) (m : Nat) : Int := if neg then -(m : Int) else m

/-- ±m1 · 2^e1 plus ±m2 · 2^e2, in units of 2^(min e1 e2). -/
def sumIn (n1 : Bool) (m1 : Nat) (e1 : Int) (n2 : Bool) (m2 : Nat) (e2 : Int) : Int :=
  signed n1 (m1 * 2 ^ (e1 - min e1 e2).toNat) + signed n2 (m2 * 2 ^ (e2 - min e1 e2).toNat)

/-- `c` is the exact sum of two finite values, rounded (R37); of an exact zero the sign is the operands' or, where they differ, as
the mode says. -/
def Layout.RoundsSum (y : Layout) (r : RMode) (sat n1 : Bool) (m1 : Nat) (e1 : Int) (n2 : Bool) (m2 : Nat) (e2 : Int)
    (c : Nat × FFlags) : Prop :=
  let v := sumIn n1 m1 e1 n2 m2 e2
  (v = 0 → y.Zero (if n1 = n2 then n1 else decide (r = .rdn)) c) ∧
    (v ≠ 0 → y.Rounds r sat (decide (v < 0)) (dyadic v.natAbs (min e1 e2)) c)

/-- The order of the values that are no NaN. -/
def Less : FV → FV → Prop
  | .inf n, .inf m => n = true ∧ m = false
  | .inf n, .fin _ _ _ => n = true
  | .fin _ _ _, .inf m => m = false
  | .fin n1 m1 e1, .fin n2 m2 e2 => sumIn n1 m1 e1 (!n2) m2 e2 < 0
  | _, _ => False

/-- `c` is the IEEE minimum (`mx` false) or maximum of two codes of a format, neither a NaN (R40): −0 is below +0. -/
def IsExtreme (F : FFmt) (mx : Bool) (a b : Nat) (c : Nat × FFlags) : Prop :=
  let x := F.decode a
  let y := F.decode b
  let below : Prop := Less x y ∨ (¬ Less y x ∧ x.neg = true ∧ y.neg = false)
  let above : Prop := Less y x ∨ (¬ Less x y ∧ y.neg = true ∧ x.neg = false)
  c.2 = 0 ∧ (below → c.1 = if mx then b else a) ∧ (above → c.1 = if mx then a else b) ∧ (¬ below → ¬ above → c.1 = a)

/-- `c` is a NaN of sign `n`, quiet, with the top bits of payload `p` that fit (R40, R41). -/
def QuietNaN (y : Layout) (n : Bool) (p : Nat) (c : Nat) : Prop :=
  c < 2 ^ (1 + y.eb + y.t) ∧
    if y.isE4M3 then y.F.decode c = .nan n true (7 * 2 ^ 20)
    else ∃ p', y.F.decode c = .nan n true p' ∧ p' % 2 ^ (23 - y.t) = 0 ∧
      ∀ i, i < 22 → 23 - y.t ≤ i → p'.testBit i = p.testBit i

/-- The canonical form of everything stored as bytes: addresses strictly rising, and no entry equal to what an unlisted address
reads as. -/
structure MemoryCanonical (s : State) : Prop where
  phys : s.mem.phys.wf = true
  host : s.mem.host.wf = true
  dirty : s.mem.dirty.wf = true
  share : s.mem.share.wf = true
  keyTag : Sparse.wf 0 s.mem.keyTag = true
  blocks : ∀ e ∈ s.k.blocks, e.2.bmem.wf = true
  spills : ∀ e ∈ s.k.groups, e.2.spill.wf = true

/-- A safe step: the machine goes on with canonical memory, or the host has asked for an address that stands for no memory. -/
def SafeStep (s : State) : Prop := (∃ t, step s = .next t ∧ MemoryCanonical t) ∨ step s = .fault .unbackedAddress

end Sys2Proof.Claims
end

