-- ==== Sys2Proof/Certificates/Slice0/Obligations.lean ====
section
/-! DEFINITION. The statements about the model, for its provers. Each names the rules of the manual it formalises. -/
open Sys2Proof Sys2Proof.Machine Sys2Proof.Claims

/-! Scalar instructions. -/

/-- R179: the results of the two-operand and one-operand scalar instructions, with nothing else changed. -/
def Obligations.ScalarResultsOfR179 : Prop :=
  ∀ (s : State) (g : Group) (d a b : BitVec 7) (lit : Option Word) (c : BitVec 3),
    let va := g.rdS a
    let vb := lit.getD (g.rdS b)
    let n := if lit.isSome then 2 else 1
    let yields (v : Word) : Out := goes s ((g.wrS d v).adv n)
    let to1 (v : Word) : Out := goes s ((g.wrS d v).adv 1)
    (Ready s g { sc := (if lit.isSome then [d] else [d, b]).map (·.toNat) } → exec (.smov d b lit) s = yields vb) ∧
    (Ready s g { sc := [d.toNat, a.toNat] } →
      exec (.snot d a) s = to1 (BitVec.ofNat 32 (2 ^ 32 - 1 - va.toNat)) ∧
      (∀ z, LeadingZeros z va → exec (.sclz d a) s = to1 (BitVec.ofNat 32 z)) ∧
      exec (.spopc d a) s = to1 (BitVec.ofNat 32 (setBits va))) ∧
    (Ready s g (scalars d a b lit) →
      exec (.sadd d a b lit) s = yields (BitVec.ofNat 32 (va.toNat + vb.toNat)) ∧
      exec (.ssub d a b lit) s = yields (BitVec.ofInt 32 ((va.toNat : Int) - vb.toNat)) ∧
      exec (.smul d a b lit) s = yields (BitVec.ofInt 32 (va.toInt * vb.toInt)) ∧
      exec (.smulh d a b lit) s = yields (BitVec.ofInt 32 (va.toInt * vb.toInt / 2 ^ 32)) ∧
      exec (.smulhu d a b lit) s = yields (BitVec.ofNat 32 (va.toNat * vb.toNat / 2 ^ 32)) ∧
      exec (.sdivu d a b lit) s = yields (if vb = 0 then 0xFFFFFFFF else BitVec.ofNat 32 (va.toNat / vb.toNat)) ∧
      exec (.sremu d a b lit) s = yields (if vb = 0 then va else BitVec.ofNat 32 (va.toNat % vb.toNat)) ∧
      exec (.sand d a b lit) s = yields (va &&& vb) ∧
      exec (.sor d a b lit) s = yields (va ||| vb) ∧
      exec (.sxor d a b lit) s = yields (va ^^^ vb) ∧
      exec (.sshl d a b lit) s = yields (BitVec.ofNat 32 (va.toNat * 2 ^ vb.toNat)) ∧
      exec (.sshr d a b lit) s = yields (BitVec.ofNat 32 (va.toNat / 2 ^ vb.toNat)) ∧
      exec (.ssar d a b lit) s = yields (arithRight va vb) ∧
      exec (.smin d a b lit) s = yields (if va.toInt ≤ vb.toInt then va else vb) ∧
      exec (.smax d a b lit) s = yields (if vb.toInt ≤ va.toInt then va else vb) ∧
      exec (.sminu d a b lit) s = yields (if va.toNat ≤ vb.toNat then va else vb) ∧
      exec (.smaxu d a b lit) s = yields (if vb.toNat ≤ va.toNat then va else vb) ∧
      exec (.scmp c d a b lit) s = yields (if holds c va vb then 1 else 0))

/-- R180, R181: the scalar instructions that also read S[d], and those with an immediate. -/
def Sys2Proof.Claims.ScalarFieldAndImmediateResults : Prop :=
  (∀ (s : State) (g : Group) (d a b : BitVec 7) (lit : Option Word), Ready s g (scalars d a b lit) →
      let va := g.rdS a
      let vb := lit.getD (g.rdS b)
      let yields (v : Word) : Out := goes s ((g.wrS d v).adv (if lit.isSome then 2 else 1))
      exec (.ssel d a b lit) s = yields (if g.rdS d ≠ 0 then va else vb) ∧
      (∀ v, IsExtract v va vb → exec (.sbfx d a b lit) s = yields v) ∧
      (∀ v, IsInsert v va vb (g.rdS d) → exec (.sbfi d a b lit) s = yields v)) ∧
  (∀ (s : State) (g : Group) (d a : BitVec 7) (i : BitVec 10) (j : BitVec 17) (c : BitVec 3),
      let va := g.rdS a
      let yields (v : Word) : Out := goes s ((g.wrS d v).adv 1)
      (Ready s g { sc := [d.toNat] } →
        exec (.smovi d j) s = yields (BitVec.ofInt 32 j.toInt) ∧
        exec (.slui d j) s = yields (BitVec.ofNat 32 (j.toNat * 2 ^ 15 + (g.rdS d).toNat % 2 ^ 15))) ∧
      (Ready s g { sc := [d.toNat, a.toNat] } →
        exec (.saddi d a i) s = yields (BitVec.ofInt 32 (va.toInt + i.toInt)) ∧
        exec (.sandi d a i) s = yields (va &&& BitVec.ofNat 32 i.toNat) ∧
        exec (.sori d a i) s = yields (va ||| BitVec.ofNat 32 i.toNat) ∧
        exec (.sxori d a i) s = yields (va ^^^ BitVec.ofNat 32 i.toNat) ∧
        exec (.scmpi c d a i) s =
          yields (if holds c va (if c.toNat < 6 then BitVec.ofInt 32 i.toInt else BitVec.ofNat 32 i.toNat) then 1 else 0)))

/-- R182: the mask instructions over masks and scalars, and EXMRD and EXMWR. -/
def Sys2Proof.Claims.MaskInstructionResults : Prop :=
  ∀ (s : State) (g : Group) (d a b : BitVec 4) (sd sa sb : BitVec 7),
    let toM (v : Word64) : Out := goes s ((g.wrM d v).adv 1)
    let toS (v : Word) : Out := goes s ((g.wrS sd v).adv 1)
    (Ready s g { msk := [d, a] } →
      exec (.mmov d a) s = toM (g.rdM a) ∧
      exec (.mnot d a) s = toM (BitVec.ofNat 64 (2 ^ 64 - 1 - (g.rdM a).toNat))) ∧
    (Ready s g { msk := [d, a, b] } →
      exec (.mand d a b) s = toM (g.rdM a &&& g.rdM b) ∧
      exec (.mor d a b) s = toM (g.rdM a ||| g.rdM b) ∧
      exec (.mxor d a b) s = toM (g.rdM a ^^^ g.rdM b)) ∧
    (Ready s g { msk := [a], sc := [sd.toNat] } →
      exec (.mpopc sd a) s = toS (BitVec.ofNat 32 (setBits (g.rdM a))) ∧
      (∀ i, LowestSet i (g.rdM a) → exec (.mffs sd a) s = toS (BitVec.ofNat 32 i))) ∧
    (Ready s g { msk := [a], sc := [sd.toNat, sd.toNat + 1] } → sd.toNat < 0x7F →
      exec (.mtos sd a) s = goes s (((g.wrS sd (BitVec.ofNat 32 (g.rdM a).toNat)).wrS (sd + 1)
        (BitVec.ofNat 32 ((g.rdM a).toNat / 2 ^ 32))).adv 1)) ∧
    (Ready s g { msk := [d], sc := [sa.toNat, sb.toNat] } →
      exec (.mfroms d sa sb) s = toM (BitVec.ofNat 64 ((g.rdS sb).toNat * 2 ^ 32 + (g.rdS sa).toNat))) ∧
    (Ready s g { msk := [d] } → exec (.exmrd d) s = toM g.exm) ∧
    (Ready s g { msk := [a] } → exec (.exmwr a) s = goes s (({ g with exm := g.rdM a &&& g.pth }).adv 1))

/-- SSEL, SBFX, SBFI, the immediates and the mask instructions: results and frame: ScalarFieldAndImmediateResults
and MaskInstructionResults. -/
def Obligations.ScalarFieldImmediateAndMaskResults : Prop :=
  ScalarFieldAndImmediateResults ∧ MaskInstructionResults

/-- R161, R163: a register written reads as written, and every other register of the group as before. -/
def Sys2Proof.Claims.GroupRegisterFiles : Prop :=
  ∀ (g : Group),
    (∀ (d c : BitVec 7) (v : Word), (g.wrS d v).rdS c = if c = d then v else g.rdS c) ∧
    (∀ (d : BitVec 7) (v : Word) (n : Nat), n ≠ g.bs + d.toNat → (g.wrS d v).sget' n = g.sget' n) ∧
    (∀ (d c : BitVec 4) (v : Word64), (g.wrM d v).rdM c = if c = d then v else g.rdM c) ∧
    (∀ (d c : BitVec 4) (v : BitVec 256), (g.wrK d v).rdK c = if c = d then v else g.rdK c) ∧
    (∀ (n k l j : Nat) (v : Word), n < 512 → k < 512 → g.sliceGone l = false →
      (g.vset n l v).vget k j = if k = n ∧ j = l then v else g.vget k j) ∧
    (∀ (l j : Nat) (f : BitVec 5), (g.setFlags l f).flags j = if j = l then f else g.flags j)

/-! The flow of a clause. -/

/-- R163, R170, R172: the next word of a clause, or the boundary after its last, where the windows that WIN set come into
force; no register, mask, flag or execution mask changes. -/
def Sys2Proof.Claims.WordsFollowEachOther : Prop :=
  ∀ (g : Group) (n t : Nat), g.yieldTo = none →
    let k := if g.ih then g.nIssued else g.nIssued + 1
    let at' (p : Nat) : Group := { g with
      nIssued := k, bv := g.nbv, bs := g.nbs, age := if g.yld then 0 else g.age, status := .boundary, pc := p }
    (g.pc + 4 * n < g.cend → g.adv n = { g with nIssued := k, status := .issuing, pc := g.pc + 4 * n }) ∧
    (g.cend ≤ g.pc + 4 * n → g.adv n = at' g.cend) ∧
    g.jump t = at' t

/-- A group's registers read as written, and how one word follows another in a clause: GroupRegisterFiles and
WordsFollowEachOther. -/
def Obligations.RegistersAndWords : Prop :=
  GroupRegisterFiles ∧ WordsFollowEachOther

/-- R66, R79, R183: a transfer stands last in its clause, or raises ILLEGAL_CLAUSE; it goes to a target within the image's
code, or raises BOUNDS. That a conditional transfer raises it whether or not it is taken is the model's reading (log 39). -/
def Sys2Proof.Claims.TransfersGoToTheirTargets : Prop :=
  (∀ (s : State) (g : Group) (r : BitVec 7) (o : BitVec 17) (j : BitVec 3) (m : BitVec 4) (c : BitVec 16),
      s.group? s.cur = some g → ¬ Last g →
      ∀ i ∈ [Instr.bra o, .brc r o, .brcZ r o, .brv j m o, .join j, .call r o, .ret r, .yieldW, .exit, .trap c, .rft],
        exec i s = traps s g cIllegalClause) ∧
  (∀ (s : State) (g : Group) (j : BitVec 3) (m : BitVec 4) (o : BitVec 17), Last g → Ready s g { msk := [m] } →
      ¬ InCode g (branchTarget g o) → exec (.brv j m o) s = traps s g cBounds) ∧
  (∀ (s : State) (g : Group) (r : BitVec 7) (o : BitVec 17), Last g → NothingHeld g →
      let t := branchTarget g o
      (Ready s g {} → InCode g t → exec (.bra o) s = goes s (g.jump t.toNat)) ∧
      (Ready s g {} → ¬ InCode g t → exec (.bra o) s = traps s g cBounds) ∧
      (Ready s g { sc := [r.toNat] } →
        (InCode g t →
          exec (.brc r o) s = goes s (g.jump (if g.rdS r ≠ 0 then t.toNat else g.cend)) ∧
          exec (.brcZ r o) s = goes s (g.jump (if g.rdS r = 0 then t.toNat else g.cend)) ∧
          exec (.call r o) s = goes s ((g.wrS r (BitVec.ofNat 32 g.cend)).jump t.toNat)) ∧
        (¬ InCode g t → ∀ i ∈ [Instr.brc r o, .brcZ r o, .call r o], exec i s = traps s g cBounds) ∧
        ((g.rdS r).toNat % 4 ≠ 0 → exec (.ret r) s = traps s g cIllegalClause) ∧
        ((g.rdS r).toNat % 4 = 0 → InCode g (g.rdS r).toNat → exec (.ret r) s = goes s (g.jump (g.rdS r).toNat)) ∧
        ((g.rdS r).toNat % 4 = 0 → ¬ InCode g (g.rdS r).toNat → exec (.ret r) s = traps s g cBounds)))

/-- R165: BRV. -/
def Sys2Proof.Claims.BranchSplitsTheGroup : Prop :=
  ∀ (s : State) (g : Group) (j : BitVec 3) (m : BitVec 4) (o : BitVec 17), Last g → NothingHeld g → Ready s g { msk := [m] } →
    InCode g (branchTarget g o) →
    let t := (branchTarget g o).toNat
    let tk := g.exm &&& g.rdM m
    let nt := g.exm &&& ~~~ g.rdM m
    let ejects (stay out : Lanes) (pc yields : Nat) : Out :=
      goes s (({ g with
        exm := stay, pth := g.pth &&& ~~~ out
        conts := { pc := pc, mask := out, j := j.toNat, inHandler := g.ih } :: g.conts
        J := sset 0 g.J j.toNat (g.joinCount j.toNat + 1) }).jump yields)
    exec (.brv j m o) s =
      if tk = 0 then goes s (g.jump g.cend)
      else if nt = 0 then goes s (g.jump t)
      else if setBits nt ≤ setBits tk then ejects tk nt g.cend t
      else ejects nt tk t g.cend

/-- R166, R167, R168: JOIN merges once Jj is 0; else its lanes are held, and the re-entry that it asks of the cluster's
outrider brings back the continuation ejected last with that counter: PTH and EXM become its lanes, its counter falls by 1
and the group continues at its offset. -/
def Sys2Proof.Claims.JoinMergesOrReenters : Prop :=
  (∀ (s : State) (g : Group) (j : BitVec 3), Last g → Ready s g {} →
      let h := g.hold j.toNat
      (g.joinCount j.toNat = 0 → exec (.join j) s =
        goes s (({ (g.setHold j.toNat emptyHold) with pth := g.pth ||| h.hp, exm := g.exm ||| h.ha }).jump g.cend)) ∧
      (∀ c, g.joinCount j.toNat ≠ 0 → g.conts.find? (fun k => decide (k.j = j.toNat)) = some c →
        ∃ g', exec (.join j) s = goes s g' ∧ g'.reenter = some c ∧ g'.exm = 0 ∧ g'.pth = 0 ∧ g'.conts = g.conts ∧
          g'.live = g.live ∧ g'.J = g.J ∧ (g'.hold j.toNat).hp = (h.hp ||| g.pth) ∧ (g'.hold j.toNat).ha = (h.ha ||| g.exm))) ∧
  (∀ (s : State) (g : Group) (id cl : Nat) (c : Cont) (pre post : List (Nat × Group)),
      outriderFree s cl = true → s.k.groups = pre ++ (id, g) :: post → (∀ e ∈ pre, e.2.reenter = none) →
      g.outrider = none → Config.clusterOf g.core = cl → g.reenter = some c → c ∈ g.conts → g.saved = false →
      (s.ctx g.cx).st = 1 → g.status = .boundary →
      exec (.continuationReentry cl) s = .next (s.setGroup id { g with
        conts := g.conts.erase c, J := sset 0 g.J c.j (g.joinCount c.j - 1)
        pth := c.mask, exm := c.mask, pc := c.pc, reenter := none }))

/-- BRV splits a group; JOIN merges it again or a continuation re-enters: BranchSplitsTheGroup and
JoinMergesOrReenters. -/
def Obligations.PathsSplitAndJoin : Prop :=
  BranchSplitsTheGroup ∧ JoinMergesOrReenters

/-- R163, R185, R186, R187: WIN, SYNCF, NOP and YIELD. -/
def Sys2Proof.Claims.WindowsAndWaits : Prop :=
  ∀ (s : State) (g : Group) (n : BitVec 17) (f : BitVec 12), Ready s g {} →
    (16 * n.toNat < g.nregs → exec (.winV n) s = goes s (({ g with nbv := 16 * n.toNat }).adv 1)) ∧
    (g.nregs ≤ 16 * n.toNat → exec (.winV n) s = traps s g cWindowRange) ∧
    (n.toNat < g.sblk → exec (.winS n) s = goes s (({ g with nbs := 128 * n.toNat }).adv 1)) ∧
    (g.sblk ≤ n.toNat → exec (.winS n) s = traps s g cWindowRange) ∧
    ((∀ k, k < 12 → f.getLsbD k → g.count k = 0) → exec (.syncf f) s = goes s (g.adv 1)) ∧
    ((∃ k, k < 12 ∧ f.getLsbD k ∧ g.count k ≠ 0) →
      exec (.syncf f) s = goes s { g with status := .stalled (.syncf f) }) ∧
    exec .nop s = goes s (g.adv 1) ∧
    (Last g → exec .yieldW s = goes s { (g.jump g.cend) with age := 0, yielding := true })

/-- Branches, CALL and RET go to their targets or trap; WIN, SYNCF, NOP and YIELD: TransfersGoToTheirTargets and
WindowsAndWaits. -/
def Obligations.TransfersAndWaits : Prop :=
  TransfersGoToTheirTargets ∧ WindowsAndWaits

/-! Special registers, exits, the program-error handler. -/

/-- R177, R190: what SRD reads of a group of lanes, a read of `CYCL` latching `CYCH`; SWR writes the handler registers
while IH = 1, is ignored on them while IH = 0, and on `BRD` acts as BND.SET. -/
def Obligations.SpecialRegisters : Prop :=
  (∀ (s : State) (g : Group) (b : Block) (gr : Grid) (d : BitVec 7), Ready s g { sc := [d.toNat] } →
      g.outrider = none → s.block? g.block = some b → s.grid? g.grid = some gr →
      let yields (n : BitVec 7) (v : Word) : Prop := exec (.srd d n) s = goes s ((g.wrS d v).adv 1)
      let nat (n : BitVec 7) (v : Nat) : Prop := yields n (BitVec.ofNat 32 v)
      (nat 0x00 g.gidx ∧ nat 0x01 b.b ∧ nat 0x08 b.threads ∧ nat 0x09 g.width ∧ nat 0x0A g.nregs ∧ nat 0x0C g.core) ∧
      (gr.node = none →
        nat 0x02 (b.b % gr.gx) ∧ nat 0x03 (b.b / gr.gx % gr.gy) ∧ nat 0x04 (b.b / (gr.gx * gr.gy)) ∧
        nat 0x05 gr.gx ∧ nat 0x06 gr.gy ∧ nat 0x07 gr.gz ∧
        (gr.det = false → nat 0x0B (b.cores.length * b.b + b.cores.idxOf g.core))) ∧
      (nat 0x10 g.brd.toNat ∧ nat 0x11 (g.bs * 2 ^ 16 + g.bv) ∧ nat 0x27 (g.fbs * 2 ^ 16 + g.fbv)) ∧
      (nat 0x12 (g.pth.toNat % 2 ^ 32) ∧ nat 0x13 (g.pth.toNat / 2 ^ 32) ∧ nat 0x14 (g.live.toNat % 2 ^ 32) ∧
        nat 0x15 (g.live.toNat / 2 ^ 32) ∧ nat 0x16 (g.hlp.toNat % 2 ^ 32) ∧ nat 0x17 (g.hlp.toNat / 2 ^ 32)) ∧
      (∀ v : Word, (∀ i, i < 32 → v.getLsbD i = (decide (i < 12) && decide (g.count i ≠ 0))) → yields 0x18 v) ∧
      exec (.srd d 0x1C) s =
        goes s ((({ g with cychL := BitVec.ofNat 32 (s.cycle / 2 ^ 32) }).wrS d (BitVec.ofNat 32 s.cycle)).adv 1) ∧
      (yields 0x1D g.cychL ∧ yields 0x20 g.fcla ∧ yields 0x21 g.fres ∧ yields 0x22 g.fcau ∧ nat 0x23 (g.fln.toNat % 2 ^ 32) ∧
        nat 0x24 (g.fln.toNat / 2 ^ 32) ∧ nat 0x25 (g.fex.toNat % 2 ^ 32) ∧ nat 0x26 (g.fex.toNat / 2 ^ 32) ∧
        yields 0x28 g.foff ∧ yields 0x29 g.frec ∧ yields 0x2A g.forg)) ∧
  (∀ (s : State) (g : Group) (a n : BitVec 7), Ready s g { sc := [a.toNat] } →
      let v := g.rdS a
      let yields (n : BitVec 7) (g' : Group) : Prop := exec (.swr n a) s = goes s (g'.adv 1)
      (g.ih = true →
        yields 0x20 { g with fcla := v } ∧ yields 0x21 { g with fres := v } ∧
        yields 0x22 { g with fcau := BitVec.ofNat 32 (v.toNat % 2 ^ 24) } ∧
        yields 0x23 { g with fln := BitVec.ofNat 64 (g.fln.toNat / 2 ^ 32 * 2 ^ 32 + v.toNat) } ∧
        yields 0x24 { g with fln := BitVec.ofNat 64 (v.toNat * 2 ^ 32 + g.fln.toNat % 2 ^ 32) } ∧
        yields 0x25 { g with fex := BitVec.ofNat 64 (g.fex.toNat / 2 ^ 32 * 2 ^ 32 + v.toNat) } ∧
        yields 0x26 { g with fex := BitVec.ofNat 64 (v.toNat * 2 ^ 32 + g.fex.toNat % 2 ^ 32) }) ∧
      (g.ih = false → n ≠ 0x10 → yields n g) ∧
      exec (.swr 0x10 a) s = exec (.bndSet a) s)

/-- R187, R176, R167: EXIT takes the active lanes from LIVE and PTH; the path goes on, or another path is asked for, or the
group ends. -/
def Sys2Proof.Claims.ExitRemovesLanes : Prop :=
  ∀ (s : State) (g : Group), s.group? s.cur = some g → Last g → g.dfaults = [] →
    let live := g.live &&& ~~~ g.exm
    let pth := g.pth &&& ~~~ g.exm
    let asks (c : Cont) : Prop := ∃ g', exec .exit s = goes s g' ∧ g'.live = live ∧ g'.pth = 0 ∧ g'.exm = 0 ∧
      g'.reenter = some c ∧ g'.conts = g.conts ∧ g'.holds = g.holds
    (g.ih = false → g.outrider = none →
      (pth ≠ 0 → exec .exit s = goes s (({ g with live := live, pth := pth, exm := pth }).jump g.cend)) ∧
      (pth = 0 → ∀ c r, g.conts = c :: r → asks c) ∧
      (pth = 0 → g.conts = [] → ∀ j, j < 8 → (∀ i, i < j → (g.hold i).hp = 0) → (g.hold j).hp ≠ 0 →
        asks { pc := (g.hold j).after, mask := (g.hold j).hp, j := j, inHandler := false })) ∧
    (g.ih = true ∨ (g.outrider = none ∧ pth = 0 ∧ g.conts = [] ∧ ∀ j, j < 8 → (g.hold j).hp = 0) →
      ∃ t e, exec .exit s = .next t ∧ t.group? s.cur = some e ∧ e.status = .ended ∧ e.live = 0 ∧ e.pth = 0 ∧ e.exm = 0 ∧
        ∀ k, k ≠ s.cur → t.group? k = s.group? k)

/-- R175, R188: what taking a trapping fault saves and where the group goes; every register, mask and flag is kept, and so is
everything outside the group but the cause that its grid records (R142) and the leave that the group asked for or was granted
for an operation it has not issued (R390). TRAP takes one with its code. That windows WIN has set but not yet brought into force
are lost at the entry is the model's reading (log 27). -/
def Sys2Proof.Claims.TrapEntersTheHandler : Prop :=
  (∀ (s : State) (id : Nat) (g : Group) (t : Trap), g.ih = false → handlerOf s g ≠ 0 → g.outrider = none →
      g.status ≠ .boundary →
      let s' := takeTrap s id g t
      s'.group? id = some { g with
        fcla := BitVec.ofNat 32 g.cla
        fres := BitVec.ofNat 32 (if t.cause = cTrap then g.cend else g.pc)
        fcau := BitVec.ofNat 32 (t.code.toNat * 256 + t.cause.toNat)
        fln := t.lanes.getD g.exm, fex := g.exm, fbv := g.bv, fbs := g.bs
        foff := BitVec.ofInt 32 t.off, frec := BitVec.ofNat 32 t.kreg, forg := BitVec.ofNat 32 (originOf s g g.pc).2
        bv := 0, bs := 0, nbv := 0, nbs := 0, ih := true, status := .boundary, pc := handlerOf s g
        traps := g.traps + 1 } ∧
      (∀ k, k ≠ id → s'.group? k = s.group? k) ∧ s'.mem = s.mem ∧ s'.cx = s.cx ∧ s'.q = s.q ∧ s'.cores = s.cores ∧
      s'.br = s.br ∧ s'.reins = s.reins ∧ s'.fq = s.fq ∧ s'.k.blocks = s.k.blocks ∧
      (let asks (u : State) : List Nat := sget [] u.care.grants (Config.dieOfCore g.core) ++ sget [] u.care.asking (Config.dieOfCore g.core)
       id ∉ asks s' ∧ (id ∉ asks s → s'.care = s.care) ∧
        s'.care = { s.care with grants := s'.care.grants, asking := s'.care.asking })) ∧
  (∀ (s : State) (g : Group) (c : BitVec 16), Ready s g {} → Last g →
      exec (.trap c) s = .next (takeTrap s s.cur g { cause := 0x30, code := c }))

/-- R142, R175: with no handler, or within it, a trapping fault puts the context into the faulted state with `why` 0x04,
and its queues halt. -/
def Sys2Proof.Claims.TrapWithoutHandlerFaultsTheContext : Prop :=
  ∀ (s : State) (id : Nat) (g : Group) (t : Trap), g.ih = true ∨ handlerOf s g = 0 →
    (s.ctx g.cx).st = 1 ∨ (s.ctx g.cx).st = 3 →
    ((takeTrap s id g t).ctx g.cx).st = 4 ∧ ((takeTrap s id g t).ctx g.cx).why = 4 ∧
    (∀ c, c ≠ g.cx → (takeTrap s id g t).ctx c = s.ctx c) ∧
    (∀ e ∈ (takeTrap s id g t).q.qs, e.2.cx = g.cx → e.2.st ≠ 1 ∧ e.2.st ≠ 2) ∧ (takeTrap s id g t).mem = s.mem

/-- A trapping fault: what is saved and where the group goes, or the context faults: TrapEntersTheHandler and
TrapWithoutHandlerFaultsTheContext. -/
def Obligations.TrapsAreTaken : Prop :=
  TrapEntersTheHandler ∧ TrapWithoutHandlerFaultsTheContext

/-- R176, R189: RFT restores EXM within PTH, the windows and IH = 0, and resumes at the clause of the fault, at the clause
after it, or at the instruction that FRES names; else it raises ILLEGAL_CLAUSE. R249, R253: where a page of that clause does
not translate, the group parks at the RFT, within the handler (the model's reading, log 38). That the windows to come are the
restored ones is the model's reading too (log 27), and that no clause stands at a misaligned FCLA (log 144). -/
def Sys2Proof.Claims.ReturnFromTheHandler : Prop :=
  ∀ (s : State) (g : Group), Ready s g {} → Last g →
    let back : Group := { g with exm := g.fex &&& g.pth, bv := g.fbv, bs := g.fbs, nbv := g.fbv, nbs := g.fbs, ih := false }
    (g.ih = false ∨ (∃ c ∈ g.conts, c.inHandler = true) ∨ g.fcla.toNat % 4 ≠ 0 → exec .rft s = traps s g cIllegalClause) ∧
    (g.ih = true → (∀ c ∈ g.conts, c.inHandler = false) → g.fcla.toNat % 4 = 0 →
      (g.fres = g.fcla → InCode g g.fcla.toNat →
        exec .rft s = goes s { back with status := .boundary, pc := g.fcla.toNat }) ∧
      (∀ h starts after, g.fres ≠ g.fcla → clauseAt s g g.fcla.toNat = .ok (some (h, starts, after)) →
        (g.fres.toNat = after → InCode g after →
          exec .rft s = goes s { back with status := .boundary, pc := after }) ∧
        (g.fres.toNat ≠ after → g.fres.toNat ∈ starts → InCode g g.fres.toNat →
          exec .rft s = goes s { back with
            status := .issuing, pc := g.fres.toNat, cla := g.fcla.toNat, cend := after
            seta := h.seta, setb := h.setb, yld := h.yld }) ∧
        (g.fres.toNat ≠ after → g.fres.toNat ∉ starts → exec .rft s = traps s g cIllegalClause)) ∧
      (g.fres ≠ g.fcla → clauseAt s g g.fcla.toNat = .ok none → exec .rft s = traps s g cIllegalClause) ∧
      (∀ fs, g.fres ≠ g.fcla → clauseAt s g g.fcla.toNat = .error fs →
        ∃ t p, exec .rft s = .next t ∧ t.group? s.cur = some { g with status := .parked, park := some p } ∧
          t.mem.phys = s.mem.phys ∧ t.cx = s.cx))

/-- R188, R254: BRK parks the group with EXM unfinished, and a record of a breakpoint with its code waits for the fault
queue; registers and masks keep their values. -/
def Sys2Proof.Claims.BreakpointParks : Prop :=
  ∀ (s : State) (g : Group) (c : BitVec 16), Ready s g {} → g.outrider = none →
    ∃ t g' r op o, exec (.brk c) s = .next t ∧ t.group? s.cur = some g' ∧
      g' = { g.counted with status := .parked, park := some op } ∧
      t.op? op = some o ∧ o.left = g.exm ∧ t.fq.waiting = s.fq.waiting ++ [[r]] ∧
      r.extractLsb' 0 8 = cBreakpoint ∧ r.extractLsb' 8 16 = c ∧ r.extractLsb' 96 64 = g.exm ∧
      t.mem.phys = s.mem.phys ∧ t.mem.host = s.mem.host ∧ t.cx = s.cx ∧ t.q = s.q ∧ t.reins = s.reins

/-- EXIT removes lanes, RFT returns from the handler, BRK parks: ExitRemovesLanes, ReturnFromTheHandler and
BreakpointParks. -/
def Obligations.GroupsLeaveAndPark : Prop :=
  ExitRemovesLanes ∧ ReturnFromTheHandler ∧ BreakpointParks

/-! Lane instructions. -/

/-- R159, R162, R191, R192: a vector result reaches the named destination and the flags of the active lanes, and is pushed
once; every other register, the flag words of other lanes, and the entries of every queue are as before or move by one. -/
def Obligations.LaneResultsAreDelivered : Prop :=
  ∀ (g : Group) (d : BitVec 7) (r : Nat → Word × FFlags), g.width ≤ 64 → g.bv + d.toNat < 0x210 →
    let h := g.result d r
    let v := g.bv + d.toNat - 0x10
    (∀ l, l < g.width → g.exm.getLsbD l → g.sliceGone l = false →
      (0x10 ≤ d.toNat → h.vget v l = (r l).1) ∧ h.flags l = (g.flags l ||| (r l).2) ∧
      h.qentry 0 l = { val := (r l).1, pend := none }) ∧
    (∀ n l, n < 512 → (d.toNat < 0x10 ∨ n ≠ v ∨ g.exm.getLsbD l = false) → h.vget n l = g.vget n l) ∧
    (∀ l, l < g.width → g.exm.getLsbD l = false → h.flags l = g.flags l ∧ h.qentry 0 l = g.qentry 0 l) ∧
    (∀ l k, l < g.width → k < 15 → h.qentry (k + 1) l = g.qentry k l) ∧
    h.S = g.S ∧ h.M = g.M ∧ h.K = g.K ∧ h.F = g.F ∧ h.exm = g.exm ∧ h.pth = g.pth ∧ h.live = g.live ∧ h.pc = g.pc

/-- R191, R198, R200: the integer lane instructions over vector operands. -/
def Sys2Proof.Claims.LaneIntegerResults : Prop :=
  ∀ (s : State) (g : Group) (d a b : BitVec 7) (m : Option Mod) (y : Mod) (sh : BitVec 2),
    let x := modOf m
    let A (l : Nat) : Word := g.src a x.swzA l
    let B (l : Nat) : Word := g.src b x.swzB l
    let yields (f : Nat → Word) : Out := goes s ((g.result d (fun l => (f l, 0))).adv (if m.isSome then 2 else 1))
    (Ready s g (vuses d [(a, x.swzA)]) →
      exec (.vmov d a m) s = yields A ∧
      exec (.vabs d a m) s = yields (fun l => BitVec.ofNat 32 (A l).toInt.natAbs) ∧
      exec (.vneg d a m) s = yields (fun l => BitVec.ofInt 32 (0 - (A l).toInt)) ∧
      exec (.vnot d a m) s = yields (fun l => BitVec.ofNat 32 (2 ^ 32 - 1 - (A l).toNat)) ∧
      (∀ z : Nat → Nat, (∀ l, LeadingZeros (z l) (A l)) → exec (.vclz d a m) s = yields (fun l => BitVec.ofNat 32 (z l))) ∧
      exec (.vpopc d a m) s = yields (fun l => BitVec.ofNat 32 (setBits (A l)))) ∧
    (Ready s g (vuses d [(a, x.swzA), (b, x.swzB)]) →
      exec (.vadd d a b m) s = yields (fun l => BitVec.ofNat 32 ((A l).toNat + (B l).toNat)) ∧
      exec (.vsub d a b m) s = yields (fun l => BitVec.ofInt 32 ((A l).toInt - (B l).toInt)) ∧
      exec (.vadds d a b m) s =
        yields (fun l => BitVec.ofInt 32 (max (-2 ^ 31) (min (2 ^ 31 - 1) ((A l).toInt + (B l).toInt)))) ∧
      exec (.vsubs d a b m) s =
        yields (fun l => BitVec.ofInt 32 (max (-2 ^ 31) (min (2 ^ 31 - 1) ((A l).toInt - (B l).toInt)))) ∧
      exec (.vmul d a b m) s = yields (fun l => BitVec.ofInt 32 ((A l).toInt * (B l).toInt)) ∧
      exec (.vmulh d a b m) s = yields (fun l => BitVec.ofInt 32 ((A l).toInt * (B l).toInt / 2 ^ 32)) ∧
      exec (.vmulhu d a b m) s = yields (fun l => BitVec.ofNat 32 ((A l).toNat * (B l).toNat / 2 ^ 32)) ∧
      exec (.vmin d a b m) s = yields (fun l => if (A l).toInt ≤ (B l).toInt then A l else B l) ∧
      exec (.vmax d a b m) s = yields (fun l => if (B l).toInt ≤ (A l).toInt then A l else B l) ∧
      exec (.vminu d a b m) s = yields (fun l => if (A l).toNat ≤ (B l).toNat then A l else B l) ∧
      exec (.vmaxu d a b m) s = yields (fun l => if (B l).toNat ≤ (A l).toNat then A l else B l) ∧
      exec (.vand d a b m) s = yields (fun l => A l &&& B l) ∧
      exec (.vor d a b m) s = yields (fun l => A l ||| B l) ∧
      exec (.vxor d a b m) s = yields (fun l => A l ^^^ B l) ∧
      exec (.vshl d a b m) s = yields (fun l => BitVec.ofNat 32 ((A l).toNat * 2 ^ (B l).toNat)) ∧
      exec (.vshr d a b m) s = yields (fun l => BitVec.ofNat 32 ((A l).toNat / 2 ^ (B l).toNat)) ∧
      exec (.vsar d a b m) s = yields (fun l => arithRight (A l) (B l)) ∧
      (∀ z : Nat → Word, (∀ l, IsExtract (z l) (A l) (B l)) → exec (.vbfx d a b m) s = yields z) ∧
      exec (.vlea sh d a b m) s = yields (fun l => BitVec.ofNat 32 ((A l).toNat + (B l).toNat * 2 ^ sh.toNat))) ∧
    (Ready s g (vuses d [(a, y.swzA), (b, y.swzB), (y.codeC, y.swzC)]) →
      let P (l : Nat) : Word := g.src a y.swzA l
      let Q (l : Nat) : Word := g.src b y.swzB l
      let C (l : Nat) : Word := g.src y.codeC y.swzC l
      let to3 (f : Nat → Word) : Out := goes s ((g.result d (fun l => (f l, 0))).adv 2)
      exec (.vmad d a b y) s = to3 (fun l => BitVec.ofInt 32 ((P l).toInt * (Q l).toInt + (C l).toInt)) ∧
      (∀ z : Nat → Word, (∀ l, IsInsert (z l) (P l) (Q l) (C l)) → exec (.vbfi d a b y) s = to3 z))

/-- R191, R198, R199: lane instructions with an immediate, a scalar or no operand. -/
def Sys2Proof.Claims.LaneImmediateResults : Prop :=
  ∀ (s : State) (g : Group) (d a : BitVec 7) (i : BitVec 10) (j : BitVec 17),
    let A (l : Nat) : Word := g.src a 0 l
    let S : Int := i.toInt
    let U : Nat := i.toNat
    let yields (f : Nat → Word) : Out := goes s ((g.result d (fun l => (f l, 0))).adv 1)
    (Ready s g { vw := [d.toNat], sc := [a.toNat] } → exec (.vbcast d a) s = yields (fun _ => g.rdS a)) ∧
    (Ready s g { vw := [d.toNat] } →
      exec (.vlane d) s = yields (fun l => BitVec.ofNat 32 l) ∧
      exec (.vmovi d j) s = yields (fun _ => BitVec.ofInt 32 j.toInt)) ∧
    (Ready s g (vuses d [(a, 0)]) →
      exec (.vaddVri d a i) s = yields (fun l => BitVec.ofInt 32 ((A l).toInt + S)) ∧
      exec (.vmulVri d a i) s = yields (fun l => BitVec.ofInt 32 ((A l).toInt * S)) ∧
      exec (.vandVri d a i) s = yields (fun l => A l &&& BitVec.ofInt 32 S) ∧
      exec (.vorVri d a i) s = yields (fun l => A l ||| BitVec.ofInt 32 S) ∧
      exec (.vxorVri d a i) s = yields (fun l => A l ^^^ BitVec.ofInt 32 S) ∧
      exec (.vshlVri d a i) s = yields (fun l => BitVec.ofNat 32 ((A l).toNat * 2 ^ U)) ∧
      exec (.vshrVri d a i) s = yields (fun l => BitVec.ofNat 32 ((A l).toNat / 2 ^ U)) ∧
      exec (.vsarVri d a i) s = yields (fun l => BitVec.ofInt 32 ((A l).toInt / 2 ^ U)) ∧
      exec (.vminVri d a i) s = yields (fun l => if (A l).toInt ≤ S then A l else BitVec.ofInt 32 S) ∧
      exec (.vmaxVri d a i) s = yields (fun l => if S ≤ (A l).toInt then A l else BitVec.ofInt 32 S) ∧
      exec (.vminuVri d a i) s = yields (fun l => if (A l).toNat ≤ U then A l else BitVec.ofNat 32 U) ∧
      exec (.vmaxuVri d a i) s = yields (fun l => if U ≤ (A l).toNat then A l else BitVec.ofNat 32 U))

/-- Integer lane instructions: results and frame: LaneIntegerResults and LaneImmediateResults. -/
def Obligations.IntegerLaneResults : Prop :=
  LaneIntegerResults ∧ LaneImmediateResults

/-- R201, R202: the compares write the active lanes' bits of one mask, keep its other bits and push nothing; FCMP raises
NV as its table says; VSEL chooses by a mask. -/
def Obligations.ComparesAndSelect : Prop :=
  ∀ (s : State) (g : Group) (c : BitVec 3) (q : BitVec 4) (d a b : BitVec 7) (m : Option Mod) (i : BitVec 10) (y : Mod),
    g.width ≤ 64 →
    let x := modOf m
    let A (l : Nat) : Word := g.src a x.swzA l
    let B (l : Nat) : Word := g.src b x.swzB l
    let n := if m.isSome then 2 else 1
    let isMask (w : Word64) (f : Nat → Bool) : Prop :=
      ∀ l, l < 64 → w.getLsbD l = if l < g.width ∧ g.exm.getLsbD l then f l else (g.rdM q).getLsbD l
    let nan (v : Word) : Bool := decide (0x7F800000 < v.toNat % 2 ^ 31)
    let snan (v : Word) : Bool := nan v && !v.getLsbD 22
    (Ready s g { all := true, vr := [(a.toNat, x.swzA), (b.toNat, x.swzB)], msk := [q] } →
      (∀ w, isMask w (fun l => holds c (A l) (B l)) → exec (.vcmp c q a b m) s = goes s ((g.wrM q w).adv n)) ∧
      ∃ (t : Group) (w : Word64), exec (.fcmp c q a b m) s = goes s (t.adv n) ∧ t.rdM q = w ∧
        isMask w (fun l =>
          if nan (A l) || nan (B l) then decide (c.toNat = 1 ∨ c.toNat = 6)
          else (condF c (A l) (B l)).1) ∧
        (∀ l, l < g.width → g.exm.getLsbD l → t.flags l = (g.flags l |||
          if snan (A l) || snan (B l) || ((nan (A l) || nan (B l)) && decide (2 ≤ c.toNat ∧ c.toNat ≤ 5)) then fNV else 0)) ∧
        t.V = g.V ∧ t.Q = g.Q ∧ t.S = g.S) ∧
    (∀ (v w : Word), nan v = false → nan w = false →
      let p := fp32.decode v.toNat
      let o := fp32.decode w.toNat
      let table : Prop := match c.toNat with
        | 0 => ¬ Less p o ∧ ¬ Less o p
        | 1 => Less p o ∨ Less o p
        | 2 => Less p o
        | 3 => ¬ Less o p
        | 4 => Less o p
        | 5 => ¬ Less p o
        | 6 => False
        | _ => True
      (condF c v w).1 = true ↔ table) ∧
    (Ready s g { all := true, vr := [(a.toNat, 0)], msk := [q] } → ∀ w,
      isMask w (fun l => holds c (g.src a 0 l) (if c.toNat < 6 then BitVec.ofInt 32 i.toInt else BitVec.ofNat 32 i.toNat)) →
      exec (.vcmpVri c q a i) s = goes s ((g.wrM q w).adv 1)) ∧
    (Ready s g { all := true, vr := [(a.toNat, y.swzA), (b.toNat, y.swzB)], vw := [d.toNat]
                 msk := [y.codeC.extractLsb' 0 4] } →
      exec (.vsel d a b y) s = goes s ((g.result d (fun l =>
        (if (g.rdM (y.codeC.extractLsb' 0 4)).getLsbD l then g.src a y.swzA l else g.src b y.swzB l, 0))).adv 2))

/-- R203, R204, R205, R206: the floating-point lane instructions act on the whole lane under `.F32` and on each half under
the x2 formats, with the flags of both; the values of each format are those of `FFmt` (FloatSpecialValues and
ConversionResults say more of them). -/
def Sys2Proof.Claims.FloatLaneResults : Prop :=
  ∀ (s : State) (g : Group) (f : BitVec 2) (d a b : BitVec 7) (m : Option Mod) (y : Mod),
    let x := modOf m
    let A (l : Nat) : Nat := (g.src a x.swzA l).toNat
    let B (l : Nat) : Nat := (g.src b x.swzB l).toNat
    let fmt : FFmt := if f = 0 then fp32 else if f = 1 then fp16 else bf16
    let lane (op : Nat → Nat × FFlags) : Word × FFlags :=
      if f = 0 then (BitVec.ofNat 32 (op 0).1, (op 0).2)
      else (BitVec.ofNat 32 ((op 1).1 * 2 ^ 16 + (op 0).1), (op 0).2 ||| (op 1).2)
    let part (v h : Nat) : Nat := if f = 0 then v else v / 2 ^ (16 * h) % 2 ^ 16
    let yields (op : Nat → Nat → Nat × FFlags) : Out :=
      goes s ((g.result d (fun l => lane (op l))).adv (if m.isSome then 2 else 1))
    let val (v h : Nat) : FV := fmt.decode (part v h)
    let mo := modMode x
    let sat := modSat x
    (Ready s g (vuses d [(a, x.swzA), (b, x.swzB)]) →
      exec (.fadd f d a b m) s = yields (fun l h => fmt.addV mo sat (val (A l) h) (val (B l) h)) ∧
      exec (.fsub f d a b m) s = yields (fun l h => fmt.addV mo sat (val (A l) h) (val (B l) h).negate) ∧
      exec (.fmul f d a b m) s = yields (fun l h => fmt.mulV mo sat (val (A l) h) (val (B l) h)) ∧
      exec (.fdiv f d a b m) s = yields (fun l h => fmt.divV mo sat (val (A l) h) (val (B l) h)) ∧
      exec (.fscale f d a b m) s =
        yields (fun l h => fmt.scaleV mo sat (val (A l) h) (g.src b x.swzB l).toInt) ∧
      exec (.fmin f d a b m) s = yields (fun l h => fmt.minmax false (part (A l) h) (part (B l) h)) ∧
      exec (.fmax f d a b m) s = yields (fun l h => fmt.minmax true (part (A l) h) (part (B l) h))) ∧
    (Ready s g (vuses d [(a, x.swzA)]) →
      exec (.fabs d a f m) s = yields (fun l h => (part (A l) h % 2 ^ (fmt.width - 1), 0)) ∧
      exec (.fneg d a f m) s = yields (fun l h => ((part (A l) h + 2 ^ (fmt.width - 1)) % 2 ^ fmt.width, 0)) ∧
      exec (.frnd d a f m) s = yields (fun l h => fmt.rnd mo (part (A l) h)) ∧
      exec (.fsqrt d a f m) s = yields (fun l h => fmt.sqrtV mo (val (A l) h)) ∧
      exec (.fclass d a f m) s = yields (fun l h => (2 ^ fmt.classBit (part (A l) h), 0))) ∧
    (Ready s g (vuses d [(a, y.swzA), (b, y.swzB), (y.codeC, y.swzC)]) →
      exec (.ffma f d a b y) s = goes s ((g.result d (fun l => lane (fun h =>
        fmt.fmaV (modMode y) (modSat y) (val (g.src a y.swzA l).toNat h) (val (g.src b y.swzB l).toNat h)
          (val (g.src y.codeC y.swzC l).toNat h)))).adv 2))

/-- R34, R35, R40, R204, R206, R208: special operands of the floating-point formats. -/
def Sys2Proof.Claims.FloatSpecialValues : Prop :=
  ∀ (F : FFmt) (r : RMode) (sat n : Bool) (m : Nat) (e : Int), F ∈ [fp32, fp16, bf16] →
    let inf (n : Bool) : FV := .inf n
    let bad : Nat × FFlags := (F.defaultNaN, fNV)
    F.addV r sat (inf n) (inf !n) = bad ∧ F.addV r sat (inf n) (.fin n m e) = (F.signBit n + F.infCode, 0) ∧
    F.mulV r sat (inf n) (.fin n 0 e) = bad ∧ F.divV r sat (inf n) (inf n) = bad ∧
    F.divV r sat (.fin n 0 e) (.fin n 0 e) = bad ∧
    (m ≠ 0 → F.divV r sat (.fin n m e) (.fin false 0 e) = (F.signBit n + F.infCode, fDZ)) ∧
    (m ≠ 0 → F.sqrtV r (.fin true m e) = bad) ∧ F.sqrtV r (inf true) = bad ∧
    (sfu32 0 sat 0 = (0x7F800000, fDZ) ∧ sfu32 1 sat 0 = (0x7F800000, fDZ) ∧ sfu32 2 sat 0 = (0x3F800000, 0) ∧
      sfu32 3 sat 0 = (0xFF800000, fDZ) ∧ sfu32 4 sat 0x80000000 = (0x80000000, 0) ∧ sfu32 5 sat 0 = (0x3F800000, 0) ∧
      sfu32 6 sat 0xFF800000 = (0xBF800000, 0)) ∧
    F.classBit F.infCode = 7 ∧ F.classBit (2 ^ (F.width - 1)) = 3 ∧ F.classBit 0 = 4 ∧ F.classBit 1 = 5 ∧
    F.classBit F.defaultNaN = 9 ∧ F.classBit (F.infCode + 1) = 8

/-- R33, R34, R37, R38, R40, R41, R204, R205: what the functions of `FFmt` give, against the exact values: the codes of every
format, conversion, and the sum, product, quotient, fused sum, power scaling, square root, minimum and maximum of finite values,
rounded once, with NX, UF and OF as R38 has them; the first NaN among the operands, quieted. FSCALE's values are those of the
formats of its operand. -/
def Sys2Proof.Claims.FiniteResultsAreRounded : Prop :=
  ∀ (y : Layout) (r : RMode) (sat : Bool), y ∈ layouts →
    let F := y.F
    let half := 2 ^ (y.eb + y.t)
    (∀ (n : Bool) (e m : Nat), e < 2 ^ y.eb → m < 2 ^ y.t →
      let v := F.decode ((if n then half else 0) + e * 2 ^ y.t + m)
      let special : Prop := e + 1 = 2 ^ y.eb ∧ (y.isE4M3 = true → m = 7)
      (e = 0 → v = .fin n m (1 - y.bias - y.t)) ∧ (e ≠ 0 → ¬ special → v = .fin n (2 ^ y.t + m) (e - y.bias - y.t)) ∧
      (special → v = if y.isE4M3 then .nan n true (7 * 2 ^ 20) else if m = 0 then .inf n
        else .nan n (decide (2 ^ (y.t - 1) ≤ m)) (m * 2 ^ (23 - y.t)))) ∧
    (∀ n, let c := F.encode r sat (.inf n)
      c.1 < 2 * half ∧ F.decode c.1 = (if y.isE4M3 then if sat then .fin n 14 5 else .nan n true (7 * 2 ^ 20) else .inf n) ∧
      c.2 = if y.isE4M3 then fNV else 0) ∧
    (∀ n q p, p < 2 ^ 23 → QuietNaN y n p (F.encode r sat (.nan n q p)).1 ∧ (F.encode r sat (.nan n q p)).2 = if q then 0 else fNV) ∧
    (∀ (a b c : FV),
      let firstNaN (vs : List FV) (z : Nat × FFlags) (more : FFlags) : Prop := ∀ n q p, vs.find? FV.isNaN = some (.nan n q p) →
        p < 2 ^ 23 → QuietNaN y n p z.1 ∧ z.2 = (if vs.any FV.isSNaN then fNV else 0) ||| more
      let zeroInf : Bool := (a.isZero && b.isInf) || (a.isInf && b.isZero)
      firstNaN [a, b] (F.addV r sat a b) 0 ∧ firstNaN [a, b] (F.mulV r sat a b) 0 ∧ firstNaN [a, b] (F.divV r sat a b) 0 ∧
      firstNaN [a] (F.sqrtV r a) 0 ∧ (∀ k, firstNaN [a] (F.scaleV r sat a k) 0) ∧
      firstNaN [a, b, c] (F.fmaV r sat a b c) (if zeroInf then fNV else 0)) ∧
    (∀ n1 m1 e1 n2 m2 e2,
      let a : FV := .fin n1 m1 e1
      let b : FV := .fin n2 m2 e2
      (m1 = 0 → y.Zero n1 (F.encode r sat a) ∧ y.Zero n1 (F.sqrtV r a) ∧ ∀ k, y.Zero n1 (F.scaleV r sat a k)) ∧
      (m1 ≠ 0 → y.Rounds r sat n1 (dyadic m1 e1) (F.encode r sat a) ∧
        y.Rounds r false false (root m1 e1) (F.sqrtV r (.fin false m1 e1)) ∧
        ∀ k, m1 < 2 ^ 24 → -200 ≤ e1 → e1 ≤ 200 → y.Rounds r sat n1 (dyadic m1 (e1 + k)) (F.scaleV r sat a k)) ∧
      y.RoundsSum r sat n1 m1 e1 n2 m2 e2 (F.addV r sat a b) ∧
      (m1 * m2 = 0 → y.Zero (n1 != n2) (F.mulV r sat a b)) ∧
      (m1 * m2 ≠ 0 → y.Rounds r sat (n1 != n2) (dyadic (m1 * m2) (e1 + e2)) (F.mulV r sat a b) ∧
        y.Rounds r sat (n1 != n2) (quotient m1 e1 m2 e2) (F.divV r sat a b)) ∧
      (m1 = 0 → m2 ≠ 0 → y.Zero (n1 != n2) (F.divV r sat a b)) ∧
      (∀ n3 m3 e3, y.RoundsSum r sat (n1 != n2) (m1 * m2) (e1 + e2) n3 m3 e3 (F.fmaV r sat a b (.fin n3 m3 e3)))) ∧
    (∀ (a b : Nat), (F.decode a).isNaN = false → (F.decode b).isNaN = false →
      IsExtreme F false a b (F.minmax false a b) ∧ IsExtreme F true a b (F.minmax true a b)) ∧
    (∀ (a : Nat) n m e, a < 2 * half → F.decode a = .fin n m e → (m = 0 ∨ 0 ≤ e → F.rnd r a = (a, 0)) ∧
      (m ≠ 0 → e < 0 → ∃ s m' e', RoundsAt r n (dyadic m e) 0 s ∧ F.decode (F.rnd r a).1 = .fin n m' e' ∧ (F.rnd r a).2 = 0 ∧
        PowLe m' e' s 0 ∧ PowLe s 0 m' e'))

/-- Floating-point lane instructions per format, their special operands, and what rounding gives: FloatLaneResults,
FloatSpecialValues and FiniteResultsAreRounded. -/
def Obligations.FloatResults : Prop :=
  FloatLaneResults ∧ FloatSpecialValues ∧ FiniteResultsAreRounded

/-- R39, R45, R47, R48, R50, R54: a value rounded to an integer of a range, what the elements of every format denote, and the code
of a value in a dithered format, the dither added to the value in the scale's units. -/
def Sys2Proof.Claims.ElementsDenoteValues : Prop :=
  (∀ (r : RMode) (lo hi : Int) (n : Bool) (m : Nat) (e : Int), lo ≤ 0 → 0 ≤ hi →
    (∀ q p, toIntCode r lo hi (.nan n q p) = (0, fNV)) ∧ toIntCode r lo hi (.inf n) = (if n then lo else hi, fNV) ∧
    toIntCode r lo hi (.fin n 0 e) = (0, 0) ∧
    (m ≠ 0 → ∃ s, RoundsAt r n (dyadic m e) 0 s ∧
      let v := signed n s
      let c := toIntCode r lo hi (.fin n m e)
      (v < lo → c = (lo, fOF ||| fNX)) ∧ (hi < v → c = (hi, fOF ||| fNX)) ∧
      (lo ≤ v → v ≤ hi → c.1 = v ∧ (PowLe s 0 m e ∧ PowLe m e s 0 → c.2 = 0) ∧ (¬ (PowLe s 0 m e ∧ PowLe m e s 0) → c.2 = fNX)))) ∧
  (∀ (hdr sce top code : Nat),
    let value (f : Nat) : Option FV := elemValue f hdr sce top code
    let two (n : Nat) : Int := if code % 2 ^ n < 2 ^ (n - 1) then (code % 2 ^ n : Nat) else (code % 2 ^ n : Nat) - 2 ^ n
    let num (v e : Int) : FV := .fin (decide (v < 0)) v.natAbs e
    (∀ f F, (f, F) ∈ [(0x00, fp32), (0x01, fp16), (0x02, bf16), (0x03, e4m3), (0x04, e5m2)] → value f = some (F.decode code)) ∧
    (∀ f n, (f, n) ∈ [(0x08, 32), (0x09, 16), (0x0A, 8), (0x0B, 4), (0x0C, 2)] → value f = some (num (two n) 0)) ∧
    (∀ f n, (f, n) ∈ [(0x10, 8), (0x11, 6), (0x12, 4)] →
      let E := if part code (n - 1) 1 = 1 then part hdr 8 8 else part hdr 0 8
      value f = if E = 0xFF then none else some (.fin (decide (part code (n - 2) 1 = 1)) (part code 0 (n - 2)) (E - 127))) ∧
    (∀ f n, (f, n) ∈ [(0x14, 8), (0x15, 4)] →
      let z : Int := if part hdr 8 8 < 128 then part hdr 8 8 else part hdr 8 8 - 256
      value f = if part hdr 0 8 = 0xFF then none else some (num (two n - z) (part hdr 0 8 - 127))) ∧
    (∀ f n, (f, n) ∈ [(0x18, 8), (0x19, 4)] → value f = some (num (8 * two n - top + 4) (sce - 127 - 3)) ∧
      ∀ (r : RMode) (s : Bool) (m : Nat) (e : Int), top < 8 →
        let x := sumIn s m (e - sce + 127) (decide (top < 4)) ((top : Int) - 4).natAbs (-3)
        let c := toIntCode r (-(2 ^ (n - 1))) (2 ^ (n - 1) - 1) (.fin (decide (x < 0)) x.natAbs (min (e - sce + 127) (-3)))
        elemCode f sce top r (.fin s m e) = ((BitVec.ofInt n c.1).toNat, c.2)))

/-- R209, R210, R211: conversions of one element in the low bits of a lane, and the packing of 8-bit formats. -/
def Sys2Proof.Claims.ConversionResults : Prop :=
  ∀ (s : State) (g : Group) (d a b : BitVec 7) (m : Option Mod) (u f : Bool) (y z : BitVec 3) (p : BitVec 2),
    let x := modOf m
    let A (l : Nat) : Nat := (g.src a x.swzA l).toNat
    let B (l : Nat) : Nat := (g.src b x.swzB l).toNat
    let src : FFmt := floatFmt z.toNat
    let dst : FFmt := floatFmt y.toNat
    let flt : FFmt := floatFmt z.toNat
    let mo := modMode x
    let sat := modSat x
    let n := fmtBits (8 + y.toNat)
    let yields (r : Nat → Word × FFlags) : Out := goes s ((g.result d r).adv (if m.isSome then 2 else 1))
    let low (r : Nat × FFlags) : Word × FFlags := (BitVec.ofNat 32 r.1, r.2)
    let f8 (h : Bool) : FFmt := if h then e5m2 else e4m3
    (Ready s g (vuses d [(a, x.swzA)]) →
      exec (.cvtff d a y z m) s = yields (fun l => low (dst.encode mo sat (src.decode (A l % 2 ^ src.width)))) ∧
      exec (.cvtfi d a u y z m) s = yields (fun l =>
        let v := toIntCode mo (if u then 0 else -(2 ^ (n - 1) : Nat)) (if u then (2 ^ n - 1 : Nat) else (2 ^ (n - 1) : Nat) - 1)
          (src.decode (A l % 2 ^ src.width))
        (BitVec.ofInt 32 v.1, v.2)) ∧
      exec (.cvtif d a u y z m) s = yields (fun l =>
        let i : Int := A l % 2 ^ n
        low (flt.encode mo sat (FV.ofInt (if u ∨ i < 2 ^ (n - 1) then i else i - 2 ^ n)))) ∧
      exec (.unpk8 p d a f m) s = yields (fun l =>
        low (fp32.encode .rne false ((f8 f).decode (A l / 2 ^ (8 * p.toNat) % 2 ^ 8))))) ∧
    (Ready s g (vuses d [(a, x.swzA), (b, x.swzB)]) → 0x10 ≤ d.toNat →
      exec (.pack8 p d a b m) s = yields (fun l =>
        let F := f8 (p.getLsbD 1)
        let lo := F.encode mo sat (fp32.decode (A l))
        let hi := F.encode mo sat (fp32.decode (B l))
        let old := (g.vget (g.bv + d.toNat - 0x10) l).toNat
        let new := lo.1 + 2 ^ 8 * hi.1
        (BitVec.ofNat 32 (if p.getLsbD 0 then new * 2 ^ 16 + old % 2 ^ 16 else old / 2 ^ 16 * 2 ^ 16 + new), lo.2 ||| hi.2)))

/-- R62, R63, R64, R207: an approximated function sets its flags at issue from its operand, counts in its side's flag, and
leaves its results to one operation, on which its queue entries and its destination wait. -/
def Sys2Proof.Claims.ApproximatedFunctionsIssue : Prop :=
  ∀ (s : State) (g : Group) (d a : BitVec 7) (sel : Bool) (f : BitVec 2) (m : Option Mod) (fn : Nat) (i : Instr),
    (fn, i) ∈ [(0, Instr.frcp d a sel f m), (1, .frsq d a sel f m), (2, .fexp2 d a sel f m), (3, .flog2 d a sel f m),
      (4, .fsin d a sel f m), (5, .fcos d a sel f m), (6, .ftanh d a sel f m)] →
    Ready s g (vuses d [(a, (modOf m).swzA)]) → FlagRoom g sel →
    let val (l : Nat) : Word × FFlags := sfuVal fn f (modSat (modOf m)) (g.src a (modOf m).swzA l)
    ∃ t op g', exec i s = .next t ∧ t.op? s.fresh = some op ∧ t.group? s.cur = some g' ∧
      op.kind = .sfu ∧ op.gid = s.cur ∧ op.flag = g.sideFlag sel ∧ op.res = g.active.map (fun l => (l, 0, (val l).1)) ∧
      (0x10 ≤ d.toNat → op.toReg = true ∧ op.dst = g.bv + d.toNat - 0x10 ∧ op.ndst = 1) ∧
      (∀ l, Active g l → g'.flags l = (g.flags l ||| (val l).2) ∧ (g'.qentry 0 l).pend = some (s.fresh, 0)) ∧
      CountedUp g g' sel ∧ g'.V = g.V ∧ g'.S = g.S ∧ g'.M = g.M ∧ g'.exm = g.exm ∧
      SameMemory s t ∧ SameDevice s t ∧ OtherGroups s t s.cur

/-- What elements denote, conversions, 8-bit packing, and the issue of the approximated functions:
ElementsDenoteValues, ConversionResults and ApproximatedFunctionsIssue. -/
def Obligations.ConversionsAndApproximations : Prop :=
  ElementsDenoteValues ∧ ConversionResults ∧ ApproximatedFunctionsIssue

/-- R212, R213, R214: VFLG, PERM and QSWZ; MATCH marks the lowest lane of each group of equal keys among the lanes that take
part, and pushes each active lane's set of equals. -/
def Sys2Proof.Claims.CrossLaneMoves : Prop :=
  (∀ (s : State) (g : Group) (d a b : BitVec 7) (sel : BitVec 3) (m : Option Mod),
      let x := modOf m
      let A (l : Nat) : Word := g.src a x.swzA l
      let yields (f : Nat → Word) : Out := goes s ((g.result d (fun l => (f l, 0))).adv (if m.isSome then 2 else 1))
      let flg : Group := g.result d (fun l => (BitVec.ofNat 32 (g.flags l).toNat, 0))
      (Ready s g { all := true, vw := [d.toNat] } → exec (.vflg d a false) s = goes s (flg.adv 1)) ∧
      (Ready s g { all := true, vr := [(a.toNat, 0)], vw := [d.toNat] } →
        ∃ g' : Group, exec (.vflg d a true) s = goes s g' ∧ g'.V = flg.V ∧ g'.Q = flg.Q ∧
          ∀ l, l < g.width → g'.flags l = if g.exm.getLsbD l then BitVec.ofNat 5 (g.src a 0 l).toNat else g.flags l) ∧
      (Ready s g (vuses d [(a, x.swzA), (b, x.swzB)]) →
        exec (.perm d a b m) s = yields (fun l => A ((g.src b x.swzB l).toNat % g.width))) ∧
      (Ready s g (vuses d [(a, x.swzA)]) →
        (sel.toNat < 3 → exec (.qswz d a sel m) s = yields (fun l => A (l ^^^ (sel.toNat + 1)))) ∧
        (4 ≤ sel.toNat → exec (.qswz d a sel m) s = yields (fun l => A (4 * (l / 4) + (sel.toNat - 4)))))) ∧
  (∀ (s : State) (g : Group) (d : BitVec 4) (a : BitVec 7) (m : Option Mod), g.width ∈ [16, 32, 64] →
      Ready s g { all := true, vr := [(a.toNat, (modOf m).swzA)], msk := [d] } →
      let key (l : Nat) : Word := g.src a (modOf m).swzA l
      let inSet (l p : Nat) : Bool := Takes g p && decide (key p = key l)
      ∃ g' : Group, exec (.matchKeys d a m) s = goes s (g'.adv (if m.isSome then 2 else 1)) ∧ g'.V = g.V ∧ g'.fl = g.fl ∧
        (∀ e, e ≠ d → g'.rdM e = g.rdM e) ∧
        (∀ p, p < 64 → (g'.rdM d).getLsbD p =
          (Takes g p && (List.range p).all (fun q => !(Takes g q && decide (key q = key p))))) ∧
        (∀ l, Active g l →
          (g.width ≤ 32 → ∀ i, i < 32 → (g'.qentry 0 l).val.getLsbD i = inSet l i) ∧
          (g.width = 64 → ∀ i, i < 32 →
            (g'.qentry 1 l).val.getLsbD i = inSet l i ∧ (g'.qentry 0 l).val.getLsbD i = inSet l (32 + i))))

/-- R215, R216: the operations of SCAN and RED with their identities (what the F32 ones give, FiniteResultsAreRounded says); SCAN runs through the lanes in order, RED combines
them in the tree of adjacent pairs; the lanes that take no part leave the accumulator, or give the identity, and the flags
go where the rule says. -/
def Obligations.ScanAndReduceResults : Prop :=
  (∀ (r : RMode) (sat : Bool) (x y : Word),
      let I (o : BitVec 3) (v : Word) : Prop := scanOp 0 o r sat x y = (v, 0)
      let U (o : BitVec 3) (v : Word) : Prop := scanOp 1 o r sat x y = (v, 0)
      let sum : Word := BitVec.ofNat 32 (x.toNat + y.toNat)
      I 0 sum ∧ U 0 sum ∧ I 1 (if x.toInt ≤ y.toInt then x else y) ∧ U 1 (if x.toNat ≤ y.toNat then x else y) ∧
      I 2 (if y.toInt ≤ x.toInt then x else y) ∧ U 2 (if y.toNat ≤ x.toNat then x else y) ∧
      I 3 (x &&& y) ∧ U 3 (x &&& y) ∧ I 4 (x ||| y) ∧ U 4 (x ||| y) ∧ I 5 (x ^^^ y) ∧ U 5 (x ^^^ y) ∧
      (∀ o : BitVec 3, o.toNat < 6 → scanOp 0 o r sat (scanId 0 o) y = (y, 0) ∧ scanOp 1 o r sat (scanId 1 o) y = (y, 0)) ∧
      scanId 2 0 = 0x80000000 ∧ scanId 2 1 = 0x7F800000 ∧ scanId 2 2 = 0xFF800000 ∧
      (let F (o : BitVec 3) (c : Nat × FFlags) : Prop := scanOp 2 o r sat x y = (BitVec.ofNat 32 c.1, c.2)
       F 0 (fp32.addV r sat (fp32.decode x.toNat) (fp32.decode y.toNat)) ∧ F 1 (fp32.minmax false x.toNat y.toNat) ∧
         F 2 (fp32.minmax true x.toNat y.toNat))) ∧
  (∀ (s : State) (g : Group) (d a : BitVec 7) (e : Bool) (t : BitVec 2) (o : BitVec 3) (m : Option Mod) (k : Nat),
      g.width = 2 ^ k → 4 ≤ k → k ≤ 6 → Ready s g { all := true, vr := [(a.toNat, (modOf m).swzA)], vw := [d.toNat] } →
      let x := modOf m
      let op := scanOp t o (modMode x) (modSat x)
      let v (l : Nat) : Word := g.src a x.swzA l
      let n := if m.isSome then 2 else 1
      let acc := scanBefore op (scanId t o) (Takes g) v
      (∃ r, exec (.scan d a e t o m) s = goes s ((g.result d r).adv n) ∧
        ∀ l, Active g l → r l =
          if Takes g l then (if e then acc l else acc (l + 1), (op (acc l) (v l)).2) else (acc l, 0)) ∧
      exec (.red d a t o m) s = goes s ((g.result d (fun _ =>
        redAt op (fun l => if Takes g l then v l else scanId t o) k 0)).adv n))

/-- R217: TOPKI puts the new pair where it is better than a stored one, moves the rest down and pushes the place. -/
def Sys2Proof.Claims.TopInsertion : Prop :=
  ∀ (s : State) (g : Group) (d a : BitVec 7) (k : BitVec 3) (i : BitVec 7), g.width ≤ 64 →
    0x10 ≤ d.toNat → d.toNat + 2 * k.toNat + 1 ≤ 0x7F → g.bv + d.toNat < 0x1F0 →
    let n := k.toNat + 1
    Ready s g { all := true, vr := [(a.toNat, 0), (i.toNat, 0)], vw := (List.range (2 * n)).map (d.toNat + ·) } →
    let reg (j : Nat) : Nat := g.bv + d.toNat - 0x10 + j
    ∃ g' : Group, exec (.topki d a k i) s = goes s (g'.adv 1) ∧ g'.fl = g.fl ∧ g'.S = g.S ∧ g'.M = g.M ∧
      (∀ l, Active g l → g.sliceGone l = false → ∀ p, p ≤ n →
        let beats (j : Nat) : Bool := better (g.src a 0 l) (g.src i 0 l) (g.vget (reg (2 * j)) l) (g.vget (reg (2 * j + 1)) l)
        (∀ j, j < p → beats j = false) → (p < n → beats p = true) →
        (g'.qentry 0 l).val = BitVec.ofNat 32 p ∧
        ∀ j, j < n →
          (j < p → g'.vget (reg (2 * j)) l = g.vget (reg (2 * j)) l ∧
            g'.vget (reg (2 * j + 1)) l = g.vget (reg (2 * j + 1)) l) ∧
          (j = p → g'.vget (reg (2 * j)) l = g.src a 0 l ∧ g'.vget (reg (2 * j + 1)) l = g.src i 0 l) ∧
          (p < j → g'.vget (reg (2 * j)) l = g.vget (reg (2 * (j - 1))) l ∧
            g'.vget (reg (2 * j + 1)) l = g.vget (reg (2 * (j - 1) + 1)) l)) ∧
      (∀ q l, q < 512 → (¬ Active g l ∨ q < reg 0 ∨ reg (2 * n) ≤ q) → g'.vget q l = g.vget q l)

/-- VFLG, PERM, QSWZ, MATCH and TOPKI: CrossLaneMoves and TopInsertion. -/
def Obligations.CrossLaneResults : Prop :=
  CrossLaneMoves ∧ TopInsertion

/-! Records and lane accesses. -/

/-- R227, R231: KMOV moves a record, and KLD takes that of a binding slot, of any slot; KFIELD reads a field; KFIELD.W writes
`bnd`, `pol`, `bmode`, `brand` or a subset of `rt`, if the new record is well formed. -/
def Sys2Proof.Claims.RecordMovesAndFields : Prop :=
  ∀ (s : State) (g : Group) (w : MemWord) (f lo n : Nat),
    let src : BitVec 4 := w.data.extractLsb' 0 4
    let yields (r : Rec) : Out := goes s ((g.wrK w.k r).adv 2)
    (Ready s g { kr := [w.k] } →
      (∀ r, bindingOf s g w.off.toNat = some r → exec (.kld w) s = yields r) ∧
      (bindingOf s g w.off.toNat = none → exec (.kld w) s = traps s g cRecordInvalid)) ∧
    ((f, lo, n) ∈ recordFields → w.off.toNat = f →
    (Ready s g { kr := [w.k, src] } → exec (.kmov w) s = yields (g.rdK src)) ∧
    (Ready s g { kr := [w.k], sc := [w.data.toNat] } →
      (Rec.wf (g.rdK w.k) = true →
        exec (.kfield w) s = goes s ((g.wrS w.data (BitVec.ofNat 32 (fieldOf (g.rdK w.k) lo n))).adv 2)) ∧
      (Rec.wf (g.rdK w.k) = false → exec (.kfield w) s = traps s g cRecordInvalid) ∧
      (f ≤ 14 ∨ (f = 16 ∧ ∃ i, i < 5 ∧ (g.rdS w.data).getLsbD i = true ∧ (g.rdK w.k).getLsbD (230 + i) = false) →
        exec (.kfieldW w) s = traps s g cRights) ∧
      (15 ≤ f → (f = 16 → ∀ i, i < 5 → (g.rdS w.data).getLsbD i = true → (g.rdK w.k).getLsbD (230 + i) = true) →
        let new : Rec := BitVec.ofNat 256 ((g.rdK w.k).toNat - fieldOf (g.rdK w.k) lo n * 2 ^ lo + (g.rdS w.data).toNat * 2 ^ lo)
        ((g.rdS w.data).toNat < 2 ^ n → Rec.wf new = true → exec (.kfieldW w) s = yields new) ∧
        (2 ^ n ≤ (g.rdS w.data).toNat ∨ Rec.wf new = false → exec (.kfieldW w) s = traps s g cRecordInvalid))))

/-- R228, R229, R230: a record derived by KNARROW, KVIEW or KPERM names a part of the record it comes from, or the same bytes
under another order of dimensions; a window outside it raises BOUNDS. -/
def Sys2Proof.Claims.DerivedRecordsStayInside : Prop :=
  ∀ (s : State) (g : Group) (w : MemWord),
    let src : Rec := g.rdK (w.data.extractLsb' 0 4)
    let S (i : Nat) : Nat := (g.sget' (g.bs + w.index.toNat + i)).toNat
    let c := w.index.toNat
    let kr : List (BitVec 4) := [w.k, w.data.extractLsb' 0 4]
    Rec.wf src = true → src.lay ≠ 6 →
    (Ready s g { kr := kr, sc := [c, c + 1] } → ∀ k,
      k = (if 1 < src.size 2 then 2 else if 1 < src.size 1 then 1 else 0) →
      (S 1 = 0 ∨ src.size k < S 0 + S 1 → exec (.knarrow w) s = traps s g cBounds) ∧
      (∀ b, S 1 ≠ 0 → S 0 + S 1 ≤ src.size k → Rec.cut src k (S 0) = some b → src.base + b < 2 ^ 40 →
        ∃ r : Rec, exec (.knarrow w) s = goes s ((g.wrK w.k r).adv 2) ∧ r.base = src.base + b ∧ r.size k = S 1 ∧
          r.org (src.pi k) = src.org (src.pi k) + S 0 ∧ (∀ j, j < 3 → j ≠ k → r.size j = src.size j) ∧
          r.obj = src.obj ∧ r.rt = src.rt ∧ r.s1 = src.s1 ∧ r.m2 = src.m2 ∧ r.fmt = src.fmt ∧ r.brand = src.brand ∧
          r.lay = src.lay ∧ r.key = src.key)) ∧
    (Ready s g { kr := kr, sc := [c, c + 1, c + 2, c + 3] } →
      let k0 := src.pinv 0
      let k1 := src.pinv 1
      (S 2 = 0 ∨ src.size k0 < S 0 + S 2 ∨ S 3 = 0 ∨ src.size k1 < S 1 + S 3 →
        exec (.kview w) s = traps s g cBounds) ∧
      (∀ b0 b1, S 2 ≠ 0 → S 0 + S 2 ≤ src.size k0 → S 3 ≠ 0 → S 1 + S 3 ≤ src.size k1 →
        Rec.cut src k0 (S 0) = some b0 → Rec.cut src k1 (S 1) = some b1 → src.base + b0 + b1 < 2 ^ 40 →
        ∃ r : Rec, exec (.kview w) s = goes s ((g.wrK w.k r).adv 2) ∧ r.base = src.base + b0 + b1 ∧
          r.size k0 = S 2 ∧ r.size k1 = S 3 ∧ r.org 0 = src.org 0 + S 0 ∧ r.org 1 = src.org 1 + S 1 ∧
          r.org 2 = src.org 2 ∧ r.obj = src.obj ∧ r.rt = src.rt ∧ r.brand = src.brand ∧ r.fmt = src.fmt)) ∧
    (Ready s g { kr := kr } → ∀ row, row = layRow (w.off.toNat % 8) →
      let N (k : Nat) : Nat := src.size (row.getD k 0)
      let s1 := rowBytes src.fmt (N 0)
      (src.extent < s1 * (N 1 * (N 2 - 1) + N 1) → exec (.kperm w) s = traps s g cBounds) ∧
      (s1 * (N 1 * (N 2 - 1) + N 1) ≤ src.extent → s1 < 2 ^ 20 → N 1 < 2 ^ 16 → N 2 ≤ 256 → w.off.toNat % 8 < 6 →
        ∃ r : Rec, exec (.kperm w) s = goes s ((g.wrK w.k r).adv 2) ∧ r.base = src.base ∧ r.s1 = s1 ∧ r.m2 = N 1 ∧
          (∀ k, k < 3 → r.size k = N k ∧ r.pi k = src.pi (row.getD k 0)) ∧ r.extent ≤ src.extent ∧
          r.obj = src.obj ∧ r.rt = src.rt ∧ r.brand = src.brand ∧ r.fmt = src.fmt))

/-- Records: moves, fields, and the records derived by KNARROW, KVIEW and KPERM: RecordMovesAndFields and
DerivedRecordsStayInside. -/
def Obligations.RecordsAreDerived : Prop :=
  RecordMovesAndFields ∧ DerivedRecordsStayInside

/-- R225, R232, R234, R236, R237, R308: the checks of a lane access, in their order, and the words that a lane reaches at
byte offset `o` under each bounds mode. LDQ and QST take no slab record, QST no block format; LDB takes its brand from a
scalar, LDU of an outrider run brand 0. -/
def Sys2Proof.Claims.LaneAccessChecks : Prop :=
  (∀ (s : State) (g : Group) (w : MemWord) (i : Instr) (f : LaneForm) (right : Nat) (dither bad : Bool) (b : Option Nat),
    let r : Rec := g.rdK w.k
    let own : Option Nat := some (r.effBrand g.brd)
    let v := (g.rdS w.index).toNat
    (i, f, right, dither, bad, b) ∈ [(Instr.ld w, ldForm w, 0, false, false, own),
      (.ldu w, lduForm w, 0, false, false, if g.outrider.isSome then some 0 else own),
      (.ldq w, ldqForm w, 0, false, decide (r.lay = 6), own),
      (.ldb w, ldbForm w, 0, false, false, if v < 2 ^ 16 then some v else none),
      (.st w, stForm w, 1, true, false, own),
      (.qst w, qstForm w, 1, false, decide (r.lay = 6) || isPB r.fmt || isAQ r.fmt, own),
      (.atom w, atomForm w 1 2, 2, true, false, own), (.cas w, atomForm w 2 w.scl, 2, true, false, own)] →
    Ready s g f.uses →
    let low (l : Nat) : Bool := (f.cap g r l).elim true (fun a => r.special && !a.within (coreStore s s.cur g r.obj).2)
    (Rec.wf r = false ∨ bad = true → exec i s = traps s g cRecordInvalid) ∧
    (Rec.wf r = true → bad = false →
      (r.getLsbD (230 + right) = false → exec i s = traps s g cRights) ∧
      (r.getLsbD (230 + right) = true → dither = true → isD r.fmt = true → exec i s = traps s g cDitherMap) ∧
      (r.getLsbD (230 + right) = true → (dither = false ∨ isD r.fmt = false) →
        ((∀ b', b = some b' → s.brandLive g.cx b' = false) → exec i s = traps s g cBrandInvalid) ∧
        (∀ b', b = some b' → s.brandLive g.cx b' = true → ∀ l rest, (f.lanes g).filter low = l :: rest →
          ∃ t : Trap, exec i s = .next (takeTrap s s.cur g t) ∧ t.cause = cBounds ∧ t.kreg = w.k.toNat ∧
            t.off = f.off g r l ∧ t.lanes = if f.once then none else some (laneSet (l :: rest)))))) ∧
  (∀ (r : Rec) (load : Bool) (n : Nat) (o : Int) (l : Nat) (vs : List Word), 0 < n →
    let E : Int := r.extent
    let words (b : Int) : List (Option AccUnit) := (List.range n).map (fun (j : Nat) =>
      some { hdr := none, off := (r.base + (b + 4 * (j : Int))).toNat, n := 4, bit := 0, elem := 0, bytes := [] })
    let isWords (b : Int) : Prop := wordAcc r load n o l vs = some { lane := l, off := b, units := words b, vals := vs }
    (o % 4 ≠ 0 → wordAcc r load n o l vs = none) ∧
    (o % 4 = 0 → 0 ≤ o → o + 4 * n ≤ E → isWords o) ∧
    (o % 4 = 0 → (o < 0 ∨ E < o + 4 * n) →
      (r.bnd = 0 → wordAcc r load n o l vs = none) ∧
      (r.bnd = 1 → load = true → 4 * n ≤ E → isWords (if o < 0 then 0 else E - 4 * n)) ∧
      (r.bnd = 2 ∨ (r.bnd = 1 ∧ load = false) → wordAcc r load n o l vs = some { lane := l, off := o, vals := vs, units :=
        ((words o).zipIdx.map (fun e => if 0 ≤ o + 4 * (e.2 : Int) ∧ o + 4 * (e.2 : Int) + 4 ≤ E then e.1 else none)) })))

/-- R62, R63, R64, R76, R233, R234, R237, R308: LD, LDQ, LDB and LDU capture the addresses of their lanes at issue and go
on; what they will write is pending, and no byte of memory changes. -/
def Sys2Proof.Claims.LoadsIssue : Prop :=
  ∀ (s : State) (g : Group) (w : MemWord) (as : List LaneAcc), tieAt s g false = none →
    let n := w.cnt + 1
    let r : Rec := g.rdK w.k
    let placed : List LaneAcc := as.map (fun a => a.bind (placeOf s g r as))
    let common (i : Instr) (kind : OpKind) (op : LongOp) (t : State) (g' : Group) : Prop :=
      exec i s = .next t ∧ t.op? s.fresh = some op ∧ t.group? s.cur = some g' ∧ op.kind = kind ∧ op.gid = s.cur ∧
      op.lanes = placed ∧ op.left = 0 ∧ op.fin = 0 ∧ op.ndst = n ∧ op.flag = g.sideFlag w.sel ∧
      CountedUp g g' w.sel ∧ g'.V = g.V ∧ g'.S = g.S ∧ g'.M = g.M ∧ g'.K = g.K ∧ g'.fl = g.fl ∧ g'.exm = g.exm ∧
      SameMemory s t ∧ SameDevice s t ∧ OtherGroups s t s.cur
    (∀ i f kind, (i, f, kind) ∈ [(Instr.ld w, ldForm w, OpKind.load), (.ldq w, ldqForm w, .loadQ), (.ldb w, ldbForm w, .load)] →
      AccessRuns s g f as → ∃ t op g', common i kind op t g' ∧
        (op.toReg = true ↔ 0x10 ≤ w.data.toNat) ∧ op.dst = g.bv + w.data.toNat - 0x10 ∧
        ∀ l j, Active g l → j < n → n ≤ 16 → (g'.qentry j l).pend = some (s.fresh, n - 1 - j)) ∧
    (AccessRuns s g (lduForm w) as → ∃ t op g', common (.ldu w) .loadU op t g' ∧
      op.toReg = true ∧ op.dst = g.bs + w.data.toNat ∧ g'.Q = g.Q)

/-- R64, R68, R233, R234, R237, R266, R268: a load whose reads may be made delivers the bytes of memory, all its lanes at that
one moment (the model's reading: log 16), or those of its core's L1 where its policy looks there and every sector is held:
to its registers and to the queue entries that wait for it, LDQ's elements decoded with their flags; LDU to its scalars.
Memory does not change. -/
def Sys2Proof.Claims.LoadsDeliver : Prop :=
  ∀ (s : State) (g : Group) (i : Nat) (op : LongOp), s.op? i = some op → s.group? op.gid = some g →
    s.draining op.cx = true → accessReady s i op = true → op.waitsTie = false → op.recalled = false →
    op.left = 0 → op.fin = 0 → op.res = [] → op.pgot = [] →
    op.kind ∈ [OpKind.load, .loadQ, .loadU] → ownStores s op.gid = [] → op.dst + op.ndst ≤ 512 →
    (op.lanes.map (·.lane)).Nodup →
    (∀ a ∈ op.lanes, a.units.length = op.ndst ∧ (op.kind ≠ .loadQ → ∀ u, some u ∈ a.units → u.hdr = none)) →
    let place (p : PByte) : Loc := (resolve s op.cx op.brand p).2
    let sector (p : PByte) : Option L1Sector :=
      if usesL1 op.pol = true ∧ acquires op.ord = 0 ∧ (place p).cached = true ∧ op.core < 384 then
        l1Hit s op.core op.cx (place p).sector
      else none
    (usesL1 op.pol = true → ∀ w ∈ s.mem.stores, ∀ b ∈ w.2.bytes, ∀ p ∈ op.dueBytes, b.1.loc ≠ p.loc) →
    ((∀ p ∈ op.dueBytes, (sector p).isSome = true) ∨ ∀ p ∈ op.dueBytes, sector p = none) →
    let byte (p : PByte) : Byte := match sector p with
      | some e => e.data.getD ((place p).a % 64) 0
      | none => readByte s op.cx op.brand [] p
    let fmt := Rec.fmt op.rec1
    let element (u : AccUnit) : Word × FFlags :=
      let n := if u.hdr.isSome then 2 else 0
      let code := part (natOfBytes ((u.bytes.drop n).map byte)) u.bit (fmtBits fmt)
      if fmt = 0 then (BitVec.ofNat 32 code, 0)
      else if isInt fmt then
        (BitVec.ofInt 32 (if 2 * code < 2 ^ fmtBits fmt then (code : Int) else (code : Int) - (2 ^ fmtBits fmt : Nat)), 0)
      else match elemValue fmt (natOfBytes ((u.bytes.take n).map byte)) (Rec.sce op.rec1) (Rec.dither op.rec1 u.elem) code with
        | none => (0x7FC00000, fNV)
        | some v => (BitVec.ofNat 32 (fp32.encode .rne false v).1, (fp32.encode .rne false v).2)
    let read (u : Option AccUnit) : Word × FFlags := match u with
      | none => (0, 0)
      | some u => if op.kind = .loadQ then element u else (BitVec.ofNat 32 (natOfBytes (u.bytes.map byte)), 0)
    ∃ t g', exec (.operationComplete i) s = .next t ∧ t.op? i = none ∧ t.group? op.gid = some g' ∧
      (∀ f, g'.count f = if op.flag = some f then g.count f - 1 else g.count f) ∧ SameMemory s t ∧
      (op.kind ≠ .loadU →
        (∀ a ∈ op.lanes, g'.flags a.lane = (a.units.map (fun u => (read u).2)).foldl (· ||| ·) (g.flags a.lane)) ∧
        (∀ a u (j : Nat), a ∈ op.lanes → a.units[j]? = some u →
          (op.toReg = true → g.sliceGone a.lane = false → g'.vget (op.dst + j) a.lane = (read u).1) ∧
          (∀ k row, g.Q[k]? = some row → (∃ v, row[a.lane]? = some { val := v, pend := some (i, j) }) →
            g'.qentry k a.lane = { val := (read u).1, pend := none })) ∧
        (∀ n l, n < 512 → (n < op.dst ∨ op.dst + op.ndst ≤ n ∨ op.toReg = false) → g'.vget n l = g.vget n l) ∧ g'.S = g.S) ∧
      (op.kind = .loadU → ∀ a u (j : Nat), op.lanes = [a] → a.units[j]? = some u →
        g'.sget' (op.dst + j) = (read u).1 ∧ g'.V = g.V ∧ g'.fl = g.fl)

/-- Loads capture their lanes, go on, and deliver what memory holds: LoadsIssue and LoadsDeliver. -/
def Obligations.LoadsReadMemory : Prop :=
  LoadsIssue ∧ LoadsDeliver

/-- R62, R233, R236, R274: ST and QST leave the writes of their lanes to be performed, each with the bytes it will write at
the places its addresses translate to, and go on; at issue no byte of memory changes. R235: what goes to the group's spill
stack, which no other agent sees, stands there at once, and a release it carries follows. R288, R302: in deterministic mode
what goes to deterministic-shared pages is left to the commit buffer, an entry to each word, in the order of its lane. -/
def Sys2Proof.Claims.StoresIssue : Prop :=
  ∀ (s : State) (g : Group) (w : MemWord) (as : List LaneAcc) (i : Instr) (f : LaneForm) (bits : Nat),
    let r : Rec := g.rdK w.k
    (i, f, bits) ∈ [(Instr.st w, stForm w, 32), (.qst w, qstForm w, fmtBits r.fmt)] →
    AccessRuns s g f as → tieAt s g true = none →
    let bind (a : LaneAcc) : LaneAcc := a.bind (placeOf s g r as)
    let out (a : LaneAcc) : List (PByte × Byte × Byte) := ((bind a).writes bits).flatten
    let now : Prop := detOf s g = true → ∀ a ∈ as, ∀ e ∈ out a, e.1.det ≠ 1 ∨ e.1.wp = true
    (∀ a ∈ as, linesNeeding s g.cx (r.effBrand g.brd) ((out a).map (·.1)) = []) →
    let common (t : State) (op : LongOp) (g' : Group) : Prop :=
      exec i s = .next t ∧ t.op? s.fresh = some op ∧ t.group? s.cur = some g' ∧ op.kind = .store ∧ op.left = 0 ∧
      op.flag = g.sideFlag w.sel ∧ CountedUp g g' w.sel ∧ g'.V = g.V ∧ g'.Q = g.Q ∧ g'.S = g.S ∧ g'.M = g.M ∧
      (∀ k, k ≤ s.fresh → mget t.mem.stores k = mget s.mem.stores k) ∧
      SameMemory s t ∧ SameDevice s t ∧ OtherGroups s t s.cur
    (now → (∀ a ∈ as, ∀ e ∈ out a, e.1.loc.inSpill = false) → ∃ t op g', common t op g' ∧ g'.spill = g.spill ∧
      ∀ a ∈ as, out a ≠ [] → ∃ k st, s.fresh < k ∧ mget t.mem.stores k = some st ∧ st.gid = s.cur ∧ st.op = s.fresh ∧
        st.lane = a.lane ∧ st.brand = r.effBrand g.brd ∧ st.act = .bytes ∧ st.bytes = out a) ∧
    (now → (∀ a ∈ as, ∀ e ∈ out a, e.1.loc.sp = .spill s.cur) → ((as.flatMap out).map (·.1.loc)).Nodup →
      ∃ t op g', common t op g' ∧ (releases w.ord.toNat = 0 → t.mem.stores = s.mem.stores) ∧
        (∀ e ∈ t.mem.stores, e ∈ s.mem.stores ∨ (e.2.bytes = [] ∧ e.2.gid = s.cur ∧ e.2.rel = releases w.ord.toNat)) ∧
        (∀ e ∈ as.flatMap out, Memory.byte g'.spill e.1.loc.a =
          ((e.2.1 &&& e.2.2) ||| (Memory.byte g.spill e.1.loc.a &&& ~~~ e.2.2))) ∧
        ∀ x, x ∉ (as.flatMap out).map (·.1.loc.a) → Memory.byte g'.spill x = Memory.byte g.spill x) ∧
    (detOf s g = true → r.special = false → (∀ a ∈ as, ∀ e ∈ out a, e.1.det = 1 ∧ e.1.wp = false) →
      let words (a : LaneAcc) : List (List (PByte × Byte × Byte)) := ((bind a).writes bits).filter (fun u => !u.isEmpty)
      (as.flatMap words).length ≤ 16 * (freePool s g.cx).length →
      ∃ t op g', common t op g' ∧ t.mem.stores = s.mem.stores ∧
        t.mem.commit = s.mem.commit ++ as.flatMap (fun a => (words a).zipIdx.map (fun e =>
          ({ cx := g.cx, grid := g.grid, key := [blockNo s g, g.gidx, a.lane, sget 0 g.nDefer a.lane + e.2], gid := s.cur
             lane := a.lane, brand := r.effBrand g.brd, bytes := e.1, addF32 := none, tags := [] } : Commit))) ∧
        ∀ a ∈ as, sget 0 g'.nDefer a.lane = sget 0 g.nDefer a.lane + (words a).length)

/-- R259, R274: a write that may be performed now puts each of its bytes in its place and is gone; every other byte, of any
storage, reads as before. A lane with a write-protected byte writes nothing. -/
def Sys2Proof.Claims.WritesArePerformed : Prop :=
  ∀ (s : State) (i : Nat) (st : StoreOp), mget s.mem.stores i = some st → s.draining st.cx = true → storeReady s i st = true →
    st.act = .bytes → st.brand = 0 → (∀ e ∈ st.bytes, Stands s e.1.loc) → (st.bytes.map (·.1.loc)).Nodup →
    ∃ t, exec (.storePerformed i) s = .next t ∧ (∀ k, mget t.mem.stores k = if k = i then none else mget s.mem.stores k) ∧
      ((∀ e ∈ st.bytes, e.1.wp = false) →
        (∀ e ∈ st.bytes, readAt t st.cx [] e.1.loc = ((e.2.1 &&& e.2.2) ||| (readAt s st.cx [] e.1.loc &&& ~~~ e.2.2))) ∧
        (∀ l, l ∉ st.bytes.map (·.1.loc) → readAt t st.cx [] l = readAt s st.cx [] l)) ∧
      ((∃ e ∈ st.bytes, e.1.wp = true) → ∀ cx l, readAt t cx [] l = readAt s cx [] l)

/-- Stores leave their writes, and a write performed changes its own bytes alone: StoresIssue and
WritesArePerformed. -/
def Obligations.StoresWriteMemory : Prop :=
  StoresIssue ∧ WritesArePerformed

/-- R62, R235, R282, R283, R284, R288: ATOM and CAS capture their lanes and leave the old value pending; when one lane's access
is made, the word in memory becomes what the operation says, and the lane gets the word that stood there. On the group's
spill stack that is at issue, and the word that stood there is kept with the operation; so is it for ADD.F32 in deterministic
mode, whose addition is left to the commit buffer. -/
def Obligations.AtomicsReadAndReplace : Prop :=
  (∀ (s : State) (g : Group) (w : MemWord) (as : List LaneAcc) (i : Instr) (f : LaneForm) (kind : OpKind),
    (i, f, kind) ∈ [(Instr.atom w, atomForm w 1 2, OpKind.atom (w.mod.toNat % 16)), (.cas w, atomForm w 2 w.scl, .cas)] →
    AccessRuns s g f as →
    let r : Rec := g.rdK w.k
    let bind (a : LaneAcc) : LaneAcc := a.bind (placeOf s g r as)
    let now : Prop := detOf s g = true → r.special = false → kind = .atom 1 → ∀ a ∈ as, ∀ u, some u ∈ (bind a).units →
      ∃ p ∈ u.bytes, p.wp = true
    (∀ a ∈ as, ∀ u, some u ∈ (bind a).units → linesNeeding s g.cx (r.effBrand g.brd) u.bytes = []) →
    let common (t : State) (op : LongOp) (g' : Group) : Prop :=
      exec i s = .next t ∧ t.op? s.fresh = some op ∧ t.group? s.cur = some g' ∧ op.kind = kind ∧ op.left = 0 ∧
      op.flag = g.sideFlag w.sel ∧ CountedUp g g' w.sel ∧ g'.V = g.V ∧ g'.S = g.S ∧
      (∀ l, l < g.width → Takes g l = true → (g'.qentry 0 l).pend = some (s.fresh, 0)) ∧
      SameMemory s t ∧ SameDevice s t ∧ OtherGroups s t s.cur
    (now → (∀ a ∈ as, ∀ u, some u ∈ (bind a).units → ∃ p ∈ u.bytes, p.loc.inSpill = false) →
      ∃ t op g', common t op g' ∧ op.lanes = as.map bind ∧ g'.spill = g.spill) ∧
    (detOf s g = true → r.special = false → kind = .atom 1 → as.length ≤ 16 * (freePool s g.cx).length →
      (∀ a ∈ as, ∃ u, (bind a).units = [some u] ∧ ∀ p ∈ u.bytes, p.wp = false) →
      ∃ t op g', common t op g' ∧ t.mem.stores = s.mem.stores ∧
        t.mem.commit = s.mem.commit ++ as.flatMap (fun a => ((bind a).units.filterMap id).map (fun u =>
          ({ cx := g.cx, grid := g.grid, key := [blockNo s g, g.gidx, a.lane, sget 0 g.nDefer a.lane], gid := s.cur
             lane := a.lane, brand := r.effBrand g.brd, bytes := u.write 32 (a.vals.headD 0).toNat
             addF32 := some (a.vals.headD 0), tags := [] } : Commit))) ∧
        ∀ a ∈ as, ∀ u, (bind a).units = [some u] →
          ∃ c ∈ op.lanes, c.lane = a.lane ∧ c.units = [] ∧ c.vals = [readWord s g.cx (r.effBrand g.brd) u]) ∧
    (∀ a u, now → as = [a] → (bind a).units = [some u] → (∀ p ∈ u.bytes, p.loc.sp = .spill s.cur) →
      (u.bytes.map (·.loc)).Nodup → u.bytes.length = 4 →
      let word (h : Group) : Word := BitVec.ofNat 32 (natOfBytes (u.bytes.map (fun p => Memory.byte h.spill p.loc.a)))
      let x := a.vals.headD 0
      ∃ t op g', common t op g' ∧ (∃ c, op.lanes = [c] ∧ c.lane = a.lane ∧ c.units = [] ∧ c.vals.headD 0 = word g) ∧
        (∀ y, y ∉ u.bytes.map (·.loc.a) → Memory.byte g'.spill y = Memory.byte g.spill y) ∧
        (kind = .cas → word g' = if word g = x then a.vals.getD 1 0 else word g) ∧
        (kind = .atom 0 → word g' = BitVec.ofNat 32 ((word g).toNat + x.toNat)) ∧ (kind = .atom 9 → word g' = x))) ∧
  (∀ (s : State) (i : Nat) (op : LongOp) (g : Group) (a : LaneAcc) (u : AccUnit), s.op? i = some op →
    s.group? op.gid = some g → s.draining op.cx = true → op.recalled = false → accessReady s i op = true → op.left = 0 →
    op.due = [a] →
    op.toReg = true → g.sliceGone a.lane = false → op.wpLanes = 0 →
    op.brand = 0 → a.units = [some u] → u.bytes.length = 4 → (∀ p ∈ u.bytes, p.wp = false ∧ Stands s p.loc) →
    u.n = 4 → u.bit = 0 → (u.bytes.map (·.loc)).Nodup →
    let m := readWord s op.cx 0 u
    let x := a.vals.headD 0
    let becomes (v : Word) : Prop := ∃ t g', exec (.operationComplete i) s = .next t ∧ readWord t op.cx 0 u = v ∧
      t.group? op.gid = some g' ∧ g'.vget op.dst a.lane = m ∧
      ∀ l, l ∉ u.bytes.map (·.loc) → readAt t op.cx [] l = readAt s op.cx [] l
    (op.kind = .atom 0 → becomes (BitVec.ofNat 32 (m.toNat + x.toNat))) ∧
    (op.kind = .atom 1 → becomes (BitVec.ofNat 32 (fp32.addV .rne false (fp32.decode m.toNat) (fp32.decode x.toNat)).1)) ∧
    (op.kind = .atom 2 → becomes (if m.toInt ≤ x.toInt then m else x)) ∧
    (op.kind = .atom 3 → becomes (if x.toInt ≤ m.toInt then m else x)) ∧
    (op.kind = .atom 4 → becomes (if m.toNat ≤ x.toNat then m else x)) ∧
    (op.kind = .atom 5 → becomes (if x.toNat ≤ m.toNat then m else x)) ∧
    (op.kind = .atom 6 → becomes (m &&& x)) ∧ (op.kind = .atom 7 → becomes (m ||| x)) ∧
    (op.kind = .atom 8 → becomes (m ^^^ x)) ∧ (op.kind = .atom 9 → becomes x) ∧
    (op.kind = .cas → becomes (if m = x then a.vals.getD 1 0 else m)))

/-- R226, R235: SPL writes the spill stack of the group, FIL reads it, in every lane whatever EXM holds; an access that
passes `spill` raises BOUNDS, and FIL of a granule without a tag RECORD_INVALID. -/
def Sys2Proof.Claims.SpillStackAccesses : Prop :=
  ∀ (s : State) (g : Group) (w : MemWord), s.group? s.cur = some g → FlagRoom g w.sel →
    let at' (j l : Nat) : Nat := w.off.toNat + 4 * (j * g.width + l)
    let fits (n : Nat) : Prop := w.off.toInt = w.off.toNat ∧ w.off.toNat + n ≤ g.spillBytes
    (w.idx = false → w.off.toNat % 4 = 0 → runPending s s.cur g w = false →
      (fits (4 * (w.cnt + 1) * g.width) →
        (checkUses s s.cur g { vr := (List.range (w.cnt + 1)).map (fun j => (w.data.toNat + j, 0)) } = none →
          w.data.toNat + w.cnt ≤ 0x7F → 0x10 ≤ w.data.toNat →
          ∃ t g', exec (.spl w) s = .next t ∧ t.group? s.cur = some g' ∧ CountedUp g g' w.sel ∧ g'.V = g.V ∧
            (∀ j l b, j ≤ w.cnt → l < g.width → b < 4 → Memory.byte g'.spill (at' j l + b) =
              BitVec.ofNat 8 ((g.vget (g.bv + w.data.toNat + j - 0x10) l).toNat / 2 ^ (8 * b))) ∧
            (∀ a, a < w.off.toNat ∨ w.off.toNat + 4 * (w.cnt + 1) * g.width ≤ a →
              Memory.byte g'.spill a = Memory.byte g.spill a) ∧ SameMemory s t ∧ OtherGroups s t s.cur) ∧
        (checkUses s s.cur g { vw := (List.range (w.cnt + 1)).map (w.data.toNat + ·) } = none →
          ∃ t op g', exec (.fil w) s = .next t ∧ t.op? s.fresh = some op ∧ op.kind = .fill ∧
            op.dst = g.bv + w.data.toNat - 0x10 ∧ t.group? s.cur = some g' ∧ g'.spill = g.spill ∧ g'.V = g.V ∧
            (∀ j l, j ≤ w.cnt → l < g.width →
              (l, j, BitVec.ofNat 32 (natOfBytes (Memory.bytes g.spill (at' j l) 4))) ∈ op.res) ∧
            SameMemory s t ∧ OtherGroups s t s.cur)) ∧
      (¬ fits (4 * (w.cnt + 1) * g.width) →
        (checkUses s s.cur g { vr := (List.range (w.cnt + 1)).map (fun j => (w.data.toNat + j, 0)) } = none →
          exec (.spl w) s = traps s g cBounds) ∧
        (checkUses s s.cur g { vw := (List.range (w.cnt + 1)).map (w.data.toNat + ·) } = none →
          exec (.fil w) s = traps s g cBounds))) ∧
    (w.idx = true → w.off.toNat % 32 = 0 → fits 32 → checkUses s s.cur g { kr := [w.k] } = none →
      (∃ t g', exec (.spl w) s = .next t ∧ t.group? s.cur = some g' ∧ w.off.toNat / 32 ∈ g'.spillTags ∧
        ∀ b, b < 32 → Memory.byte g'.spill (w.off.toNat + b) = BitVec.ofNat 8 ((g.rdK w.k).toNat / 2 ^ (8 * b))) ∧
      (w.off.toNat / 32 ∉ g.spillTags → exec (.fil w) s = traps s g cRecordInvalid) ∧
      (w.off.toNat / 32 ∈ g.spillTags → ∃ t op, exec (.fil w) s = .next t ∧ t.op? s.fresh = some op ∧ op.kind = .fillRec ∧
        op.dst = w.k.toNat ∧ op.rec2 = BitVec.ofNat 256 (natOfBytes (Memory.bytes g.spill w.off.toNat 32))))

/-- R64, R68, R207, R235, R262: what SPL, FIL, an SFU operation and PROBE leave is delivered at once by their completion. -/
def Sys2Proof.Claims.CapturedResultsDeliver : Prop :=
  ∀ (s : State) (g : Group) (i : Nat) (op : LongOp), s.op? i = some op → s.group? op.gid = some g →
    s.draining op.cx = true → op.recalled = false →
    op.kind ∈ [OpKind.spill, .fill, .sfu, .fillRec, .probe] →
    ∃ t g', exec (.operationComplete i) s = .next t ∧ t.op? i = none ∧ t.group? op.gid = some g' ∧ SameMemory s t ∧
      SameDevice s t ∧ OtherGroups s t op.gid ∧
      (∀ f, g'.count f = if op.flag = some f then g.count f - 1 else g.count f) ∧
      (op.kind = .fillRec → g'.rdK (BitVec.ofNat 4 op.dst) = op.rec2 ∧ g'.V = g.V) ∧
      (op.kind = .probe → g'.rdM (BitVec.ofNat 4 op.dst) =
        ((g.rdM (BitVec.ofNat 4 op.dst) &&& ~~~ op.exm) ||| op.fin) ∧ g'.V = g.V) ∧
      (op.kind = .fill ∨ op.kind = .sfu → op.toReg = true → (op.res.map (fun e => (e.1, e.2.1))).Nodup →
        (∀ e ∈ op.res, op.dst + e.2.1 < 512) → ∀ l j v, (l, j, v) ∈ op.res → g.sliceGone l = false →
          g'.vget (op.dst + j) l = v) ∧
      (op.kind = .spill → op.res = [] → g'.V = g.V)

/-- SPL and FIL on the spill stack, and the delivery of captured results: SpillStackAccesses and
CapturedResultsDeliver. -/
def Obligations.SpilledAndCapturedResults : Prop :=
  SpillStackAccesses ∧ CapturedResultsDeliver

/-- R72, R260, R261, R262, R275, R286: FENCE goes on once what its order waits for has been made: every earlier read, and with
a release every earlier write; DRAINST goes on once every write of the group has been tested, or reports the oldest record;
PROBE goes on and notes the lanes whose word is mapped and in bounds, and no others. -/
def Sys2Proof.Claims.FencesAndProbe : Prop :=
  ∀ (s : State) (g : Group) (w : MemWord), s.group? s.cur = some g →
    (checkUses s s.cur g {} = none →
      (readsOut s s.cur = true ∨ (releases w.ord.toNat ≠ 0 ∧ ownStores s s.cur ≠ []) →
        exec (.fence w) s = goes s { g with status := .stalled .fence }) ∧
      (w.ord = 0 → readsOut s s.cur = false → exec (.fence w) s = goes s (g.adv 2)) ∧
      (readsOut s s.cur = false → releases w.ord.toNat = 0 →
        ∃ t, exec (.fence w) s = .next t ∧ t.group? s.cur = some (g.adv 2) ∧ OtherGroups s t s.cur ∧ SameMemory s t ∧
          (acquires w.ord.toNat ≠ 0 → ∀ e ∈ t.mem.l1, ¬ (e.core = g.core ∧ e.cx = g.cx))) ∧
      (readsOut s s.cur = false → ownStores s s.cur = [] → g.readFrom = [] →
        ∃ t, exec (.fence w) s = .next t ∧ t.group? s.cur = some (g.adv 2) ∧ OtherGroups s t s.cur ∧
          (∀ cx l, readAt t cx [] l = readAt s cx [] l) ∧
          (acquires w.ord.toNat ≠ 0 → ∀ e ∈ t.mem.l1, ¬ (e.core = g.core ∧ e.cx = g.cx)) ∧
          (releases w.ord.toNat = 5 → ∀ e ∈ t.mem.dirtyCtx, e.2 ≠ g.cx)) ∧
      (untested s s.cur (fun _ => true) = true → exec (.drainst w) s = goes s { g with status := .stalled .drain }) ∧
      (untested s s.cur (fun _ => true) = false → g.sfq = [] ∨ g.ih = true → exec (.drainst w) s = goes s (g.adv 2)) ∧
      (∀ (e : BitVec 256 × Word × Nat) rest, untested s s.cur (fun _ => true) = false → g.sfq = e :: rest → g.ih = false →
        exec (.drainst w) s = .next (takeTrap s s.cur { g with sfq := rest }
          { cause := cWriteProtect, lanes := some (BitVec.ofNat 64 (part e.1.toNat 96 64)), off := e.2.1.toInt,
            kreg := e.2.2 }))) ∧
    (∀ d, d = (w.data.extractLsb' 0 4 : BitVec 4) →
      checkUses s s.cur g { kr := [w.k], msk := [d], vr := if w.idx then [(w.index.toNat, 0)] else [] } = none →
      Rec.wf (g.rdK w.k) = true → Rec.right (g.rdK w.k) 0 = true →
      s.brandLive g.cx (Rec.effBrand (g.rdK w.k) g.brd) = true → FlagRoom g w.sel →
      ∃ t op g', exec (.probe w) s = .next t ∧ t.op? s.fresh = some op ∧ t.group? s.cur = some g' ∧ op.kind = .probe ∧
        op.dst = d.toNat ∧ op.exm = g.exm ∧ CountedUp g g' w.sel ∧ g'.M = g.M ∧ g'.V = g.V ∧ SameMemory s t ∧
        SameDevice s t ∧ OtherGroups s t s.cur ∧
        let r : Rec := g.rdK w.k
        ∀ l, op.fin.getLsbD l = true ↔ Active g l ∧
          laneOff g w w.scl l % 4 = 0 ∧ 0 ≤ laneOff g w w.scl l ∧ laneOff g w w.scl l + 4 ≤ r.extent ∧
          ∀ x, r.base + (laneOff g w w.scl l).toNat ≤ x → x < r.base + (laneOff g w w.scl l).toNat + 4 →
            if r.special then x < (coreStore s s.cur g r.obj).2
            else ∃ p, translate s g.cx r.obj (x / 65536 * 65536) true = .ok p)

/-! Engines. -/

/-- R62, R238, R239, R240, R241, R242, R278: XCOPY, QREKEY and XGATH whose checks pass and whose pages translate become one
operation of their engine, with every destination line still to be written and its ownership asked for; one with nothing to
copy goes on at once. -/
def Sys2Proof.Claims.EngineCopiesIssue : Prop :=
  ∀ (s : State) (g : Group) (w : MemWord) (i : Instr) (base : OpKind) (u : Uses) (n : Nat) (rows : List (Nat × Nat)),
    let src : BitVec 4 := w.data.extractLsb' 0 4
    let byScalar : Uses := { kr := [w.k, src], sc := [w.index.toNat] }
    (i, base, u, n, rows) ∈ [(Instr.xcopy w, OpKind.copy, byScalar, (g.rdS w.index).toNat, []),
      (.qrekey w, .rekey, byScalar, (g.rdS w.index).toNat, []),
      (.xgath w, .gather, { kr := [w.k, src], vr := [(w.index.toNat, 0)] }, 0,
        g.activeReal.map (fun l => (l, (g.src w.index 0 l).toNat)))] →
    Ready s g u → engineCause s s.cur g base (g.rdK w.k) (g.rdK src) n rows = none → FlagRoom g w.sel →
    g.reportsFull = false →
    let kind := engineKind base (g.rdK w.k) (g.rdK src)
    let op := engineOp s s.cur g w kind n rows
    let nothing : Prop := if base = .gather then rows = [] else n = 0
    (nothing → w.idx = false → exec i s = goes s (g.adv 2)) ∧
    (¬ nothing → engineFaults op op.units (enginePages s op).1 (enginePages s op).2 = [] →
      ∃ t o g', exec i s = .next t ∧ t.op? s.fresh = some o ∧ t.group? s.cur = some g' ∧ o.kind = kind ∧
        o.rec1 = g.rdK w.k ∧ o.rec2 = g.rdK src ∧ o.count = n ∧ o.rows = rows ∧ o.flag = g.sideFlag w.sel ∧ o.gid = s.cur ∧
        (∀ j ∈ o.lines, j.stage = 0) ∧
        (∀ x ∈ op.units.flatMap (EUnit.offs (g.rdK w.k)), ∃ j ∈ o.lines, j.line = (engineByte s o o.rec1 x).loc.line) ∧
        (∀ j ∈ o.lines, j.line.cached = true → ∃ d, dirOf t j.line (if j.brd then o.brand else 0) = some d ∧
          (d.owner = s.fresh ∨ s.fresh ∈ d.queue)) ∧
        s.fresh ∈ (if base = .gather then (t.core g.core).gathQ else (t.core g.core).copyQ) ∧
        CountedUp g g' w.sel ∧ g'.V = g.V ∧ g'.S = g.S ∧ g'.Q = g.Q ∧ SameMemory s t ∧ OtherGroups s t s.cur ∧
        t.mem.stores = s.mem.stores)

/-- R269, R278, R279, R288: a line whose ownership has come to the operation is granted, and no other; once the lane accesses that
waited before it are made, the owned line's bytes are written together and it is owned no longer. Every other byte reads as
before. In deterministic mode the bytes of deterministic-shared pages are left to the commit buffer instead, under lane 0 and
the place the instruction took at its issue; that an entry holds a word of memory is the model's reading (log 135). -/
def Sys2Proof.Claims.EngineLinesAreWritten : Prop :=
  ∀ (s : State) (g : Group) (id k : Nat) (op : LongOp) (j : LineJob), s.op? id = some op → engineRuns s id op = true →
    s.group? op.gid = some g → k < 2 ^ 24 → op.lines[k]? = some j → j.brd = false → j.line.cached = true →
    peerNeeds s op = [] →
    (j.stage = 0 → (dirOf s j.line 0).map (·.owner) ≠ some id → exec (.ownershipGrant (id * 2 ^ 24 + k)) s = .next s) ∧
    (j.stage = 0 → (dirOf s j.line 0).map (·.owner) = some id → ∃ t o,
        exec (.ownershipGrant (id * 2 ^ 24 + k)) s = .next t ∧ t.op? id = some o ∧ o.lines[k]? = some { j with stage := 1 } ∧ (dirOf t j.line 0).map (·.owner) = some id ∧ SameMemory s t ∧
        t.k.groups = s.k.groups) ∧
    (j.stage = 1 → (∀ q ∈ op.lines.take k, q.stage = 2) → (∀ q ∈ op.lines, lineAsked s id op q = true) →
      lanesFirst s j.line 0 = false → (∀ d ∈ s.mem.dir, d.owner = id → id ∉ d.queue) →
      let ws := (lineBytes s op j.line).1
      let done (t : State) : Prop := exec (.lineComplete (id * 2 ^ 24 + k)) s = .next t ∧
        (∃ o, t.op? id = some o ∧ o.lines[k]? = some { j with stage := 2 }) ∧ (dirOf t j.line 0).elim True (fun d => d.owner ≠ id)
      (∀ e ∈ ws, e.1.wp = false ∧ e.1.brd = false ∧ Stands s e.1.loc) → (ws.map (·.1.loc)).Nodup →
      ((detOf s g = true → ∀ e ∈ ws, e.1.det ≠ 1 ∧ detForeign s g 0 e.1 = false) → ∃ t, done t ∧
        (∀ e ∈ ws, readAt t op.cx [] e.1.loc = ((e.2.1 &&& e.2.2) ||| (readAt s op.cx [] e.1.loc &&& ~~~ e.2.2))) ∧
        ∀ l, l ∉ ws.map (·.1.loc) → readAt t op.cx [] l = readAt s op.cx [] l) ∧
      (detOf s g = true → (∀ e ∈ ws, e.1.det = 1) → ws ≠ [] → ws.length ≤ 16 * (freePool s g.cx).length → ∃ t es, done t ∧
        t.mem.commit = s.mem.commit ++ es ∧ es.flatMap (·.bytes) = ws ∧ (es.map (·.key)).Pairwise (· < ·) ∧
        (∀ c ∈ es, c.cx = g.cx ∧ c.grid = g.grid ∧ c.gid = op.gid ∧ c.lane = 0 ∧ c.brand = op.brand ∧ c.addF32 = none ∧
          (∃ m, c.key = [blockNo s g, g.gidx, 0, op.dseq, m]) ∧ ∃ a, ∀ e ∈ c.bytes, e.1.loc.a / 4 = a) ∧
        ∀ l, readAt t op.cx [] l = readAt s op.cx [] l))

/-- XCOPY, QREKEY and XGATH become one operation, written line by line: EngineCopiesIssue and EngineLinesAreWritten. -/
def Obligations.EnginesCopy : Prop :=
  EngineCopiesIssue ∧ EngineLinesAreWritten

/-! Tiles. -/

/-- R309, R318, R322, R328, R329, R330: MZERO, MPRI and MREL on a tile as the group holds it; MZERO and MREL stall while the
tile is busy, and MPRI, MREL, MGROW, MSNAP and MOUT need the tile held. -/
def Obligations.TilesAreHeldAndFreed : Prop :=
  ∀ (s : State) (g : Group) (z : BitVec 3), Ready s g {} → (∀ d ∈ g.dfaults, d.z ≠ z.toNat) →
    let t := s.tile g.core z.toNat
    let mine : Prop := t.holder = some s.cur ∧ t.orphan = false
    let becomes (i : Instr) (t' : Tile) : Prop := ∃ u, exec i s = .next u ∧ u.tile g.core z.toNat = t' ∧
      u.group? s.cur = some (g.adv 1) ∧ OtherGroups s u s.cur ∧ SameMemory s u ∧
      ∀ c y, (c, y) ≠ (g.core, z.toNat) → u.tile c y = s.tile c y
    let stalls (i : Instr) : Prop := exec i s = goes s { g with status := .stalled (.tile z.toNat) }
    (t.holder = none → tileBusy s g.core z.toNat = true → stalls (.mzero z)) ∧
    (t.holder = none → tileBusy s g.core z.toNat = false → ∃ t', becomes (.mzero z) t' ∧ t'.holder = some s.cur ∧
      (∀ i, sget 0 t'.elems i = 0) ∧ t'.anchor = none ∧ t'.kdone = 0 ∧ t'.last = none ∧ t'.prio = g.prio ∧ t'.loops = []) ∧
    (t.holder ≠ none → ¬ mine → stalls (.mzero z)) ∧
    (mine → tileBusy s g.core z.toNat = true → stalls (.mzero z) ∧ stalls (.mrel z)) ∧
    (mine → tileBusy s g.core z.toNat = false →
      (∃ t', becomes (.mzero z) t' ∧ t'.holder = some s.cur ∧ (∀ i, sget 0 t'.elems i = 0) ∧ t'.anchor = none ∧
        t'.kdone = 0 ∧ t'.last = none ∧ t'.prio = t.prio) ∧
      (∃ t', becomes (.mrel z) t' ∧ t'.holder = none)) ∧
    (mine → ∀ p, becomes (.mpri z p) { t with prio := p.toNat }) ∧
    (¬ mine → ∀ p, exec (.mpri z p) s = traps s g cMatrixFormat ∧ exec (.mrel z) s = traps s g cMatrixFormat) ∧
    (¬ mine → (∀ c : BitVec 7, checkUses s s.cur g { sc := [c.toNat] } = none →
        exec (.mgrow z c) s = traps s g cMatrixFormat) ∧
      (∀ (e : Bool) (k : BitVec 4), checkUses s s.cur g { kr := [k] } = none → Rec.wf (g.rdK k) = true →
        Rec.right (g.rdK k) 1 = true →
        exec (.msnap e z k) s = traps s g cMatrixFormat ∧ exec (.mout e z k) s = traps s g cMatrixFormat))

/-- R62, R309, R310, R316, R323, R390: an MLOOP whose records fit, with leave granted, becomes the tile's newest loop, or is
complete at once with no K-steps; it stalls while another group holds the tile or four of its loops are outstanding. -/
def Sys2Proof.Claims.MatrixLoopsStart : Prop :=
  ∀ (s : State) (g : Group) (e : Bool) (z : BitVec 3) (k : BitVec 4) (c : BitVec 7) (x : LoopExt),
    Ready s g { kr := [k, x.kb], sc := [c.toNat] } → (∀ d ∈ g.dfaults, d.z ≠ z.toNat) →
    let i : Instr := .mloop e z k c x
    let a : Rec := g.rdK k
    let b : Rec := g.rdK x.kb
    let n := (g.rdS c).toNat
    let t := s.tile g.core z.toNat
    let mine : Prop := t.holder = some s.cur ∧ t.orphan = false
    let sound : Prop := Rec.wf a = true ∧ Rec.wf b = true
    let readable : Prop := Rec.right a 0 = true ∧ Rec.right b 0 = true
    let formed : Prop := a.lay ≠ 6 ∧ b.lay = 6 ∧ b.sce % 16 = x.planes.toNat ∧ (isD a.fmt = true → 3 ≤ a.sce) ∧
      (x.anc = true → mine → ∀ v, t.anchor = some v → v = x.anchor.toNat)
    let live : Prop := s.brandLive g.cx (a.effBrand g.brd) = true
    let within : Prop := 32 * n ≤ a.csize 0 ∧ 32 * n ≤ b.size 1
    let stored : Prop := StepsStored s g a b (x.planes.toNat + 1) 0 n
    (¬ sound → exec i s = traps s g cRecordInvalid) ∧
    (sound → ¬ readable → exec i s = traps s g cRights) ∧
    (sound → readable → ¬ formed → exec i s = traps s g cMatrixFormat) ∧
    (sound → readable → formed → ¬ live → exec i s = traps s g cBrandInvalid) ∧
    (sound → readable → formed → live → ¬ within → exec i s = traps s g cBounds) ∧
    (sound → readable → formed → live → within → ¬ stored → exec i s = traps s g cBounds) ∧
    (sound → readable → formed → live → within → stored → FlagRoom g e →
      ((t.holder ≠ none ∧ ¬ mine) ∨ 4 ≤ t.loops.length → exec i s = goes s { g with status := .stalled (.tile z.toNat) }) ∧
      (t.holder = none ∧ t.loops.length < 4 ∨ mine ∧ t.loops.length < 4 →
        (let die := Config.dieOfCore g.core
         hasLeave s die s.cur = true ∨ (waitingGrants s die = [] ∧ canGrant s die = true)) →
        ∃ u g' t', exec i s = .next u ∧ u.group? s.cur = some g' ∧ u.tile g.core z.toNat = t' ∧ t'.holder = some s.cur ∧
          t'.anchor = (if x.anc then some x.anchor.toNat else if mine then t.anchor else none) ∧
          (∀ j, sget 0 t'.elems j = if mine then sget 0 t.elems j else 0) ∧
          (n = 0 → g' = g.adv 2 ∧ t'.loops = if mine then t.loops else []) ∧
          (0 < n → CountedUp g g' e ∧ ∃ l, t'.loops = (if mine then t.loops else []) ++ [l] ∧ t'.last = some l ∧ l.gid = s.cur ∧
            l.recA = g.rdK k ∧ l.recB = g.rdK x.kb ∧ l.steps = n ∧ l.done = 0 ∧ l.first = 0 ∧ l.planes = x.planes.toNat + 1 ∧
            l.passes = (if x.two then 2 else 1) ∧ l.exm = g.exm ∧ l.flag = g.sideFlag e ∧ l.brand = a.effBrand g.brd) ∧
          g'.S = g.S ∧ g'.V = g.V ∧ g'.K = g.K ∧ OtherGroups s u s.cur ∧ SameMemory s u))

/-- R324, R335: MGROW adds K-steps to the tile's most recent loop while it is outstanding, and otherwise starts a
continuation loop behind it, which needs a live brand (R297); a range outside the captured records raises BOUNDS. -/
def Sys2Proof.Claims.MatrixLoopsGrow : Prop :=
  ∀ (s : State) (g : Group) (z : BitVec 3) (c : BitVec 7) (l : MLoop),
    Ready s g { sc := [c.toNat] } → (∀ d ∈ g.dfaults, d.z ≠ z.toNat) →
    let t := s.tile g.core z.toNat
    let n := (g.rdS c).toNat
    let i : Instr := .mgrow z c
    t.holder = some s.cur → t.orphan = false →
    (t.last = none → exec i s = traps s g cMatrixFormat) ∧
    (t.last = some l → n ≠ 0 → (∀ q ∈ t.loops, q.id ≠ l.id) → s.brandLive g.cx l.brand = false →
      exec i s = traps s g cBrandInvalid) ∧
    (t.last = some l → (n ≠ 0 → (∀ q ∈ t.loops, q.id ≠ l.id) → s.brandLive g.cx l.brand = true) →
      let covers : Prop := 32 * (l.first + l.steps + n) ≤ Rec.csize l.recA 0 ∧
        32 * (l.first + l.steps + n) ≤ Rec.size l.recB 1 ∧ StepsStored s g l.recA l.recB l.planes (l.first + l.steps) n
      (¬ covers → exec i s = traps s g cBounds) ∧
      (covers → n = 0 → exec i s = goes s (g.adv 1)) ∧
      (covers → n ≠ 0 → (∃ q ∈ t.loops, q.id = l.id) →
        ∃ u t', exec i s = .next u ∧ u.tile g.core z.toNat = t' ∧ u.group? s.cur = some (g.adv 1) ∧
          t'.elems = t.elems ∧ t'.anchor = t.anchor ∧ t'.kdone = t.kdone ∧ t'.loops.length = t.loops.length ∧
          (∀ (j : Nat) q, t.loops[j]? = some q → ∃ q', t'.loops[j]? = some q' ∧ q'.id = q.id ∧ q'.done = q.done ∧
            q'.steps = (if q.id = l.id then q.steps + n else q.steps)) ∧ SameMemory s u) ∧
      (covers → n ≠ 0 → (∀ q ∈ t.loops, q.id ≠ l.id) → (∀ f, l.flag = some f → g.count f < 63) →
        hasLeave s (Config.dieOfCore g.core) s.cur = true →
        ∃ u t' q, exec i s = .next u ∧ u.tile g.core z.toNat = t' ∧ t'.loops = t.loops ++ [q] ∧ t'.last = some q ∧
          q.first = l.first + l.steps ∧ q.steps = n ∧ q.done = 0 ∧ q.recA = l.recA ∧ q.recB = l.recB ∧ q.flag = l.flag ∧
          q.exm = g.exm ∧ t'.elems = t.elems ∧ t'.anchor = t.anchor ∧ SameMemory s u ∧
          ∃ g', u.group? s.cur = some g' ∧ ∀ f, g'.count f = if l.flag = some f then g.count f + 1 else g.count f))

/-- MLOOP becomes the tile's newest loop; MGROW lengthens it or continues it: MatrixLoopsStart and MatrixLoopsGrow. -/
def Obligations.LoopsStartAndGrow : Prop :=
  MatrixLoopsStart ∧ MatrixLoopsGrow

/-- R288, R325, R326, R327: MSNAP leaves to be written the 36,928 bytes of the tile's state (elements of 9 bytes, then the trailer
with the anchor and the K-step count), which stand at once where the record is the group's spill stack (R235); MOUT goes on,
and is to read the tile after the loops issued before it. A record whose storage ends before the last byte raises BOUNDS. -/
def Sys2Proof.Claims.TilesAreWrittenOut : Prop :=
  ∀ (s : State) (g : Group) (e : Bool) (z : BitVec 3) (k : BitVec 4),
    Ready s g { kr := [k] } → (∀ d ∈ g.dfaults, d.z ≠ z.toNat) → FlagRoom g e → g.reportsFull = false →
    let t := s.tile g.core z.toNat
    let r : Rec := g.rdK k
    let brand := r.effBrand g.brd
    t.holder = some s.cur → t.orphan = false → Rec.wf r = true → r.right 1 = true → s.brandLive g.cx brand = true →
    let place (offs : List Nat) (o : Nat) : PByte :=
      if r.special then { loc := { sp := (coreStore s s.cur g r.obj).1, a := o }, wp := false, brd := false, det := 0 }
      else (translateChunks s g.cx r.obj true offs).byte o
    let maps (offs : List Nat) : Prop := r.special = true ∨
      ((∀ o ∈ offs, ∃ p, (translateChunks s g.cx r.obj true offs).at o = .ok p) ∧
        linesNeeding s g.cx brand (offs.map (place offs)) = [])
    let now (offs : List Nat) : Prop := detOf s g = true → ∀ o ∈ offs, (place offs o).det = 0
    let stack : Prop := r.special = true ∧ (coreStore s s.cur g r.obj).1 = .spill s.cur
    let room (offs : List Nat) : Prop := r.special = true → ∀ o ∈ offs, o < (coreStore s s.cur g r.obj).2
    (r.fmt = 0x0A → r.lay = 0 → r.size 1 = 1 → r.size 2 = 1 → 36928 ≤ r.size 0 →
      let offs := (List.range 36928).map (r.base + ·)
      (¬ room offs → exec (.msnap e z k) s = traps s g cBounds) ∧
      (room offs → maps offs →
        now offs ∨ (detOf s g = true ∧ 36928 ≤ 16 * (freePool s g.cx).length ∧
          ∀ o ∈ offs, (place offs o).det = 1 ∧ (place offs o).wp = false) →
        ∃ u op g', exec (.msnap e z k) s = .next u ∧ u.op? s.fresh = some op ∧ op.kind = .snap ∧
        op.todo = [] ∧ u.group? s.cur = some g' ∧ CountedUp g g' e ∧ g'.V = g.V ∧ SameMemory s u ∧
        u.tile g.core z.toNat = t ∧
        ∀ j v, (j < 36864 → v = (sget 0 t.elems (j / 9)).toNat / 2 ^ (8 * (j % 9)) % 256) →
          (36864 ≤ j → v = ((t.anchor.elim 0 (fun a => 1024 + a)) + t.kdone % 2 ^ 32 * 2 ^ 32) / 2 ^ (8 * (j - 36864)) % 256) →
          j < 36928 →
          (stack → Memory.byte g'.spill (r.base + j) = BitVec.ofNat 8 v) ∧
          (¬ now offs → ∃ c ∈ u.mem.commit, c.gid = s.cur ∧ c.lane = 0 ∧ c.brand = brand ∧
            (∃ m, c.key = [blockNo s g, g.gidx, 0, sget 0 g.nDefer 0, m]) ∧ c.addF32 = none ∧
            (place offs (r.base + j), BitVec.ofNat 8 v, 0xFF) ∈ c.bytes) ∧
          (¬ stack → now offs → (∀ o ∈ offs, (place offs o).wp = false) → ∃ n st, mget u.mem.stores n = some st ∧ st.op = s.fresh ∧
            (place offs (r.base + j), BitVec.ofNat 8 v, 0xFF) ∈ st.bytes))) ∧
    (r.fmt = 0 ∨ r.fmt = 2 ∨ isD r.fmt = true → r.lay ≠ 6 → ¬ room (outOffs r) → exec (.mout e z k) s = traps s g cBounds) ∧
    (r.fmt = 0 ∨ r.fmt = 2 ∨ isD r.fmt = true → r.lay ≠ 6 → room (outOffs r) → maps (outOffs r) → now (outOffs r) →
      ∃ u op g', exec (.mout e z k) s = .next u ∧ u.op? s.fresh = some op ∧ op.kind = .out ∧ op.count = 0 ∧
        op.tile = z.toNat ∧ op.rec1 = g.rdK k ∧ op.afterOps = t.loops.map (·.id) ∧ u.group? s.cur = some g' ∧
        CountedUp g g' e ∧ g'.V = g.V ∧ u.mem.stores = s.mem.stores ∧ u.tile g.core z.toNat = t)

/-- R311, R318, R323: K_STEP takes the tile of highest priority, then of the oldest loop, and adds one K-step of its
earliest loop whole: every cell becomes what the products of the step make of it, and no other tile changes. In a cycle that
the power limiter withholds it adds none (R392). -/
def Sys2Proof.Claims.KStepsAreAddedWhole : Prop :=
  ∀ (s : State) (core z : Nat) (t : Tile) (l : MLoop) (g : Group),
    (z, t, l) ∈ readyTiles s core → (∀ y ∈ readyTiles s core, y = (z, t, l) ∨ y.2.1.prio < t.prio ∨
      (y.2.1.prio = t.prio ∧ l.id < y.2.2.id)) →
    ((tqarbOf s (Config.clusterOf core)).extractLsb' 30 2).toNat = 0 → t = s.tile core z → s.group? l.gid = some g →
    (t.orphan = true → l.done + 1 ≠ l.steps) → g.status ≠ .ended →
    let a : Rec := l.recA
    let j := l.first + l.done
    (withheld s core 4 = true → ∃ u, exec (.kStep core) s = .next u ∧ u.k = s.k ∧ u.mem = s.mem ∧ ∀ c y, u.tile c y = s.tile c y) ∧
    (withheld s core 4 = false → StepMapped s l →
     ∀ (row : Nat → ARow), (∀ m, m < min 64 (a.csize 1) →
        portA a l.passes m (stepRead s g l) (32 * j) = some (row m) ∧ (row m).m = m) →
      let cols := slabCols s l.gid g l j
      (∀ c ∈ cols.take (min 64 (Rec.size l.recB 0)), c.1 ≠ 0xFF) →
      let anchor := t.anchor.getD (implicitAnchor ((aRows a).map row) cols (min 64 (Rec.size l.recB 0)))
      ∃ u t', exec (.kStep core) s = .next u ∧ u.tile core z = t' ∧ t'.anchor = some anchor ∧ t'.kdone = t.kdone + 1 ∧
        (∀ m c col, m < 64 → c < 64 → cols[c]? = some col →
          sget 0 t'.elems (64 * m + c) = if m < min 64 (a.csize 1) then (stepCell anchor (row m) col (sget 0 t.elems (64 * m + c))).1
            else sget 0 t.elems (64 * m + c)) ∧
        t'.holder = t.holder ∧ t'.prio = t.prio ∧
        ((t.loops.map (·.id)).Nodup → l.done + 1 = l.steps → t'.loops = t.loops.tail ∧
          ∃ g', u.group? l.gid = some g' ∧ g'.V = g.V ∧
            ∀ f, g'.count f = if l.flag = some f then g.count f - 1 else g.count f) ∧
        (l.done + 1 ≠ l.steps → ∃ q, t'.loops.head? = some q ∧ q.id = l.id ∧ q.done = l.done + 1) ∧
        (∀ c y, (c, y) ≠ (core, z) → u.tile c y = s.tile c y) ∧ SameMemory s u)

/-- R58: a block product S under exponents eA and eB is shifted to the tile's anchor, rounded once to the nearest integer with
ties to even, and added modulo 2^64, or sets `ov` where it does not fit. R311: a cell takes the products of its row and column.
R315: what NaN and infinite elements of A set. R312, R313: the exponents and integers that the A port gives 32 elements of one
block. -/
def Sys2Proof.Claims.PortsAndCells : Prop :=
  (∀ (x : BitVec 72) (S t : Int) (eA eB A : Nat),
    let sh : Int := (eA : Int) + eB - A
    NearestEven t S sh →
    let y := addBlock x S eA eB A
    let fits : Prop := -(2 ^ 63) ≤ t ∧ t ≤ 2 ^ 63 - 1
    (∀ i, 65 ≤ i → y.1.getLsbD i = x.getLsbD i) ∧
    (fits → y.1.getLsbD 64 = x.getLsbD 64 ∧ (part y.1.toNat 0 64 : Int) = (part x.toNat 0 64 + t) % 2 ^ 64) ∧
    (¬ fits → y.1.getLsbD 64 = true ∧ part y.1.toNat 0 64 = part x.toNat 0 64) ∧
    (y.2 &&& fOF ≠ 0 ↔ ¬ fits) ∧ (y.2 &&& fNX ≠ 0 ↔ ¬ Exactly t S sh)) ∧
  (∀ (A : Nat) (row : ARow) (col : Nat × List Int) (x : BitVec 72), col.2.length = 32 →
    let plain := stepCell A { row with specials := [] } col x
    let y := stepCell A row col x
    let S (as : List Int) : Int := ((List.range 32).map (fun i => as.getD i 0 * col.2.getD i 0)).sum
    let b (e : Nat × FV) : Int := col.2.getD e.1 0
    (∀ E as, row.prods = [(E, as)] → as.length = 32 → plain = addBlock x (S as) E col.1 A) ∧
    (∀ E as E' as', row.prods = [(E, as), (E', as')] → as.length = 32 → as'.length = 32 →
      plain.1 = (addBlock (addBlock x (S as) E col.1 A).1 (S as') E' col.1 A).1) ∧
    (∀ i, i < 65 ∨ 68 ≤ i → y.1.getLsbD i = plain.1.getLsbD i) ∧
    (y.1.getLsbD 65 = true ↔ plain.1.getLsbD 65 = true ∨
      ∃ e ∈ row.specials, e.2.isNaN = true ∨ (e.2.isInf = true ∧ b e = 0)) ∧
    (y.1.getLsbD 66 = true ↔ plain.1.getLsbD 66 = true ∨
      ∃ e ∈ row.specials, (e.2 = .inf false ∧ 0 < b e) ∨ (e.2 = .inf true ∧ b e < 0)) ∧
    (y.1.getLsbD 67 = true ↔ plain.1.getLsbD 67 = true ∨
      ∃ e ∈ row.specials, (e.2 = .inf false ∧ b e < 0) ∨ (e.2 = .inf true ∧ 0 < b e)) ∧
    (y.2 &&& fNV ≠ 0 ↔ plain.2 &&& fNV ≠ 0 ∨ ∃ e ∈ row.specials, e.2.isInf = true ∧ b e = 0)) ∧
  (∀ (r : Rec) (p m : Nat) (bytes : Nat → List Byte) (k0 : Nat), 0 < p →
    let e (i : Nat) : Nat := aElem r m (k0 + i)
    let bits (i : Nat) : Nat × Nat := srcParts r (e i) (bytes (e i))
    let x (i : Nat) : Option FV := elemValue r.fmt (bits i).1 r.sce (r.dither (e i)) (bits i).2
    let W := 10 * p
    let hi : Int := 2 ^ (W - 1) - 1
    let lo : Int := -(2 ^ (W - 1))
    let val (n : Bool) (v : Nat) : Int := if n then -(v : Int) else v
    let clamp (t : Int) : Int := max lo (min hi t)
    ((∃ i, i < 32 ∧ x i = none) → portA r p m bytes k0 = none) ∧
    ((∀ i, i < 32 → (x i).isSome = true) →
      ∃ row, portA r p m bytes k0 = some row ∧ row.m = m ∧
        (∀ i v, (i, v) ∈ row.specials ↔ i < 32 ∧ x i = some v ∧ (v.isNaN = true ∨ v.isInf = true)) ∧
        (isPB r.fmt = false → ∀ e0, (isInt r.fmt = true → e0 = 127) → (isD r.fmt = true → e0 = r.sce - 3) →
          (isAQ r.fmt = true → ∀ i, i < 32 → e0 = part (bits i).1 0 8) →
          (isInt r.fmt = false → isD r.fmt = false → isAQ r.fmt = false → e0 = 0) → e0 ≤ 254 →
          ∃ E as, row.prods = [(E, as)] ∧ e0 ≤ E ∧ E ≤ 254 ∧
            (let fits (E : Nat) : Prop := ∀ i n v q t, i < 32 → x i = some (.fin n v q) → NearestEven t (val n v) (q - E + 127) →
              lo ≤ t ∧ t ≤ hi
             (∀ E', e0 ≤ E' → E' < E → ¬ fits E') ∧ (E < 254 → fits E)) ∧
            (∀ i n v q t, i < 32 → x i = some (.fin n v q) → NearestEven t (val n v) (q - E + 127) →
              as[i]? = some (clamp t)) ∧
            (∀ i v, (i, v) ∈ row.specials → as[i]? = some 0) ∧
            (row.flags &&& fNX ≠ 0 ↔ ∃ i n v q a, i < 32 ∧ x i = some (.fin n v q) ∧ as[i]? = some a ∧
              ¬ Exactly a (val n v) (q - E + 127)) ∧
            (row.flags &&& fUF ≠ 0 ↔ ∃ i n v q, i < 32 ∧ x i = some (.fin n v q) ∧ v ≠ 0 ∧ as[i]? = some 0)) ∧
        (isPB r.fmt = true → ∀ E0 E1, (∀ i, i < 32 → part (bits i).1 0 8 = E0 ∧ part (bits i).1 8 8 = E1) →
          let n := fmtBits r.fmt
          let sel (i : Nat) : Nat := if part (bits i).2 (n - 1) 1 = 1 then E1 else E0
          let d := max E0 E1 - min E0 E1
          let exact (as : List Int) (E : Nat) (k : Nat → Prop) : Prop := as.length = 32 ∧
            ∀ i s v q, i < 32 → x i = some (.fin s v q) → ∃ a, as[i]? = some a ∧
              (k i → Exactly a (val s v) (q - E + 127)) ∧ (¬ k i → a = 0)
          (n - 2 + d + 1 ≤ W → ∃ as, row.prods = [(min E0 E1, as)] ∧ exact as (min E0 E1) (fun _ => True)) ∧
          (W < n - 2 + d + 1 → E0 ≠ E1 → ∃ as as', row.prods = [(E0, as), (E1, as')] ∧
            exact as E0 (fun i => sel i = E0) ∧ exact as' E1 (fun i => sel i = E1)))))

/-- R332, R333: a K-step whose reads do not translate pauses its loop and changes no cell; a malformed block ends the loop with
MATRIX_FORMAT due in its group, the tile keeps its earlier K-steps, and the loop's flag counts down. R319, R320: TQARB is written field by field, and the outrider makes the contended choices. -/
def Sys2Proof.Claims.TileQueuesAreArbitrated : Prop :=
  (∀ (s : State) (core z : Nat) (t : Tile) (l : MLoop) (g : Group), readyTiles s core = [(z, t, l)] → t = s.tile core z →
    s.group? l.gid = some g → withheld s core 4 = false → (∀ q ∈ t.loops.tail, q.id ≠ l.id) →
    (¬ StepMapped s l →
      ∃ u t' q, exec (.kStep core) s = .next u ∧ u.tile core z = t' ∧ t'.elems = t.elems ∧ t'.kdone = t.kdone ∧
        t'.loops = q :: t.loops.tail ∧ q.paused = true ∧ q.done = l.done ∧ u.k.groups = s.k.groups ∧ SameMemory s u) ∧
    (StepMapped s l → t.orphan = false → g.status ≠ .ended →
      (∃ m, m < min 64 (Rec.csize l.recA 1) ∧ portA l.recA l.passes m (stepRead s g l) (32 * (l.first + l.done)) = none) ∨
        (∃ c ∈ (slabCols s l.gid g l (l.first + l.done)).take (min 64 (Rec.size l.recB 0)), c.1 = 0xFF) →
      ∃ u t' g', exec (.kStep core) s = .next u ∧ u.tile core z = t' ∧ t'.elems = t.elems ∧ t'.kdone = t.kdone ∧
        t'.anchor = t.anchor ∧ t'.holder = t.holder ∧ t'.loops = t.loops.tail ∧ u.group? l.gid = some g' ∧
        (∃ d, g'.dfaults = g.dfaults ++ [d] ∧ d.cause = cMatrixFormat ∧ d.flag = l.flag ∧ d.z = z ∧ d.lanes = l.exm) ∧
        (∀ f, g'.count f = if l.flag = some f then g.count f - 1 else g.count f) ∧ g'.V = g.V ∧ SameMemory s u)) ∧
  (∀ (s : State) (c : Nat) (v : Word), c < Config.clusters → ∃ u, exec (.tqarbWrite c v) s = .next u ∧
    let o := tqarbOf s c
    let w := tqarbOf u c
    ((w.extractLsb' 30 2).toNat = if (v.extractLsb' 30 2).toNat ≤ 1 then (v.extractLsb' 30 2).toNat else (o.extractLsb' 30 2).toNat) ∧
    w.extractLsb' 8 22 = 0 ∧
    ((w.extractLsb' 4 4).toNat = if 1 ≤ (v.extractLsb' 4 4).toNat ∧ (v.extractLsb' 4 4).toNat ≤ 7 then (v.extractLsb' 4 4).toNat
      else (o.extractLsb' 4 4).toNat) ∧
    (w.extractLsb' 0 4).toNat = (v.extractLsb' 0 4).toNat ∧ (∀ d, d ≠ c → tqarbOf u d = tqarbOf s d) ∧
    (∀ i, i < Config.coresPerCluster → (u.core (c * Config.coresPerCluster + i)).contended = 0 ∧
      (u.core (c * Config.coresPerCluster + i)).choice = none) ∧ u.k = s.k ∧ u.mem = s.mem) ∧
  (∀ (s : State) (core : Nat) (z0 z1 : Nat) (t0 t1 : Tile) (l0 l1 : MLoop),
    let v := tqarbOf s (Config.clusterOf core)
    (v.extractLsb' 30 2).toNat = 1 → (z0, t0, l0) ∈ readyTiles s core → t0.prio < (v.extractLsb' 4 4).toNat →
    (z1, t1, l1) ∈ readyTiles s core → (v.extractLsb' 4 4).toNat ≤ t1.prio → (s.core core).choice = none →
    outriderFree s (Config.clusterOf core) = true →
    let i := (s.core core).contended
    let w0 := max 1 (v.extractLsb' 0 4).toNat
    ∃ u, exec (.weightedTileChoice core) s = .next u ∧ (u.core core).contended = i + 1 ∧
      (u.core core).choice = some (if i * w0 / 16 < (i + 1) * w0 / 16 then 0 else 1) ∧
      (∀ y, u.tile core y = s.tile core y) ∧ u.k = s.k ∧ u.mem = s.mem)

/-- K-steps are added whole, what they add to a cell, and the order of priority and of TQARB: KStepsAreAddedWhole,
PortsAndCells and TileQueuesAreArbitrated. -/
def Obligations.LoopsAddWholeSteps : Prop :=
  KStepsAreAddedWhole ∧ PortsAndCells ∧ TileQueuesAreArbitrated

/-- R326, R59: once the loops before it are complete, MOUT_READOUT reads the tile as one state, leaves it as it is, and
issues the write of every element inside the record, as the read-out rule rounds it, to the bits of the element alone (the
mask: all ones for whole bytes). The model's choices: a page translated at issue is written through that translation (log 91,
DEDUCED), and it waits for the K-steps that the loops had when it issued, not for those a later MGROW adds (log 120). -/
def Sys2Proof.Claims.ReadOutTakesOneState : Prop :=
  ∀ (s : State) (i : Nat) (op : LongOp) (g : Group), s.op? i = some op → s.group? op.gid = some g → op.kind = .out →
    op.count = 0 → op.parkNo = 0 → s.active op.cx = true → opSaved s op = false →
    let t := s.tile op.core op.tile
    let r : Rec := op.rec1
    let known (o : Nat) : Option PageTr := op.pmap.find? (fun p => p.covers r.obj o)
    let cs := translateChunks s op.cx r.obj true ((outOffs r).filter (fun o => !op.pmap.any (fun p => p.covers r.obj o)))
    let place (o : Nat) : PByte :=
      if r.special then { loc := { sp := (coreStore s op.gid g r.obj).1, a := o }, wp := false, brd := false, det := 0 }
      else match known o with
        | some p => p.byte o
        | none => cs.byte o
    (detOf s g = true → ∀ o ∈ outOffs r, (place o).det = 0) →
    (∀ l ∈ t.loops, l.id ∉ op.afterOps ∨ (l.id = op.ndst ∧ op.dst ≤ l.done)) → t.orphan = false →
    r.fmt = 0 ∨ r.fmt = 2 ∨ isD r.fmt = true → r.lay ≠ 6 →
    (r.special = true ∨ ((∀ o ∈ outOffs r, (known o).isSome = true ∨ ∃ p, cs.at o = .ok p) ∧
      linesNeeding s op.cx op.brand ((outOffs r).map place) = [])) →
    ∃ u op', exec (.moutReadout i) s = .next u ∧ u.op? i = some op' ∧ op'.count = 1 ∧ op'.todo = [] ∧
      u.tile op.core op.tile = t ∧ SameMemory s u ∧
      ∀ m c d v b, m < 64 → c < 64 → outElem r m c = some d →
        (isD r.fmt = false → v = (readFloat (floatFmt r.fmt) (t.anchor.getD 0) (sget 0 t.elems (64 * m + c))).1) →
        (isD r.fmt = true → v = (BitVec.ofInt 8
          (readD (fmtBits r.fmt) r.sce (r.dither d) (t.anchor.getD 0) (sget 0 t.elems (64 * m + c))).1).toNat) →
        b < (r.unit d).n →
        (r.special = true → (coreStore s op.gid g r.obj).1 = .spill op.gid → (outOffs r).Nodup → fmtBits r.fmt % 8 = 0 →
          ∃ g', u.group? op.gid = some g' ∧ Memory.byte g'.spill ((r.unit d).off + b) = BitVec.ofNat 8 (v / 2 ^ (8 * b))) ∧
        ((r.special = true → (coreStore s op.gid g r.obj).1 ≠ .spill op.gid) → (∀ o ∈ outOffs r, (place o).wp = false) →
          ∃ n st, mget u.mem.stores n = some st ∧ st.op = i ∧ st.gid = op.gid ∧
            (place ((r.unit d).off + b), BitVec.ofNat 8 (v % 2 ^ fmtBits r.fmt * 2 ^ (r.unit d).bit / 2 ^ (8 * b)),
              BitVec.ofNat 8 ((2 ^ fmtBits r.fmt - 1) * 2 ^ (r.unit d).bit / 2 ^ (8 * b))) ∈ st.bytes)

/-- MSNAP and MOUT write the tile's state, whole or rounded: TilesAreWrittenOut and ReadOutTakesOneState. -/
def Obligations.TilesAreReadOut : Prop :=
  TilesAreWrittenOut ∧ ReadOutTakesOneState

/-! Brands. -/

/-- R294, R295, R296, R305, R306: BND.NEW and BND.FORK take the lowest free identifier of the context, or in deterministic
mode the one the rule computes, and stall at the quota, at a full table or (deterministic) while that identifier is in
use; a parent that is not live or has depth 4 raises BRAND_INVALID. -/
def Sys2Proof.Claims.BrandsAreAllocated : Prop :=
  ∀ (s : State) (g : Group) (d p : BitVec 7) (i : Instr) (parent : Nat),
    (i = .bndNew d ∧ parent = 0 ∧ Ready s g { sc := [d.toNat] }) ∨
      (i = .bndFork d p ∧ parent = (g.rdS p).toNat ∧ Ready s g { sc := [d.toNat, p.toNat] }) →
    let sound : Prop := parent < 65536 ∧ s.brandLive g.cx parent = true ∧ brandDepth s g.cx parent ≤ 3
    let full : Prop := (s.ctx g.cx).brandQuota ≤ brandCount s g.cx ∨ 65535 ≤ s.br.table.length
    let G := (s.grid? g.grid).elim 0 (·.ngroups)
    let fixed : Nat := 1 + (16 * (G * blockNo s g + g.gidx) + g.nAlloc % 16) % 65535
    let waits : Prop := exec i s = goes s { g with status := .stalled .brandQuota }
    (i = .bndFork d p → ¬ sound → exec i s = traps s g cBrandInvalid) ∧
    (sound → full → waits) ∧
    (sound → detOf s g = true → (s.brand? g.cx fixed).isSome = true → waits) ∧
    (sound → ¬ full → ∀ n, 1 ≤ n → n ≤ 65535 → s.brand? g.cx n = none →
      (detOf s g = true → n = fixed) → (detOf s g = false → ∀ m, 1 ≤ m → m < n → (s.brand? g.cx m).isSome = true) →
      ∃ u e, exec i s = .next u ∧ u.brand? g.cx n = some e ∧ e.parent = parent ∧ e.depth = brandDepth s g.cx parent + 1 ∧
        e.st = 1 ∧ (∀ c b, brandKey c b ≠ brandKey g.cx n → u.brand? c b = s.brand? c b) ∧ u.br.cells = s.br.cells ∧
        u.group? s.cur = some (({ (g.wrS d (BitVec.ofNat 32 n)) with nAlloc := g.nAlloc + 1 }).adv 1) ∧
        OtherGroups s u s.cur ∧ u.mem = s.mem)

/-- R177, R297, R305, R306: BND.SET writes BRD, BND.RET ends a brand at issue, BND.MRG ends it and stalls; a brand that is not
live, brand 0 and a parent are refused with BRAND_INVALID. -/
def Sys2Proof.Claims.BrandsAreSelectedAndEnded : Prop :=
  ∀ (s : State) (g : Group) (b : BitVec 7), Ready s g { sc := [b.toNat] } →
    let v := g.rdS b
    let live : Prop := v.toNat < 65536 ∧ s.brandLive g.cx v.toNat = true
    let ends : Prop := live ∧ v ≠ 0 ∧ hasChild s g.cx v.toNat = false
    (live → exec (.bndSet b) s = goes s (({ g with brd := BitVec.ofNat 16 v.toNat }).adv 1)) ∧
    (¬ live → exec (.bndSet b) s = traps s g cBrandInvalid) ∧
    (¬ ends → exec (.bndRet b) s = traps s g cBrandInvalid ∧ exec (.bndMrg b) s = traps s g cBrandInvalid) ∧
    (ends → ∀ e, s.brand? g.cx v.toNat = some e →
      (∃ u, exec (.bndRet b) s = .next u ∧ u.brand? g.cx v.toNat = some { e with st := 2, waiter := none } ∧
        u.group? s.cur = some (g.adv 1) ∧ u.mem = s.mem ∧ u.br.cells = s.br.cells) ∧
      (∃ u, exec (.bndMrg b) s = .next u ∧ u.brand? g.cx v.toNat = some { e with st := 3, waiter := some s.cur } ∧
        u.group? s.cur = some { g with status := .stalled (.merge v.toNat) } ∧ u.mem = s.mem ∧ u.br.cells = s.br.cells))

/-- R300, R301, R303: a write under a brand reaches the brand's own cell, materialised from what a read under the brand
reached; no brand whose chain does not pass through it sees any difference, and a child without a cell sees the write. -/
def Obligations.BrandedWritesAreIsolated : Prop :=
  ∀ (s : State) (i : Nat) (st : StoreOp) (b : Nat), mget s.mem.stores i = some st → s.draining st.cx = true →
    storeReady s i st = true → st.act = .bytes → st.rel = 0 → b = st.brand → 0 < b → PoolsApart s →
    (∀ e ∈ st.bytes, e.1.brd = true ∧ e.1.wp = false ∧ e.1.loc.cached = true) → (st.bytes.map (·.1.loc)).Nodup →
    (∀ e ∈ st.bytes, ∀ c ∈ s.br.cells, e.1.loc.line ≠ { sp := .phys, a := c.pool }) →
    (∀ e ∈ st.bytes, (cell? s st.cx b e.1.loc.line).isSome = true ∨ (reserved? s st.cx b e.1.loc.line).isSome = true) →
    ∃ t, exec (.storePerformed i) s = .next t ∧
      (∀ e ∈ st.bytes, readByte t st.cx b [] e.1 =
        ((e.2.1 &&& e.2.2) ||| (readByte s st.cx b [] e.1 &&& ~~~ e.2.2))) ∧
      (∀ (c : Nat) (p : PByte), p.brd = true → p.loc.cached = true → (∀ x ∈ s.br.cells, p.loc.line ≠ { sp := .phys, a := x.pool }) →
        (∀ k, k < 5 → Nat.repeat (parentOf s st.cx) k c ≠ b) → readByte t st.cx c [] p = readByte s st.cx c [] p) ∧
      (∀ (c : Nat) (e : PByte × Byte × Byte), e ∈ st.bytes → c ≠ 0 → c ≠ b → parentOf s st.cx c = b →
        cell? s st.cx c e.1.loc.line = none → readByte t st.cx c [] e.1 = readByte t st.cx b [] e.1)

/-- R304: BRAND_MERGE_APPLY applies the cell of lowest line: what the merging brand saw of that line is now what its parent
sees. R297, R299: BRAND_FREE frees a retiring brand with no access in flight, or a merging one with no cell left, and its
pool lines. -/
def Sys2Proof.Claims.BrandsMergeAndAreFreed : Prop :=
  ∀ (s : State) (cx b : Nat) (e : Brand), s.brand? cx b = some e → brandBusy s cx b = false → (s.ctx cx).st = 1 →
    (∀ w, e.waiter = some w → releaseReady s w 4 = true ∧
      ∀ g, s.group? w = some g → g.saved = false ∧ g.status = .stalled (.merge b)) →
    (e.st = 3 → e.parent ≠ b → PoolsApart s → ∀ c, firstCell s cx b = some c → owned s c.line e.parent = false →
      c.line.cached = true →
      ∃ t, exec (.brandMergeApply cx b) s = .next t ∧ c ∉ t.br.cells ∧
        (∀ d ∈ s.br.cells, d.brand = b → d.cx = cx → d.op = none → c.line.key ≤ d.line.key) ∧
        ∀ i, i < 256 → readByte t cx e.parent [] { loc := { c.line with a := c.line.a + i }, wp := false, brd := true, det := 0 } =
          readAt s cx [] { sp := .phys, a := c.pool + i }) ∧
    (e.st = 2 ∨ (e.st = 3 ∧ firstCell s cx b = none) →
      ∃ w, exec (.brandFree cx b) s =
          .next (if (∃ c ∈ s.br.cells, c.cx = cx ∧ c.brand = b) ∨ e.returned = true then retryPool w cx else w) ∧
        w.brand? cx b = none ∧ (∀ c ∈ w.br.cells, ¬ (c.cx = cx ∧ c.brand = b)) ∧ w.mem = s.mem ∧ w.cx = s.cx ∧
        (∀ c d, brandKey c d ≠ brandKey cx b → w.brand? c d = s.brand? c d) ∧
        (e.waiter = none → w.k = s.k) ∧
        (∀ i g, e.waiter = some i → s.group? i = some g → g.status = .stalled (.merge b) →
          w.group? i = some { g with status := .stalled (.merge 0) }))

/-- Brands: allocation, selection, end, merge and freeing: BrandsAreAllocated, BrandsAreSelectedAndEnded and
BrandsMergeAndAreFreed. -/
def Obligations.BrandsLiveAndMerge : Prop :=
  BrandsAreAllocated ∧ BrandsAreSelectedAndEnded ∧ BrandsMergeAndAreFreed

/-! Barriers and signals. -/

/-- R337, R338, R341: BAR, BARL and BARG arrive at their barrier and wait there. -/
def Sys2Proof.Claims.BarriersCountArrivals : Prop :=
  ∀ (s : State) (g : Group) (c : BitVec 7) (i : Instr) (lv id : Nat) (reg : Option Nat),
    let coop : Bool := (s.grid? g.grid).elim false Grid.coop
    (i = .bar ∧ lv = 0 ∧ id = g.block ∧ reg = none ∧ Ready s g {}) ∨
      (i = .barl c ∧ lv = 0 ∧ id = g.block ∧ reg = some (g.bs + c.toNat) ∧ Ready s g { sc := [c.toNat] }) ∨
      (i = .barg ∧ coop = true ∧ lv = 2 ∧ id = g.grid ∧ reg = none ∧ Ready s g {}) ∨
      (i = .barg ∧ coop = false ∧ lv = 1 ∧ id = clusterNode s g ∧ reg = none ∧ Ready s g {}) →
    ∃ u, exec i s = .next u ∧ (barNode u lv id).arr = (barNode s lv id).arr ++ [(s.cur, reg)] ∧
      (barNode u lv id).gen = (barNode s lv id).gen ∧
      u.group? s.cur = some { g.counted with status := .barrier } ∧
      OtherGroups s u s.cur ∧ u.mem = s.mem ∧ SameDevice s u ∧
      (lv = 1 → (barNode s lv id).arr = [] → (barNode u lv id).members = blocksOn s (id / 32) (id % 32))

/-- R338, R339, R341, R342: a generation completes when every member that has not ended has arrived and its writes are
performed: each goes on, with its L1 lines dropped, and exactly the elected member of a BARL reads 1. -/
def Sys2Proof.Claims.BarriersRelease : Prop :=
  ∀ (s : State) (lv b : Nat),
    let n := barNode s lv b
    let ms := barMembers s n
    (∀ a ∈ n.arr, ∃ g, s.group? a.1 = some g ∧ (s.ctx g.cx).st = 1) → (n.arr.map (·.1)).Nodup →
    ((∃ m ∈ ms, m ∉ n.arr.map (·.1)) → exec (.barrierComplete lv b) s = .next s) ∧
    (ms ≠ [] → (∀ m ∈ ms, m ∈ n.arr.map (·.1)) → (∀ m ∈ ms, releaseReady s m (barScope lv) = true) →
      (lv = 2 → ∃ gr, s.grid? b = some gr ∧ gr.nextBlock = gr.blocks) → lv ≤ 2 →
      ∃ u, exec (.barrierComplete lv b) s = .next u ∧ (barNode u lv b).gen = n.gen + 1 ∧
        (barNode u lv b).arr = n.arr.filter (fun a => !ms.contains a.1) ∧
        (∀ a g, a ∈ n.arr → a.1 ∈ ms → s.group? a.1 = some g → ∃ g', u.group? a.1 = some g' ∧
          g'.pc = (g.pass 1).pc ∧ g'.status = (g.pass 1).status ∧ g'.V = g.V ∧ g'.Q = g.Q ∧ g'.exm = g.exm ∧
          (∀ x ∈ u.mem.l1, ¬ (x.core = g.core ∧ x.cx = g.cx)) ∧
          (a.2 = none → g'.S = g.S) ∧
          (∀ r, a.2 = some r → g'.sget' r = 0 ∨ g'.sget' r = 1)) ∧
        (lv = 0 → (∀ x y gx gy, x ∈ n.arr → y ∈ n.arr → s.group? x.1 = some gx → s.group? y.1 = some gy →
            gx.grid = gy.grid ∧ (gx.gidx = gy.gidx → x = y)) → ∀ a g r g', a ∈ n.arr → a.1 ∈ ms → s.group? a.1 = some g → a.2 = some r → u.group? a.1 = some g' →
          (g'.sget' r = 1 ↔
            if detOf s g then ∀ y gy, y ∈ n.arr → y.1 ∈ ms → y.2 ≠ none → y ≠ a → s.group? y.1 = some gy → g.gidx < gy.gidx
            else ∃ before after, n.arr = before ++ a :: after ∧ ∀ y ∈ after, y.1 ∈ ms → y.2 = none)))

/-- Barriers count arrivals and release a whole generation: BarriersCountArrivals and BarriersRelease. -/
def Obligations.BarriersRendezvous : Prop :=
  BarriersCountArrivals ∧ BarriersRelease

/-- R345, R346: SIG.ADD and SIG.SET leave one update of the signal, behind every earlier access of the group, and go on. When
it is performed the signal is the sum, or the value set, modulo 2^64; on the group's spill stack it is at once (R235), the word
waiting for the earlier accesses (the model's reading, log 136). -/
def Sys2Proof.Claims.SignalsAreUpdated : Prop :=
  ∀ (s : State) (g : Group) (k : BitVec 4) (t : BitVec 7) (ord : BitVec 4) (i : Instr) (act : Word64 → StoreAct),
    (i, act) ∈ [(Instr.sigAdd k t ord, StoreAct.sigAdd), (.sigSet k t ord, .sigSet)] →
    Ready s g { kr := [k], sc := [t.toNat, t.toNat + 1] } → g.reportsFull = false → detOf s g = false → t.toNat < 127 →
    let r : Rec := g.rdK k
    let offs := (List.range 8).map (r.base + ·)
    let place (o : Nat) : PByte :=
      if r.special then { loc := { sp := (coreStore s s.cur g r.obj).1, a := o }, wp := false, brd := false, det := 0 }
      else (translateChunks s g.cx r.obj true offs).byte o
    let v : Word64 := (BitVec.ofNat 64 (g.rdS t).toNat) + (BitVec.ofNat 64 (g.sget' (g.bs + t.toNat + 1)).toNat) <<< 32
    let b : Nat := if g.outrider.isSome then 0 else r.effBrand g.brd
    let stack : Prop := r.special = true ∧ (coreStore s s.cur g r.obj).1 = .spill s.cur
    Rec.wf r = true → r.right 2 = true → isD r.fmt = false → s.brandLive g.cx b = true →
    (r.base % 8 ≠ 0 ∨ r.extent < 8 → exec i s = traps s g cBounds) ∧
    (r.base % 8 = 0 → 8 ≤ r.extent → (r.special = true → r.base + 8 ≤ (coreStore s s.cur g r.obj).2) →
      (stack → ownStores s s.cur ≠ [] ∨ (∃ e ∈ ownOps s s.cur, e.2.kind.isLaneAccess = true) →
        exec i s = goes s { g with status := .stalled .fence }) ∧
      (stack → ownStores s s.cur = [] → (∀ e ∈ ownOps s s.cur, e.2.kind.isLaneAccess = false) → g.readFrom = [] →
        (∀ e ∈ s.mem.stores, ∀ w ∈ e.2.bytes, ∀ o ∈ offs, w.1.loc ≠ (place o).loc) → ∃ u g', exec i s = .next u ∧ u.group? s.cur = some g' ∧ g'.pc = (g.adv 2).pc ∧ g'.status = (g.adv 2).status ∧
        g'.V = g.V ∧ g'.S = g.S ∧ u.mem.stores = s.mem.stores ∧ OtherGroups s u s.cur ∧
        (let now (h : Group) : Word64 := BitVec.ofNat 64 (natOfBytes (offs.map (Memory.byte h.spill)))
         now g' = if i = .sigAdd k t ord then now g + v else v) ∧
        ∀ x, x ∉ offs → Memory.byte g'.spill x = Memory.byte g.spill x) ∧
      (¬ stack → (r.special = true ∨ ((∀ o ∈ offs, ∃ p, (translateChunks s g.cx r.obj true offs).at o = .ok p) ∧
        linesNeeding s g.cx b (offs.map place) = [])) →
       ∃ u n st, exec i s = .next u ∧ mget u.mem.stores n = some st ∧ st.gid = s.cur ∧ st.act = act v ∧
        st.bytes.map (·.1) = offs.map place ∧ st.rel = releases ord.toNat ∧
        (∀ m, m ∈ (ownStores s s.cur).map (·.1) → m ∈ st.after) ∧ u.group? s.cur = some (g.adv 2) ∧
        SameMemory s u ∧ OtherGroups s u s.cur)) ∧
    (∀ (j : Nat) (st : StoreOp) (w : Word64), mget s.mem.stores j = some st → s.draining st.cx = true →
      storeReady s j st = true → st.brand = 0 → st.rel = 0 → st.bytes.length = 8 → (st.bytes.map (·.1.loc)).Nodup →
      (∀ e ∈ st.bytes, e.1.wp = false ∧ Stands s e.1.loc) → st.act = act w →
      let now (u : State) : Word64 := sigValue u st.cx 0 (st.bytes.map (·.1))
      ∃ u, exec (.storePerformed j) s = .next u ∧ now u = (if i = .sigAdd k t ord then now s + w else w) ∧
        ∀ l, l ∉ st.bytes.map (·.1.loc) → readAt u st.cx [] l = readAt s st.cx [] l)

/-- R348: SIG.WAIT goes on at once, with its acquire, if the signal meets its condition, and otherwise waits; a waiting group
tests again, and goes on once the condition holds. The test is made once the group's own accesses to the signal are performed
and its earlier acquires are made (R273, R275). -/
def Sys2Proof.Claims.SignalWaitsTest : Prop :=
  ∀ (s : State) (g : Group) (k : BitVec 4) (t : BitVec 7) (ord : BitVec 4) (c : BitVec 2) (id : Nat),
    let met (x v : Word64) : Prop := match c.toNat with
      | 0 => v.toNat ≤ x.toNat
      | 1 => x = v
      | 2 => x ≠ v
      | _ => x.toNat < v.toNat
    let value (r : Rec) (b : Nat) (x : Word64) : Prop :=
      let offs := (List.range 8).map (r.base + ·)
      (∀ e ∈ ownOps s id, e.2.kind.isRead = true → acquires e.2.ord = 0) ∧
      let ahead (l : Loc) : Prop := (∃ e ∈ ownStores s id, ∃ w ∈ e.2.bytes, w.1.loc = l) ∨
        ∃ e ∈ ownOps s id, e.2.kind.isRead = true ∧ ∃ p ∈ e.2.bytes, p.loc = l
      if r.special then
        (∀ o ∈ offs, ¬ ahead { sp := (coreStore s id g r.obj).1, a := o }) ∧
        x = BitVec.ofNat 64 (natOfBytes (offs.map (fun o => readAt s g.cx [] { sp := (coreStore s id g r.obj).1, a := o })))
      else
        let cs := translateChunks s g.cx r.obj true offs
        (∀ o ∈ offs, ∃ p, cs.at o = .ok p) ∧ (∀ o ∈ offs, byteOwned s g.cx b (cs.byte o) = false) ∧
        (∀ o ∈ offs, ¬ ahead (cs.byte o).loc) ∧ x = sigValue s g.cx b (offs.map cs.byte)
    let on (i : Instr) (g1 : Group) (acq : Nat) : Prop := ∃ u, exec i s = .next u ∧
      u.group? id = some (({ g1 with sigw := none, park := none }).adv 2) ∧ SameMemory s u ∧ OtherGroups s u id ∧
      (acq ≠ 0 → ∀ x ∈ u.mem.l1, ¬ (x.core = g.core ∧ x.cx = g.cx))
    let waits (i : Instr) : Prop := ∃ u g', exec i s = .next u ∧ u.group? id = some g' ∧ g'.status = .barrier ∧ g'.pc = g.pc ∧
      g'.sigw.isSome = true ∧ g'.V = g.V ∧ g'.S = g.S ∧ SameMemory s u ∧ OtherGroups s u id
    (id = s.cur → Ready s g { kr := [k], sc := [t.toNat, t.toNat + 1] } → t.toNat < 127 →
      let r : Rec := g.rdK k
      let v : Word64 := (BitVec.ofNat 64 (g.rdS t).toNat) + (BitVec.ofNat 64 (g.sget' (g.bs + t.toNat + 1)).toNat) <<< 32
      let b : Nat := if g.outrider.isSome then 0 else r.effBrand g.brd
      Rec.wf r = true → r.right 0 = true → isD r.fmt = false → s.brandLive g.cx b = true →
      r.base % 8 = 0 → 8 ≤ r.extent → (r.special = true → r.base + 8 ≤ (coreStore s s.cur g r.obj).2) →
      ∀ x, value r b x →
        (met x v → on (.sigWait k t ord c) g (acquires ord.toNat)) ∧ (¬ met x v → waits (.sigWait k t ord c))) ∧
    (∀ w, s.group? id = some g → g.sigw = some w → g.status = .barrier → g.saved = false → (s.ctx g.cx).st = 1 → w.cond = c →
      ∀ x, value w.rec1 w.brand x →
        (met x w.value → on (.sigWaitResume id) g w.ord) ∧ (¬ met x w.value → waits (.sigWaitResume id)))

/-- SIG.ADD, SIG.SET and SIG.WAIT: SignalsAreUpdated and SignalWaitsTest. -/
def Obligations.SignalsAreUpdatedAndAwaited : Prop :=
  SignalsAreUpdated ∧ SignalWaitsTest

/-! Paddocks. -/

/-- R149, R151, R153, R156: SPAWN hands over one record for each active lane that is no helper lane (one for an outrider),
behind a release at DEVICE scope: to the open node of its key, cut into groups of the node's width, or into the store. The
final part of a deterministic node's stream still takes the records of packets earlier than its close (R154). The Producer of
an outrider's record, the stall's place among the checks and which packets are earlier are the model's readings (logs 51, 50,
132). -/
def Sys2Proof.Claims.SpawnDeliversRecords : Prop :=
  ∀ (s : State) (g : Group) (c t : BitVec 7) (pw : BitVec 4) (eoff : BitVec 24),
    let n := pw.toNat + 1
    let i : Instr := .spawn c t pw eoff
    let run := (List.range n).map (t.toNat + ·)
    let out : Prop := ∃ z, g.outrider = some z
    (g.outrider = none → t.toNat < 16 → Ready s g {} → exec i s = traps s g cIllegalEncoding) ∧
    ((out ∧ t.toNat + n ≤ 128 ∧ Ready s g { sc := c.toNat :: run }) ∨
        (g.outrider = none ∧ 16 ≤ t.toNat ∧ Ready s g { sc := [c.toNat], vr := run.map (fun x => (x, 0)) }) →
      let entry := entryOf s g eoff
      let disc := (g.rdS c).toNat % 65536
      let lanes := if g.outrider.isSome then [0] else (List.range g.width).filter (Takes g)
      let word (l j : Nat) : Word := if g.outrider.isSome then g.sget' (t.toNat + j) else g.vget (g.bv + t.toNat - 16 + j) l
      let from' (l : Nat) : List Nat := match g.outrider with
        | some z => [0, 0, z, 0, sget 0 g.nSpawn l]
        | none => [(s.grid? g.grid).elim 0 (·.seq), blockNo s g, g.gidx, l, sget 0 g.nSpawn l]
      let are (die : Nat) (rs : List SpawnRec) : Prop := rs.length = lanes.length ∧
        ∀ (k l : Nat), lanes[k]? = some l → ∃ r, rs[k]? = some r ∧ r.cx = g.cx ∧ r.entry = entry ∧ r.disc = disc ∧ r.die = die ∧
          r.prod = from' l ∧ r.words = (List.range n).map (word l)
      let goesOn (u : State) : Prop := ∃ g', u.group? s.cur = some g' ∧ g'.pc = (g.adv 2).pc ∧ g'.status = (g.adv 2).status ∧
        g'.V = g.V ∧ g'.S = g.S ∧ (∀ l, l ∈ lanes → sget 0 g'.nSpawn l = sget 0 g.nSpawn l + 1) ∧ SameMemory s u ∧
        OtherGroups s u s.cur
      let late (nd : Node) : Prop := nd.det = true ∧ g.grid ≠ 0 ∧ g.grid < nd.closeAt ∧
        (s.grid? g.grid).elim 0 (·.q) ∈ nd.closeQs
      let apart : Prop := ∀ nid nd, nodeOf s g.cx entry disc = some (nid, nd) → nd.closed = true ∧ ¬ late nd
      (apart → storeRoomOf s (spawnDie s g) < lanes.length → exec i s = goes s { g with status := .stalled .storeRoom }) ∧
      (∀ nid nd, nodeOf s g.cx entry disc = some (nid, nd) → nd.closed = false ∨ late nd → storeRoomOf s nd.die < lanes.length →
        exec i s = goes s { g with status := .stalled .storeRoom }) ∧
      (apart → lanes.length ≤ storeRoomOf s (spawnDie s g) →
        (releaseReady s s.cur 4 = false → exec i s = goes s { g with status := .stalled .fence }) ∧
        (releaseReady s s.cur 4 = true → ∃ u rs, exec i s = .next u ∧ are (spawnDie s g) rs ∧ u.k.held = s.k.held ++ rs ∧
          u.k.nodes = s.k.nodes ∧ goesOn u)) ∧
      (∀ nid nd, nodeOf s g.cx entry disc = some (nid, nd) → mget s.k.nodes nid = some nd → nd.closed = true → late nd →
        lanes.length ≤ storeRoomOf s nd.die → releaseReady s s.cur 4 = true →
        ∃ u rs nd', exec i s = .next u ∧ are nd.die rs ∧ mget u.k.nodes nid = some nd' ∧ u.k.held = s.k.held ∧ goesOn u ∧
          nd'.held = nd.held ++ rs ∧ nd'.ready = nd.ready) ∧
      (∀ nid nd, nodeOf s g.cx entry disc = some (nid, nd) → mget s.k.nodes nid = some nd → nd.closed = false →
        lanes.length ≤ storeRoomOf s nd.die → releaseReady s s.cur 4 = true →
        let w := (s.grid? nd.grid).elim 16 (·.width)
        ∃ u rs nd', exec i s = .next u ∧ are nd.die rs ∧ mget u.k.nodes nid = some nd' ∧ u.k.held = s.k.held ∧ goesOn u ∧
          (nd'.ready.flatten ++ nd'.held = nd.ready.flatten ++ nd.held ++ rs) ∧
          (nd.det = true → nd'.ready = nd.ready) ∧
          (nd.det = false → nd.held.length < w → nd'.held.length < w ∧
            ∃ new, nd'.ready = nd.ready ++ new ∧ ∀ x ∈ new, x.length = w)))

/-- R152, R153: PAD.CLOSE closes the open node of its key, and the lapse of a paddock's timer cuts a partial group: what the
node holds becomes its next group, except in a deterministic node, which keeps it for its stream. -/
def Sys2Proof.Claims.PaddocksCloseAndLapse : Prop :=
  (∀ (s : State) (g : Group) (c : BitVec 7) (eoff : BitVec 24), Ready s g { sc := [c.toNat] } →
    let i : Instr := .padClose c eoff
    let key := nodeOf s g.cx (entryOf s g eoff) ((g.rdS c).toNat % 65536)
    (releaseReady s s.cur 4 = false → exec i s = goes s { g with status := .stalled .fence }) ∧
    (releaseReady s s.cur 4 = true →
      (key = none → exec i s = goes s (g.adv 2)) ∧
      (∀ nid nd, key = some (nid, nd) → nd.closed = true → exec i s = goes s (g.adv 2)) ∧
      (∀ nid nd, key = some (nid, nd) → nd.closed = false → nd.held ≠ [] ∨ nd.ready ≠ [] →
        ∃ u nd', exec i s = .next u ∧ mget u.k.nodes nid = some nd' ∧ nd'.closed = true ∧ nd'.timerOn = false ∧
          (nd.det = false → nd.held ≠ [] → nd'.ready = nd.ready ++ [nd.held] ∧ nd'.held = []) ∧
          (nd.det = true → nd'.ready = nd.ready ∧ nd'.held = nd.held) ∧
          u.group? s.cur = some (g.adv 2) ∧ OtherGroups s u s.cur ∧ u.mem = s.mem))) ∧
  (∀ (s : State) (nid : Nat) (nd : Node), mget s.k.nodes nid = some nd → nd.timerOn = true → nd.closed = false →
    nd.det = false → (s.ctx nd.cx).st = 1 →
    ∃ u nd', exec (.paddockTimerLapse nid) s = .next u ∧ mget u.k.nodes nid = some nd' ∧ nd'.held = [] ∧
      nd'.ready = nd.ready ++ [nd.held] ∧ nd'.timerOn = false ∧ u.k.groups = s.k.groups ∧ u.mem = s.mem)

/-- SPAWN hands its records to the open node of their key; PAD.CLOSE and the timer cut its last group:
SpawnDeliversRecords and PaddocksCloseAndLapse. -/
def Obligations.RecordsFeedPaddocks : Prop :=
  SpawnDeliversRecords ∧ PaddocksCloseAndLapse

/-! Reins: the words of a program. -/

/-- R364, R378, R380, R381, R382: the words that frame a program, set registers and transfer, at a boundary or in a body. That a
LOOP whose target is bad has counted nothing when it stops is the model's reading (log 71). -/
def Sys2Proof.Claims.ReinControlWords : Prop :=
  ∀ (s : State) (n sl : Nat) (x : Slot) (a b : BitVec 5), s.curSlot = (n, sl) → s.slot n sl = x →
    let others (u : State) : Prop := (∀ m k, (m, k) ≠ (n, sl) → u.slot m k = s.slot m k) ∧ u.mem = s.mem ∧ u.k = s.k
    let runs (i : Instr) (y : Slot → Prop) : Prop := ∃ u, exec i s = .next u ∧ y (u.slot n sl) ∧ others u
    let moved (y : Slot) (pc : Nat) (f : Nat → Word64) : Prop := y.pc = pc ∧ (∀ r, sget 0 y.G r = f r) ∧ y.st = x.st ∧
      y.flags = x.flags ∧ y.chan = x.chan ∧ y.alw = x.alw
    let keep (r : Nat) : Word64 := sget 0 x.G r
    let set (v : Word64) (r : Nat) : Word64 := if r = a.toNat then v else keep r
    (x.st = 1 ∨ x.inBody = true →
      (∀ lit : Word, runs (.setg a lit) (fun y => moved y (x.pc + 2) (set (BitVec.ofInt 64 lit.toInt))) ∧
        runs (.setgHi a lit) (fun y => moved y (x.pc + 2)
          (set (BitVec.ofNat 64 (lit.toNat * 2 ^ 32 + (keep a.toNat).toNat % 2 ^ 32))))) ∧
      (∀ i : BitVec 17, runs (.addg a b i) (fun y => moved y (x.pc + 1)
        (set (BitVec.ofInt 64 ((keep b.toNat).toNat + i.toInt)))))) ∧
    (x.inBody = true → (∀ (e : BitVec 4) (c : BitVec 2), runs (.waits a e c) (fun y => moved y (x.pc + 1) keep)) ∧
      runs .nextW (fun y => y.atNext = true ∧ moved y x.pc keep)) ∧
    (x.st = 1 → ∀ i : BitVec 17,
      let yields : Int := x.pc + i.toInt
      let less : Word64 := BitVec.ofNat 64 ((keep a.toNat).toNat + (2 ^ 64 - 1))
      let stops (i : Instr) : Prop := exec i s = .next (stopSlot s n sl cReinIllegal 0 0 0)
      ((less = 0 → runs (.loop a i) (fun y => moved y (x.pc + 1) (set less))) ∧
        (less ≠ 0 → (0 ≤ yields ∧ (wordKinds 0 false x.words)[yields.toNat]? = some 0 →
            runs (.loop a i) (fun y => moved y yields.toNat (set less))) ∧
          (yields < 0 ∨ (wordKinds 0 false x.words)[yields.toNat]? ≠ some 0 → stops (.loop a i)))) ∧
      (∀ (w : Instr) (taken : Prop), (w, taken) ∈ [(Instr.brz a i, keep a.toNat = 0), (.brnz a i, keep a.toNat ≠ 0)] →
        (¬ taken → runs w (fun y => moved y (x.pc + 1) keep)) ∧
        (taken → (0 ≤ yields ∧ (wordKinds 0 false x.words)[yields.toNat]? = some 0 → runs w (fun y => moved y yields.toNat keep)) ∧
          (yields < 0 ∨ (wordKinds 0 false x.words)[yields.toNat]? ≠ some 0 → stops w))))

/-- R363, R365, R374, R380: CHUNK stops a slot that steps, or is evaluated: the slot waits, or stops with the cause of the first
failing word, its PC at the CHUNK. HALT frees the slot, and the packet is done with its last slot. -/
def Sys2Proof.Claims.ReinChunksAndHalts : Prop :=
  ∀ (s : State) (n sl : Nat) (x : Slot) (c : BitVec 8), s.curSlot = (n, sl) → s.slot n sl = x → x.st = 1 →
    let at' (i : Instr) (st : Nat) (cause : BitVec 8) : Prop := ∃ u, exec i s = .next u ∧ (u.slot n sl).st = st ∧
      (u.slot n sl).pc = x.pc ∧ (u.slot n sl).cause = cause ∧ (u.slot n sl).G = x.G ∧
      (∀ m k, (m, k) ≠ (n, sl) → u.slot m k = s.slot m k) ∧ SameMemory s u
    let fault := bodyFault x (decide ((s.rein n).link = 2)) [] 0 x.body
    (x.step = true → x.justGo = false → at' (.chunk c) 6 x.cause) ∧
    (x.step = false ∨ x.justGo = true →
      (∀ p k, fault = some (p, k) → at' (.chunk c) 5 k) ∧
      (fault = none → waitFault s x x.body = none → at' (.chunk c) 2 x.cause)) ∧
    (∃ u, exec .halt s = .next u ∧ (u.slot n sl).st = 0 ∧ (u.rein n).running ≠ some sl ∧
      (∀ m k, m ≠ n → u.slot m k = s.slot m k) ∧
      (∀ k, s.pkt? x.pkt = some k → k.loading = false → s.mem.commit = [] →
        ∃ k', u.pkt? x.pkt = some k' ∧ k'.cause = k.cause ∧ k'.slots = k.slots.erase (n, sl) ∧
          (k.slots = [(n, sl)] → k'.finished = true)))

/-- Rein programs: registers, transfers, CHUNK and HALT: ReinControlWords and ReinChunksAndHalts. -/
def Obligations.ReinProgramsRun : Prop :=
  ReinControlWords ∧ ReinChunksAndHalts

/-- R352, R369, R377, R385, R386, R387: XMIT and XMIT.A send the bytes they read; STOW and FOLD put the next bytes of the stream,
or their combination with memory, where the object address leads under the word's brand, whose cells stand already, and FOLDF
sends what it writes as well. Every other byte reads as before. -/
def Sys2Proof.Claims.ReinDataWords : Prop :=
  ∀ (s : State) (n sl : Nat) (x : Slot) (a b : BitVec 5) (e : BitVec 4) (c : BitVec 15), s.curSlot = (n, sl) →
    s.slot n sl = x → x.inBody = true → x.st = 3 → x.written = 0 → x.peerSent = 0 → x.issued = false →
    let ad := (x.g a).toNat
    let offs := (List.range (4 * c.toNat)).map (offOf ad + ·)
    let cs := translateChunks s x.cx (objOf ad) false offs
    let ps := offs.map cs.byte
    let brand := (x.g b).toNat
    let entry := x.ent e.toNat
    let passes (u : State) : Prop := (u.slot n sl).pc = x.pc + 2 ∧ (u.slot n sl).G = x.G ∧ (u.slot n sl).st = 3 ∧
      (u.slot n sl).chan = x.chan ∧ ∀ m k, (m, k) ≠ (n, sl) → u.slot m k = s.slot m k
    (¬ (brand < 65536 ∧ s.brandLive x.cx brand = true) → ∀ i ∈ [Instr.xmit a b e c, .stow a b e c],
      exec i s = .next (stopSlot s n sl cBrandInvalid (brand % 65536) 0 0)) ∧
    (brand < 65536 → s.brandLive x.cx brand = true → (∀ o ∈ offs, ∃ t, cs.at o = .ok t) →
      (∀ p ∈ ps, p.loc.sp.isPeer = false) →
      let local' := ps.map (readByte s x.cx brand [])
      (x.pgot = [] →
        (0 < c.toNat → ∃ u, exec (.xmit a b e c) s = .next u ∧ passes u ∧ SameMemory s u ∧ (u.slot n sl).flags = x.flags ∧
          (u.rein n).txq = (s.rein n).txq ++ runHeader s n x e.toNat :: dataFrames 0 0 (entPvc entry) local') ∧
        (∀ last, 0 < c.toNat ∨ last = true → ∃ u, exec (.xmitA a b e last c) s = .next u ∧ passes u ∧ SameMemory s u ∧
          (u.rein n).txq = (s.rein n).txq ++ (runHeader s n x e.toNat :: dataFrames 0 1 (entPvc entry) local') ++
            (if last then [mkFrame 3 (entPvc entry) 0 0] else []))) ∧
      let home (p : PByte) : Loc := (resolve s x.cx brand p).2
      (0 < c.toNat → (ps.map home).Nodup → (∀ p ∈ ps, p.wp = false ∧ Stands s (home p) ∧ (x.det = true → p.det ≠ 1) ∧
          (brand ≠ 0 → p.brd = true → (cell? s x.cx brand p.loc.line).isSome = true) ∧
          owned s p.loc.line (dirBrand brand p) = false ∧ owned s p.loc.line (resolve s x.cx brand p).1 = false) →
        x.pgot = [] → x.asked = 0 →
        ∀ bs, (takeFlits ((s.rein n).forSlot x (x.sender e.toNat)) (4 * c.toNat) (s.rein n).streams).1 = bs →
          bs.length = 4 * c.toNat →
        let writes (i : Instr) (vs : List Byte) (fl : FFlags) (sent : List Frame) : Prop :=
          ∃ u, exec i s = .next u ∧ passes u ∧ (u.slot n sl).flags = x.flags ||| fl ∧
            (u.rein n).txq = (s.rein n).txq ++ sent ∧
            (∀ k, (u.rein n).buffered x k = (s.rein n).buffered x k - if k = x.sender e.toNat then 4 * c.toNat else 0) ∧
            (∀ (j : Nat) p v, ps[j]? = some p → vs[j]? = some v → readByte u x.cx brand [] p = v) ∧
            (∀ l, l ∉ ps.map home → readAt u x.cx [] l = readAt s x.cx [] l)
        writes (.stow a b e c) bs 0 [] ∧
        (x.fwd = [] → ∀ (op ty : BitVec 4) (f : BitVec 4), op.toNat ≤ 2 → ty.toNat ≤ 4 →
          let r := combineBytes op.toNat ty.toNat local' bs
          writes (.fold a b e op ty c) r.1 r.2 [] ∧
          writes (.foldf a b e f op ty c) r.1 r.2
            (runHeader s n x f.toNat :: dataFrames 0 0 (entPvc (x.ent f.toNat)) r.1))))

/-- R377: what FOLD makes of a local and an arriving word, and its flags: the integer operations, and those of the FP32 and x2
types on each element, which FiniteResultsAreRounded states against exact values. -/
def Sys2Proof.Claims.CombiningIsElementwise : Prop :=
  ∀ (a b : Word),
    let half (v : Word) (h : Nat) : Nat := v.toNat / 65536 ^ h % 65536
    combine 0 0 a b = (BitVec.ofNat 32 (a.toNat + b.toNat), 0) ∧ combine 0 1 a b = (BitVec.ofNat 32 (a.toNat + b.toNat), 0) ∧
    combine 1 0 a b = (if b.toInt < a.toInt then b else a, 0) ∧ combine 2 0 a b = (if a.toInt < b.toInt then b else a, 0) ∧
    combine 1 1 a b = (if b.toNat < a.toNat then b else a, 0) ∧ combine 2 1 a b = (if a.toNat < b.toNat then b else a, 0) ∧
    (let elem (F : FFmt) (op x y : Nat) : Nat × FFlags := if op = 0 then F.addV .rne false (F.decode x) (F.decode y)
       else F.minmax (decide (op = 2)) x y
     ∀ op, op < 3 →
      ((combine op 2 a b).1.toNat = (elem fp32 op a.toNat b.toNat).1 ∧ (combine op 2 a b).2 = (elem fp32 op a.toNat b.toNat).2) ∧
      ∀ (F : FFmt) (ty : Nat), (F, ty) ∈ [(fp16, 3), (bf16, 4)] →
        (∀ h, h < 2 → half (combine op ty a b).1 h = (elem F op (half a h) (half b h)).1) ∧
        (combine op ty a b).2 = (elem F op (half a 0) (half b 0)).2 ||| (elem F op (half a 1) (half b 1)).2)

/-- XMIT, STOW, FOLD and FOLDF move bytes between memory and streams: ReinDataWords and CombiningIsElementwise. -/
def Obligations.ReinDataMoves : Prop :=
  ReinDataWords ∧ CombiningIsElementwise

/-- R371, R375, R376, R386: STOW.A writes the next granted message where the region record says, or its spill, advances what is
used and names the place in G(d); one that is too long or fits neither stops the slot with REIN_OVERFLOW, nothing written; a
finished round with none left answers END. -/
def Sys2Proof.Claims.ClaimsAreStowed : Prop :=
  ∀ (s : State) (n sl : Nat) (x : Slot) (a b d : BitVec 5) (c : BitVec 15), s.curSlot = (n, sl) → s.slot n sl = x →
    x.inBody = true → x.st = 3 → x.claimed = none → x.written = 0 → x.peerSent = 0 → x.pgot = [] → x.asked = 0 →
    x.region = none → x.det = false → (x.g b).toNat = 0 →
    let items := claimItems (s.rein n) x
    let i : Instr := .stowA a b d c
    (grantable x items = [] → roundEnded x items = true → ∃ u, exec i s = .next u ∧ (u.slot n sl).pc = x.pc + 2 ∧
      (∀ r, sget 0 (u.slot n sl).G r = if r = d.toNat then BitVec.ofNat 64 (2 * 2 ^ 32) else sget 0 x.G r) ∧ u.mem = s.mem) ∧
    (∀ e m rest, grantable x items = (e, m) :: rest →
      (∀ k, x.paEntries.find? (fun k => decide (x.sender k = m.key)) = some k → k = e) → e ∈ x.paEntries → x.sender e = m.key →
      let ad := (x.g a).toNat
      let place (o k : Nat) : Option PByte := match (translateChunks s x.cx (objOf o) false ((List.range k).map (offOf o + ·))).at
          (offOf o) with
        | .ok t => if offOf o / 65536 = (offOf o + k - 1) / 65536 ∧ 0 < k then some (t.1.byte (offOf o)) else none
        | .error _ => none
      let free (p : PByte) (k : Nat) : Prop := p.loc.sp = .phys ∧ p.wp = false ∧ p.brd = false ∧
        ∀ j, j < k → owned s { p.loc with a := (p.loc.a + j) / 256 * 256 } 0 = false
      let at' (u : State) (p : PByte) (j : Nat) : Byte := readAt u x.cx [] { p.loc with a := p.loc.a + j }
      ∀ p, place ad 32 = some p → free p 32 →
        let old := natOfBytes ((List.range 32).map (at' s p))
        let len := m.bytes.length
        let used (r : Nat) : Nat := bitsOf old (96 + 128 * r) 32
        let fits (r : Nat) : Prop := used r + len ≤ bitsOf old (64 + 128 * r) 32
        objOf (bitsOf old 0 64) < 0xFFFFF0 → objOf (bitsOf old 128 64) < 0xFFFFF0 →
        (4 * c.toNat < len ∨ (¬ fits 0 ∧ ¬ fits 1) → ∃ u, exec i s = .next u ∧ (u.slot n sl).st = 5 ∧
          (u.slot n sl).cause = cReinOverflow ∧ (u.slot n sl).pc = x.pc ∧ (u.slot n sl).G = x.G ∧
          ∀ l, readAt u x.cx [] l = readAt s x.cx [] l) ∧
        (∀ r q, 0 < len → len ≤ 4 * c.toNat → (r = 0 ∧ fits 0) ∨ (r = 1 ∧ ¬ fits 0 ∧ fits 1) →
          place (bitsOf old (128 * r) 64 + used r) len = some q → free q len →
          (∀ j k, j < len → k < 32 → q.loc.a + j ≠ p.loc.a + k) →
          ∃ u, exec i s = .next u ∧ (u.slot n sl).pc = x.pc + 2 ∧
            sget 0 (u.slot n sl).G d.toNat = BitVec.ofNat 64 (e * 2 ^ 48 + r * 2 ^ 32 + used r) ∧
            (∀ j v, m.bytes[j]? = some v → at' u q j = v) ∧
            natOfBytes ((List.range 32).map (at' u p)) = old - used r * 2 ^ (96 + 128 * r) + (used r + len) * 2 ^ (96 + 128 * r)))

/-- R346, R347, R369, R384: SIGS updates the signal of its entry, and with IRQ the outrider of the named cluster is to be told
the new value. -/
def Sys2Proof.Claims.ReinSignals : Prop :=
  ∀ (s : State) (n sl : Nat) (x : Slot) (a : BitVec 5) (e : BitVec 4) (set irq : Bool) (c : BitVec 5) (sys : Bool),
    s.curSlot = (n, sl) → s.slot n sl = x → x.inBody = true → x.st = 3 → x.peerSent = 0 →
    let obj := entObj (x.ent e.toNat)
    let off := entOff (x.ent e.toNat)
    ∀ ps, agentBytes s x.cx (obj * 2 ^ 40 + off) 8 false = .ok ps →
      (∀ p ∈ ps, p.wp = false ∧ Stands s p.loc ∧ byteOwned s x.cx 0 p = false) → (ps.map (·.loc)).Nodup → ps.length = 8 →
      let old := sigValue s x.cx 0 ps
      let new : Word64 := if set then x.g a else old + x.g a
      ∃ u, exec (.sigs a e set irq c sys) s = .next u ∧ sigValue u x.cx 0 ps = new ∧
        (∀ l, l ∉ ps.map (·.loc) → readAt u x.cx [] l = readAt s x.cx [] l) ∧
        (u.slot n sl).pc = x.pc + 1 ∧ (u.slot n sl).G = x.G ∧
        (u.slot n sl).irqOut = (if irq then x.irqOut + 1 else x.irqOut) ∧
        (sget Outrider.idle u.k.outriders c.toNat).waiting = (sget Outrider.idle s.k.outriders c.toNat).waiting ++
          (if irq then [{ cx := x.cx, rein := n, slot := sl, pkt := x.pkt, comm := x.comm, entry := e.toNat, value := new }]
           else []) ∧
        (sys = true → ∀ y ∈ u.mem.dirtyCtx, y.2 = x.cx → ∃ p ∈ ps, p.loc.sp = .host)

/-- STOW.A writes a granted message; SIGS updates a signal and tells an outrider: ClaimsAreStowed and ReinSignals. -/
def Obligations.ReinClaimsAndSignals : Prop :=
  ClaimsAreStowed ∧ ReinSignals

/-! Reins: slots and the wire. -/

/-- R125, R359, R361: a REIN packet loads one slot on each rein it names, all together: the rein's block as its channel table,
its 256 bytes of `args` as G0-G31, PC 0 and a clear flag word. -/
def Sys2Proof.Claims.ReinSlotsAreLoaded : Prop :=
  ∀ (s : State) (p : Nat) (k : Packet) (image args : List Byte), s.pkt? p = some k → pType k.bits.toNat = 6 →
    k.loading = true → (s.ctx k.cx).st = 1 → reinImage s k.cx k.bits.toNat = some (image, args) →
    let b := k.bits.toNat
    let reins := (List.range 32).filter (fun n => k.bits.getLsbD (264 + n))
    (∀ n ∈ reins, ∃ sl, sl < 8 ∧ (s.slot n sl).st = 0 ∧
      (s.rein n).unitsUsed + (pWords b + 63) / 64 ≤ 32 ∧
      (sget 0 (s.rein n).vcComm (bitsOf b 308 4) = 0 ∨ sget 0 (s.rein n).vcComm (bitsOf b 308 4) = bitsOf b 296 12 + 1)) →
    ∃ u k', exec (.reinSlotLoad p) s = .next u ∧ u.pkt? p = some k' ∧ k'.loading = false ∧ k'.slots.map (·.1) = reins ∧
      u.mem = s.mem ∧
      ∀ (j n sl : Nat), k'.slots[j]? = some (n, sl) → sl < 8 ∧ (s.slot n sl).st = 0 ∧
        let x := u.slot n sl
        x.st = 1 ∧ x.pc = 0 ∧ x.flags = 0 ∧ x.cx = k.cx ∧ x.pkt = p ∧ x.comm = bitsOf b 296 12 ∧ x.vc = bitsOf b 308 4 ∧
        x.sprio = bitsOf b 312 3 ∧ x.det = k.det ∧ x.words = wordsOfBytes (image.drop (128 * reins.length)) ∧
        sget 0 (u.rein n).vcComm x.vc = x.comm + 1 ∧
        (∀ r, r < 32 → sget 0 x.G r = BitVec.ofNat 64 (natOfBytes ((args.drop (256 * j + 8 * r)).take 8))) ∧
        (∀ e, e < 16 → x.ent e = BitVec.ofNat 64 (natOfBytes ((image.drop (128 * j + 8 * e)).take 8)) ∧
          ((x.ent e).getLsbD 63 = true → (x.ent e).getLsbD 62 = false → x.allow e = (x.ent e).toNat / 2 ^ 29 % 2 ^ 11))

/-- R362, R363, R372: the control registers of a slot: `abort`, `go`, `step` and SLGDAT, each in the states that accept it. -/
def Sys2Proof.Claims.SlotsAreControlled : Prop :=
  ∀ (s : State) (n sl : Nat) (x : Slot), s.slot n sl = x →
    let yields (i : Instr) (y : Slot → Prop) : Prop := ∃ u, exec i s = .next u ∧ y (u.slot n sl) ∧ u.mem = s.mem ∧ u.k = s.k ∧
      ∀ m k, (m, k) ≠ (n, sl) → u.slot m k = s.slot m k
    let still (i : Instr) : Prop := exec i s = .next s
    (x.st = 3 → yields (.slotAbort n sl) (fun y => y = { x with aborting := true })) ∧
    (x.st ∈ [1, 2, 4, 5, 6] → ∃ u, exec (.slotAbort n sl) s = .next u ∧ (u.slot n sl).st = 0 ∧
      (∀ k, s.pkt? x.pkt = some k → s.mem.commit = [] → ∃ k', u.pkt? x.pkt = some k' ∧ k'.slots = k.slots.erase (n, sl) ∧
        k'.cause = (if k.cause ≠ 0 then k.cause else if x.cause = 0 then 0x42 else x.cause))) ∧
    (x.st ∉ [1, 2, 3, 4, 5, 6] → still (.slotAbort n sl)) ∧
    (x.st ∈ [5, 6] → x.bodyEnd ≠ none → yields (.slotGo n sl) (fun y => y.st = 3 ∧ y.pc = x.pc ∧ y.written = x.written)) ∧
    (x.st ∈ [5, 6] → x.bodyEnd = none → yields (.slotGo n sl) (fun y => y.st = 1 ∧ y.pc = x.pc ∧ y.G = x.G)) ∧
    (x.st ∉ [5, 6] → still (.slotGo n sl)) ∧
    (n < 32 → sl < 8 → ∀ v, yields (.slotStep n sl v) (fun y => y = { x with step := v })) ∧
    (∀ v : BitVec 64,
      let i := sget 0 (s.rein n).selIdx sl
      (x.st ∈ [4, 5, 6] → i < 32 → yields (.slgdatWrite n sl v) (fun y => (∀ r, sget 0 y.G r = if r = i then v else sget 0 x.G r) ∧
        y.chan = x.chan ∧ y.st = x.st ∧ y.pc = x.pc)) ∧
      (x.st ∈ [4, 5, 6] → 32 ≤ i → i < 48 → yields (.slgdatWrite n sl v) (fun y => (∀ r, y.ent r = if r = i - 32 then v else x.ent r) ∧
        y.G = x.G ∧ y.st = x.st ∧ y.pc = x.pc)) ∧
      (x.st ∉ [4, 5, 6] ∨ 48 ≤ i → still (.slgdatWrite n sl v)))

/-- R363, R365, R366, R367, R369, R376: the sequencer chooses among its ready slots, charges the sends of the chunk that starts,
and completes a chunk at its NEXT; 64 boundary words in a row end a turn. -/
def Sys2Proof.Claims.SlotsTakeTurns : Prop :=
  ∀ (s : State) (n sl : Nat) (x : Slot), s.slot n sl = x →
    let others (u : State) : Prop := ∀ m k, m ≠ n → u.slot m k = s.slot m k
    let ready := (s.rein n).slots.filter (fun e => slotReady s n e.2)
    ((s.rein n).running = none → ((s.rein n).slots.map (·.1)).Nodup →
      (∀ e ∈ (s.rein n).slots, e.2.st = 2 → waitFault s e.2 e.2.body = none ∧ waitPeer s e.2 = []) →
      (ready = [] → exec (.slotChoose n) s = .next s) ∧
      ((sl, x) ∈ ready → (∀ e ∈ ready, e.1 ≠ sl →
          (7 ≤ x.passes ∧ (e.2.passes < 7 ∨ sl < e.1)) ∨ (x.passes < 7 ∧ e.2.passes < 7 ∧ (e.2.sprio < x.sprio ∨
            (e.2.sprio = x.sprio ∧ (e.2.passes < x.passes ∨ (e.2.passes = x.passes ∧ sl < e.1)))))) →
        ∃ u, exec (.slotChoose n) s = .next u ∧ (u.rein n).running = some sl ∧ (u.slot n sl).passes = 0 ∧ others u ∧
          u.mem = s.mem ∧
          (∀ e ∈ ready, e.1 ≠ sl → (u.slot n e.1).passes = min 7 (e.2.passes + 1) ∧ (u.slot n e.1).pc = e.2.pc) ∧
          (x.st = 2 → (u.slot n sl).st = 3 ∧ (u.slot n sl).pc = x.pc + 1 ∧
            ∀ e, e < 16 → (u.slot n sl).allow e = x.allow e - bodySends x.body e) ∧
          (x.st ≠ 2 → (u.slot n sl).st = x.st ∧ (u.slot n sl).pc = x.pc))) ∧
    ((s.rein n).running = some sl → x.st = 3 → x.atNext = true → x.irqOut = 0 → x.aborting = false →
      ∃ u, exec (.chunkComplete n) s = .next u ∧ (u.slot n sl).st = 1 ∧ (u.slot n sl).pc = x.pc + 1 ∧
        (u.slot n sl).G = x.G ∧ (u.rein n).running = none ∧ others u ∧ u.mem = s.mem) ∧
    ((s.rein n).running = some sl → 0 < x.irqOut → exec (.chunkComplete n) s = .next s) ∧
    ((s.rein n).running = some sl → x.st = 1 → (s.ctx x.cx).st ≠ 1 → ((s.rein n).slots.map (·.1)).Nodup →
      ∃ u, exec (.slotChoose n) s = .next u ∧ (u.rein n).running ≠ some sl) ∧
    ((s.rein n).running = some sl → x.st = 1 → 64 ≤ x.boundary →
      ∃ u, exec (.boundaryRunLimit n) s = .next u ∧ (u.rein n).running = none ∧ (u.slot n sl).st = 1 ∧
        (u.slot n sl).pc = x.pc ∧ others u ∧ u.mem = s.mem)

/-- Slot control registers, and the choice among ready slots: SlotsAreControlled and SlotsTakeTurns. -/
def Obligations.SlotsRun : Prop :=
  SlotsAreControlled ∧ SlotsTakeTurns

/-- R355: allowance returns to its entry, up to what the entry holds. R106, R363: a saved slot returns to a free place of its
rein as it was. -/
def Sys2Proof.Claims.SlotsAndAllowanceReturn : Prop :=
  (∀ (s : State) (n sl e f : Nat), (s.slot n sl).st ≠ 0 → e < 16 → ((s.slot n sl).ent e).getLsbD 63 = true →
    ((s.slot n sl).ent e).getLsbD 62 = false →
    ∃ u, exec (.allowanceReturn n sl e f) s = .next u ∧ u.mem = s.mem ∧
      (∀ d, (u.slot n sl).allow d = if d = e then min (((s.slot n sl).ent e).toNat / 2 ^ 29 % 2 ^ 11) ((s.slot n sl).allow e + f)
        else (s.slot n sl).allow d) ∧
      ∀ m k, (m, k) ≠ (n, sl) → u.slot m k = s.slot m k) ∧
  (∀ (s : State) (n sl : Nat) (x : Slot) (rest : List Slot), (s.rein n).saved = x :: rest → (s.ctx x.cx).st = 1 →
    x.lost = false → sl < 8 → (∀ k, k < sl → (s.slot n k).st ≠ 0) → (s.slot n sl).st = 0 →
    (s.rein n).unitsUsed + (x.words.length + 63) / 64 ≤ 32 →
    ∃ u, exec (.reinSlotRestore n) s = .next (if x.savedSt = 4 then retryParked u (0, .slot n sl) else u) ∧ u.slot n sl = { x with st := x.savedSt, savedSt := 0 } ∧
      (u.rein n).saved = rest ∧ u.mem = s.mem ∧ ∀ m k, (m, k) ≠ (n, sl) → u.slot m k = s.slot m k)

/-- A REIN packet loads its slots together; allowance and saved slots return: ReinSlotsAreLoaded and
SlotsAndAllowanceReturn. -/
def Obligations.SlotsLiveAndReturn : Prop :=
  ReinSlotsAreLoaded ∧ SlotsAndAllowanceReturn

/-- R350, R351, R353: the oldest frame that may be sent goes out under the next sequence number with its CRC, an idle one if none
waits; a resend repeats what is unacknowledged, in order, and the sixteenth in a row takes the link down; a frame whose CRC
fails changes nothing. That an idle frame takes a number is the model's reading (log 74), and so is that a request of the
memory service waits until the 16 KiB of its class have room for it (log 128). -/
def Sys2Proof.Claims.FramesAreSent : Prop :=
  (∀ (f : Frame) (seq ack : Nat) (credit : Option Nat), seq < 2048 → ack < 2048 → (∀ v, credit = some v → v < 16) →
    let g := f.seal seq ack credit
    g.crc = g.crcOf ∧ g.seq = seq ∧ g.ack = ack ∧ g.flit = f.flit ∧ g.ft = f.ft ∧ g.vc = f.vc ∧ g.nb = f.nb ∧
      g.cv = credit.isSome ∧ (∀ v, credit = some v → g.cvc = v)) ∧
  (∀ (s : State) (n : Nat), (s.rein n).msServe = [] → (s.rein n).msWait = [] → (s.rein n).link = 0 →
    (s.rein n).unacked.length < 1024 →
    ∃ u f, exec (.frameSend n) s = .next u ∧ (u.rein n).outbox = [f] ∧ (u.rein n).unacked = (s.rein n).unacked ++ [f] ∧
      f.seq = (s.rein n).txSeq % 2048 ∧ f.crc = f.crcOf ∧ (u.rein n).txSeq = ((s.rein n).txSeq + 1) % 2048 ∧
      ((s.rein n).txq = [] → f.ft = 4 ∧ (u.rein n).txq = []) ∧
      (∀ h r, (s.rein n).txq = h :: r → (2 ≤ h.ft ∨ sget 0 (s.rein n).credits h.vc < 1024) →
        f.flit = h.flit ∧ f.ft = h.ft ∧ f.vc = h.vc ∧ f.nb = h.nb ∧ (u.rein n).txq = r) ∧
      u.mem = s.mem ∧ ∀ m, m ≠ n → u.rein m = s.rein m) ∧
  (∀ (s : State) (n who : Nat) (r : MsReq), (s.rein n).msServe = [] → (s.rein n).msWait = [(who, r)] →
    let room : Prop := ((s.rein n).msPend.map (fun e => (msFrames e.2).length)).sum + (msFrames r).length ≤ 256
    ∃ u, exec (.frameSend n) s = .next u ∧
      (room → (u.rein n).msPend = (s.rein n).msPend ++ [(who, r)] ∧ (u.rein n).msWait = []) ∧
      (¬ room → (u.rein n).msPend = (s.rein n).msPend ∧ (u.rein n).msWait = (s.rein n).msWait)) ∧
  (∀ (s : State) (n : Nat), (s.rein n).link = 0 → (s.rein n).unacked ≠ [] →
    ∃ u, exec (.frameResend n) s = .next u ∧
      ((s.rein n).fails < 15 → (u.rein n).outbox = (s.rein n).unacked ∧ (u.rein n).fails = (s.rein n).fails + 1 ∧
        (u.rein n).link = 0) ∧
      (15 ≤ (s.rein n).fails → (u.rein n).link = 2)) ∧
  (∀ (s : State) (n : Nat) (f : Frame), exec (.crcFailure n f) s = .next s)

/-- R350, R351, R352, R353, R376: a frame in order is taken, acknowledges what was sent, and does what its type says, at once
unless a frame of its channel waits; a frame out of order is discarded. That a run whose communicator is not that of its
channel is taken in sequence and then waits, where R351 leaves it with the sender without credit, is the model's reading
(log 124); so is that an idle frame takes a number (log 74). -/
def Sys2Proof.Claims.FramesAreReceived : Prop :=
  ∀ (s : State) (n : Nat) (f : Frame),
    let r := s.rein n
    let inOrder : Prop := r.link = 0 ∧ f.crc = f.crcOf ∧ f.seq = r.rxSeq
    let took (u : State) : Prop := (u.rein n).rxSeq = (r.rxSeq + 1) % 2048 ∧ u.mem = s.mem ∧ u.k = s.k ∧
      (∀ m, m ≠ n → u.rein m = s.rein m) ∧
      (∀ pre g post, r.unacked = pre ++ g :: post → g.seq = f.ack → (∀ x ∈ pre, x.seq ≠ f.ack) →
        (u.rein n).unacked = post ∧ (u.rein n).fails = 0) ∧
      ((∀ g ∈ r.unacked, g.seq ≠ f.ack) → (u.rein n).unacked = r.unacked)
    let gets (i : Instr) (p : Rein → Prop) : Prop := ∃ u, exec i s = .next u ∧ took u ∧ p (u.rein n)
    (¬ inOrder → ∀ i ∈ [Instr.dataFrameReceive n f, .runHeaderReceive n f, .roundMarkerReceive n f, .idleFrameReceive n f,
      .memoryServiceRequest n f, .memoryServiceResponse n f, .memoryServiceData n f], exec i s = .next s) ∧
    (inOrder → f.ft = 4 → gets (.idleFrameReceive n f) (fun x => x.streams = r.streams ∧ x.claims = r.claims)) ∧
    (inOrder → f.ft = 2 →
      let v := f.flit.toNat
      let comm := v % 4096
      (sget 0 r.vcComm f.vc ≠ 0 → sget 0 r.vcComm f.vc ≠ comm + 1 → gets (.runHeaderReceive n f) (fun x =>
        x.held = r.held ++ [f] ∧ x.runs = r.runs ∧ x.streams = r.streams ∧ x.vcComm = r.vcComm)) ∧
      ((∀ g ∈ r.held, g.vc ≠ f.vc) → (sget 0 r.vcComm f.vc = 0 ∨ sget 0 r.vcComm f.vc = comm + 1) →
      gets (.runHeaderReceive n f) (fun x => ∃ h, x.run f.vc = some h ∧ h.run = r.nRun ∧ x.held = r.held ∧ h.comm = comm ∧ h.dev = v / 2 ^ 25 % 1024 ∧
        h.prn = v / 2 ^ 35 % 32 ∧ h.sent = v / 2 ^ 40 % 16 ∧ h.clm = f.flit.getLsbD 44 ∧ h.det = f.flit.getLsbD 45 ∧ h.part = [] ∧
        (r.dead.contains (comm, h.dev, h.prn) = false → sget 0 x.vcComm f.vc = comm + 1)))) ∧
    (∀ h, inOrder → (∀ g ∈ r.held, g.vc ≠ f.vc) → r.run f.vc = some h → r.dead.contains (h.comm, h.dev, h.prn) = false →
      r.lostRun h.run = false →
      (f.ft ≤ 1 → h.clm = false → gets (.dataFrameReceive n f) (fun x => x.claims = r.claims ∧
        x.streams = r.streams ++ [{ comm := h.comm, dev := h.dev, prn := h.prn, sent := h.sent, vc := f.vc, run := h.run,
                                     bytes := f.bytes }])) ∧
      (f.ft = 1 → h.clm = true → gets (.dataFrameReceive n f) (fun x => x.streams = r.streams ∧ x.claims = r.claims ++
        [{ comm := h.comm, dev := h.dev, prn := h.prn, sent := h.sent, vc := f.vc, mark := false, bytes := h.part ++ f.bytes }])) ∧
      (f.ft = 3 → h.clm = true → gets (.roundMarkerReceive n f) (fun x => x.streams = r.streams ∧ x.claims = r.claims ++
        [{ comm := h.comm, dev := h.dev, prn := h.prn, sent := h.sent, vc := f.vc, mark := true, bytes := [] }])))

/-- Frames: sent in sequence with a CRC, resent, taken in order or discarded: FramesAreSent and FramesAreReceived. -/
def Obligations.FramesTravel : Prop :=
  FramesAreSent ∧ FramesAreReceived

/-- R354: a read of the memory service is answered in its turn with the bytes of the export window, or refused; an answer
reaches the agent that asked. -/
def Obligations.MemoryServiceAnswers : Prop :=
  (∀ (s : State) (n : Nat) (f : Frame), (s.rein n).link = 0 → f.crc = f.crcOf → f.seq = (s.rein n).rxSeq → f.ft = 5 →
    let v := f.flit.toNat
    let mop := v / 2 ^ 42 % 4
    let c := v / 2 ^ 44 % 1024
    let a := v / 2 ^ 64 % 2 ^ 64
    let len := v / 2 ^ 34 % 256 + 1
    let x := s.ctx c
    let served : Prop := mop = 0 ∧ x.st = 1 ∧ x.elen ≠ 0 ∧ x.ebase * 2 ^ 21 ≤ a ∧ a + len ≤ (x.ebase + x.elen) * 2 ^ 21
    (mop ≠ 1 → (s.rein n).msServe = [] → ∃ u, exec (.memoryServiceRequest n f) s = .next u ∧ u.mem = s.mem ∧
      (¬ served → (u.rein n).txq = (s.rein n).txq ++ [mkFrame 6 0 0 1]) ∧
      (served → (u.rein n).txq = (s.rein n).txq ++ mkFrame 6 0 0 0 :: dataFrames 7 7 0
        ((List.range len).map (fun i => readAt s c [] { sp := .phys, a := a + i })))) ∧
    (mop = 1 → ∃ u r, exec (.memoryServiceRequest n f) s = .next u ∧ (u.rein n).msIn = some r ∧ r.rctx = c ∧ r.addr = a ∧
      r.len = len ∧ r.data = [] ∧ u.mem = s.mem)) ∧
  (∀ (s : State) (n : Nat) (f : Frame) (r : MsReq), (s.rein n).link = 0 → f.crc = f.crcOf → f.seq = (s.rein n).rxSeq →
    f.ft = 7 → (s.rein n).msIn = some r → (s.rein n).msServe = [] →
    let data := r.data ++ f.bytes
    (data.length < r.len → ∃ u, exec (.memoryServiceData n f) s = .next u ∧ (u.rein n).msIn = some { r with data := data } ∧
      u.mem = s.mem) ∧
    (r.len ≤ data.length → r.write = true → msServed s r = true → (msLines r).all (fun l => !owned s l 0) = true →
      ∃ u, exec (.memoryServiceData n f) s = .next u ∧ (u.rein n).txq = (s.rein n).txq ++ [mkFrame 6 0 0 0] ∧
        (∀ (j : Nat) v, j < r.len → data[j]? = some v → readAt u r.rctx [] { sp := .phys, a := r.addr + j } = v) ∧
        (∀ l, (l.sp ≠ .phys ∨ l.a < r.addr ∨ r.addr + r.len ≤ l.a) → readAt u r.rctx [] l = readAt s r.rctx [] l))) ∧
  (∀ (s : State) (n sl : Nat) (f : Frame) (r : MsReq) (rest : List (Nat × MsReq)), (s.rein n).link = 0 → f.crc = f.crcOf →
    f.seq = (s.rein n).rxSeq → f.ft = 6 → (s.rein n).msPend = (sl, r) :: rest → (s.rein n).msWait = [] → sl < 8 → f.flit.toNat % 256 = 0 →
    (r.write = true → 0 < (s.slot n sl).asked → ∃ u, exec (.memoryServiceResponse n f) s = .next u ∧
      (u.rein n).msPend = rest ∧ (u.slot n sl).asked = (s.slot n sl).asked - 1 ∧ u.mem = s.mem) ∧
    (r.write = false → ∃ u, exec (.memoryServiceResponse n f) s = .next u ∧ (u.rein n).msGot = some [] ∧
      (u.rein n).msPend = (s.rein n).msPend ∧ u.mem = s.mem))

/-! Contexts. -/

/-- R98, R99, R102, R103, R104: CREATE, KEY, POOL and QUOTA; a command is ignored while one is in progress and refused in a state
that does not accept it. The model's readings are the key under which the descriptor is read and that an extent of no lines is
a bad descriptor before any limit (log 65), and that `onbind` and `dsh` above their bounds make one (log 110). -/
def Obligations.ContextCommands : Prop :=
  ∀ (s : State),
    let c := s.cx.sel
    let x := s.ctx c
    let d := descriptor s c
    let ends (i : Instr) (n : Nat) (r : BitVec 8) (p : State → Prop) : Prop := ∃ u, exec i s = .next u ∧ u.cx.busy = false ∧
      u.cx.result = r ∧ u.cx.cmd = n ∧ u.cx.sel = c ∧ u.cx.desc = s.cx.desc ∧ (∀ k, k ≠ c → u.ctx k = s.ctx k) ∧ u.q = s.q ∧
      u.k = s.k ∧ u.mem.phys = s.mem.phys ∧ u.mem.host = s.mem.host ∧ p u
    let refused (i : Instr) (n : Nat) (r : BitVec 8) : Prop := ends i n r (fun u => u.ctx c = x ∧ u.mem = s.mem)
    (s.cx.busy = true → ∀ i ∈ [Instr.create, .key, .preempt, .resume, .destroy, .pool, .quota], exec i s = .next s) ∧
    (s.cx.busy = false →
      ((x.st ≠ 0 → refused .create 1 0x02 ∧ refused .key 2 0x02) ∧ (x.st ≠ 1 → refused .preempt 3 0x02) ∧
        (x.st ≠ 3 → refused .resume 4 0x02) ∧ (x.st ∉ [1, 3, 4] → refused .destroy 5 0x02) ∧
        (x.st ∉ [1, 3] → refused .pool 6 0x02 ∧ refused .quota 7 0x02)) ∧
      (x.st = 0 →
        let halves : Prop := s.cx.staging.toNat % 2 ^ 256 = s.cx.staging.toNat / 2 ^ 256
        (halves → ends .key 2 0x06 (fun u => u.cx.staging = 0 ∧ u.ctx c = x)) ∧
        (¬ halves → ends .key 2 0x00 (fun u => u.cx.staging = 0 ∧ u.ctx c = { x with keyed := true, key := s.cx.staging.toNat }))) ∧
      (x.st = 0 →
        let room : Prop := ∀ die, die < 4 → shareUnits s + part d 48 11 ≤ dieUnits s die
        (x.keyed = false → refused .create 1 0x05) ∧
        (x.keyed = true → ¬ (DescriptorReads s c ∧ FieldsRead d) → refused .create 1 0x03) ∧
        (x.keyed = true → DescriptorReads s c → FieldsRead d → ¬ room → refused .create 1 0x09) ∧
        (x.keyed = true → DescriptorReads s c → FieldsRead d → room → ends .create 1 0x00 (fun u =>
          { u.ctx c with obinds := [] } = bound x d ∧ (u.ctx c).obinds.length = part d 192 9 ∧
          (∀ e ∈ u.mem.share, e.1 / 2 ^ 29 ≠ c)))) ∧
      (x.st ∈ [1, 3] →
        let e := (part d 320 64, part d 384 32)
        let longer : State := { s with cx := { s.cx with cmd := 6 } }.setCtx c { x with pool := x.pool ++ [e] }
        (¬ (DescriptorReads s c ∧ ExtentReads d ∧ e.2 ≠ 0) → refused .pool 6 0x03) ∧
        (DescriptorReads s c → ExtentReads d → e.2 ≠ 0 →
          (16 ≤ x.pool.length → refused .pool 6 0x08) ∧
          (x.pool.length < 16 → exec .pool s = .next (cxDone (if x.st = 1 then retryPool longer c else longer) 0x00))) ∧
        (¬ DescriptorReads s c → refused .quota 7 0x03) ∧
        (DescriptorReads s c → ends .quota 7 0x00 (fun u => u.ctx c = { x with brandQuota := part d 208 16 } ∧ u.mem = s.mem))))

/-- R104, R105, R106: PREEMPT turns away too small a save area and stops the context otherwise; the save ends once everything
stands at its boundary, with the groups kept as they stand, a SIG.WAIT that waits as not issued (R348); RESUME takes an area that
nothing has written since, and the blocks then wait to be placed. The model's choices: of several causes recorded meanwhile the
last stays (log 109, DESIGN CHOICE), and the digest that RESUME checks is a copy of the area's bytes (log 10). -/
def Sys2Proof.Claims.ContextsAreSavedAndResumed : Prop :=
  ∀ (s : State),
    let c := s.cx.sel
    let x := s.ctx c
    (s.cx.busy = false → x.st = 1 →
      let n := saveNeed s c
      ∃ u, exec .preempt s = .next u ∧ u.cx.need = BitVec.ofNat 32 n ∧ u.k = s.k ∧ u.mem = s.mem ∧ u.reins = s.reins ∧
        (∀ k, k ≠ c → u.ctx k = s.ctx k) ∧
        (x.saveUnits < n → u.cx.busy = false ∧ u.cx.result = 0x04 ∧ u.ctx c = x) ∧
        (n ≤ x.saveUnits → u.cx.busy = true ∧ u.cx.cmd = 3 ∧ u.ctx c = { x with st := 2, recorded := 0 })) ∧
    (s.cx.busy = true → s.cx.cmd = 3 → x.st = 2 →
      (ctxStopped s c = false → exec .saveComplete s = .next s) ∧
      (ctxStopped s c = true → ∃ u, exec .saveComplete s = .next u ∧ u.cx.busy = false ∧ u.cx.result = 0x00 ∧
        (x.recorded = 0 → (u.ctx c).st = 3) ∧ (x.recorded ≠ 0 → (u.ctx c).st = 4 ∧ (u.ctx c).why = x.recorded) ∧
        (u.ctx c).placedShare = false ∧ (u.ctx c).savedArea = some (areaBytes u c) ∧ (∀ k, k ≠ c → u.ctx k = s.ctx k) ∧
        (∀ id g, s.group? id = some g →
          u.group? id = some (if g.cx = c then
            (if g.status = .barrier ∧ g.sigw.isSome = true then { g with saved := true, status := .issuing, sigw := none }
              else { g with saved := true }) else g)))) ∧
    (s.cx.busy = false → x.st = 3 → (x.savedArea ≠ some (areaBytes s c) → ∃ u, exec .resume s = .next u ∧
      u.cx.busy = false ∧ u.cx.result = 0x07 ∧ (∀ k, u.ctx k = s.ctx k) ∧ u.k = s.k ∧ u.mem = s.mem)) ∧
    (s.cx.busy = false → x.st = 3 → x.savedArea = some (areaBytes s c) →
      (∀ e ∈ s.k.groups, e.2.outrider = none ∧ (e.2.saved = true → e.2.status ≠ .ended)) →
      (∀ r ∈ s.reins, ∀ y ∈ r.2.saved, y.lost = false) →
      ∃ u, exec .resume s = .next u ∧ u.cx.busy = false ∧ u.cx.result = 0x00 ∧
        u.ctx c = { x with st := 1, savedArea := none, placedShare := (u.ctx c).placedShare } ∧
        (x.placedShare = true → (u.ctx c).placedShare = true) ∧ (∀ k, k ≠ c → u.ctx k = s.ctx k) ∧ u.k = s.k ∧ u.mem = s.mem ∧
        (∀ n, u.rein n = s.rein n))

/-- R26, R104, R107, R108: DESTROY leaves nothing of a context but the bytes of its pages, and frees its number; an
uncorrectable error faults the context of its page, whose queues halt. Of the accesses in flight DESTROY performs none, where
R107 allows either (log 66). -/
def Sys2Proof.Claims.ContextsEnd : Prop :=
  (∀ (s : State),
    let c := s.cx.sel
    s.cx.busy = false → (s.ctx c).st ∈ [1, 3, 4] →
    ∃ u, exec .destroy s = .next u ∧ u.cx.busy = false ∧ u.cx.result = 0x00 ∧ u.ctx c = Context.free ∧
      (∀ k, k ≠ c → u.ctx k = s.ctx k) ∧
      (∀ e ∈ u.k.groups, e ∈ s.k.groups ∧ e.2.cx ≠ c) ∧ (∀ e ∈ u.k.blocks, e ∈ s.k.blocks ∧ e.2.cx ≠ c) ∧
      (∀ e ∈ u.k.grids, e.2.cx ≠ c) ∧ (∀ e ∈ u.k.nodes, e.2.cx ≠ c) ∧ (∀ r ∈ u.k.held, r.cx ≠ c) ∧
      (∀ e ∈ u.mem.ops, e ∈ s.mem.ops ∧ e.2.cx ≠ c) ∧ (∀ e ∈ u.mem.stores, e ∈ s.mem.stores ∧ e.2.cx ≠ c) ∧
      (∀ e ∈ u.mem.tlb, e.cx ≠ c) ∧ (∀ e ∈ u.mem.commit, e.cx ≠ c) ∧ (∀ e ∈ u.br.cells, e ∈ s.br.cells ∧ e.cx ≠ c) ∧
      (∀ e ∈ u.q.pkts, e ∈ s.q.pkts ∧ e.2.cx ≠ c) ∧ (∀ e ∈ u.q.qs, e.2.cx = c → e.2.st ≠ 1 ∧ e.2.st ≠ 2) ∧
      (∀ e ∈ s.k.groups, e.2.cx ≠ c → e ∈ u.k.groups) ∧ (∀ e ∈ s.mem.stores, e.2.cx ≠ c → e ∈ u.mem.stores) ∧
      u.mem.phys = s.mem.phys ∧ u.mem.keyTag = s.mem.keyTag ∧ u.mem.host = s.mem.host ∧ u.mem.dirty = s.mem.dirty) ∧
  (∀ (s : State) (a c : Nat),
    let x := s.ctx c
    let why : BitVec 8 := if x.saveBase ≤ a ∧ a < x.saveBase + 4096 * x.saveUnits then 0x03
      else if devBacked a = true then 0x01 else 0x02
    let yields (p : State → Prop) : Prop := ∃ u, exec (.uncorrectableError a c) s = .next u ∧ (∀ k, k ≠ c → u.ctx k = s.ctx k) ∧
      u.mem = s.mem ∧ u.k = s.k ∧ u.reins = s.reins ∧ p u
    (backed a = false → exec (.uncorrectableError a c) s = .next s) ∧
    (backed a = true →
      (1024 ≤ c ∨ x.st = 0 → yields (fun u => u.cx = s.cx ∧ u.care.noCtxErrors = min (s.care.noCtxErrors + 1) (2 ^ 32 - 1))) ∧
      (c < 1024 → x.st = 1 ∨ x.st = 3 → yields (fun u => u.ctx c = { x with st := 4, why := why } ∧
        ∀ e ∈ u.q.qs, e.2.cx = c → e.2.st ≠ 1 ∧ e.2.st ≠ 2)) ∧
      (c < 1024 → x.st = 2 → yields (fun u => u.ctx c = { x with recorded := why } ∧ u.q = s.q)) ∧
      (c < 1024 → x.st = 4 → exec (.uncorrectableError a c) s = .next s)))

/-- PREEMPT, RESUME, DESTROY and the uncorrectable error: ContextsAreSavedAndResumed and ContextsEnd. -/
def Obligations.ContextsStopAndEnd : Prop :=
  ContextsAreSavedAndResumed ∧ ContextsEnd

/-! Registers of the host port, queues and the fault queue. -/

/-- R7, R98, R110, R256, R362, R394, R401: a write of the host to the BAR acts on the register at its offset and on nothing where no
register can be written; the events of the table that a write causes are those writes. -/
def Obligations.RegistersAreWritten : Prop :=
  ∀ (s : State) (v : Word64),
    let w : Word := v.setWidth 32
    let at' (o : Nat) : Out := exec (.registerWrite o v) s
    let writable (o : Nat) : Prop := o ∈ [0x100000, 0x100004, 0x100010, 0x300000, 0x300008, 0x300010, 0x600000, 0x600010, 0x600020,
        0x600028] ∨ (∃ n, n < 16 ∧ o = 0x100040 + 4 * n) ∨ (∃ n, n < 32 ∧ o = 0x400000 + 16 * n) ∨
      (∃ q r, q < 256 ∧ r ∈ [0x00, 0x08, 0x0C, 0x18, 0x20, 0x24] ∧ o = 0x200000 + 64 * q + r) ∨
      (∃ n sl r, n < 32 ∧ sl < 8 ∧ r ∈ [0x00, 0x08, 0x10] ∧ o = 0x500000 + 0x1000 * n + 0x80 * sl + r)
    (∀ o, ¬ writable o → at' o = .next s) ∧
    (s.cx.busy = true → ∀ o, 0x100000 ≤ o → o < 0x100080 → at' o = .next s) ∧
    (s.cx.busy = false →
      at' 0x100000 = .next { s with cx := { s.cx with sel := v.toNat % 1024 } } ∧
      at' 0x100010 = .next { s with cx := { s.cx with desc := BitVec.ofNat 64 (v.toNat / 64 * 64) } } ∧
      (∀ n, n < 16 → ∃ k : BitVec 512, at' (0x100040 + 4 * n) = .next { s with cx := { s.cx with staging := k } } ∧
        ∀ i, i < 16 → k.extractLsb' (32 * i) 32 = if i = n then w else s.cx.staging.extractLsb' (32 * i) 32) ∧
      (w = 1 → at' 0x100004 = exec .create s) ∧ (w = 2 → at' 0x100004 = exec .key s) ∧
      (w = 3 → at' 0x100004 = exec .preempt s) ∧ (w = 4 → at' 0x100004 = exec .resume s) ∧
      (w = 5 → at' 0x100004 = exec .destroy s) ∧ (w = 6 → at' 0x100004 = exec .pool s) ∧ (w = 7 → at' 0x100004 = exec .quota s) ∧
      (w = 0 ∨ 8 ≤ w.toNat → at' 0x100004 = .next (cxDone s 0x01))) ∧
    (∀ q, q < 256 →
      at' (0x200000 + 64 * q + 0x0C) = exec (.qtailWrite q w) s ∧ at' (0x200000 + 64 * q + 0x24) = exec (.cheadWrite q w) s ∧
      ((s.queue q).en = true →
        (∀ r ∈ [0x00, 0x18, 0x20], at' (0x200000 + 64 * q + r) = .next s) ∧
        at' (0x200000 + 64 * q + 0x08) = if w.getLsbD 31 then .next s else exec (.queueDisable q w) s) ∧
      ((s.queue q).en = false →
        let x := s.queue q
        at' (0x200000 + 64 * q) = .next (s.setQueue q { x with base := BitVec.ofNat 64 (v.toNat / 64 * 64) }) ∧
        at' (0x200000 + 64 * q + 0x18) = .next (s.setQueue q { x with cbase := BitVec.ofNat 64 (v.toNat / 32 * 32) }) ∧
        at' (0x200000 + 64 * q + 0x20) = .next (if 4 ≤ w.toNat % 32 ∧ w.toNat % 32 ≤ 20 then
          s.setQueue q { x with clg := w.toNat % 32 } else s) ∧
        (w.getLsbD 31 → at' (0x200000 + 64 * q + 0x08) = exec (.queueEnable q w) s))) ∧
    (at' 0x300008 = exec (if w.getLsbD 31 then .faultQueueEnable w else .faultQueueDisable w) s ∧ at' 0x300010 = exec (.fqheadWrite w) s ∧
      at' 0x300000 = .next (if s.fq.en then s else { s with fq := { s.fq with base := BitVec.ofNat 64 (v.toNat / 32 * 32) } })) ∧
    (∀ n, n < 32 → at' (0x400000 + 16 * n) = exec (.tqarbWrite n w) s) ∧
    (∀ n sl, n < 32 → sl < 8 →
      (w.getLsbD 0 = false → w.getLsbD 1 = false → at' (0x500000 + 0x1000 * n + 0x80 * sl) = exec (.slotStep n sl (w.getLsbD 2)) s) ∧
      at' (0x500000 + 0x1000 * n + 0x80 * sl + 0x08) =
        .next (s.setRein n { s.rein n with selIdx := sset 0 (s.rein n).selIdx sl (v.toNat % 64) }) ∧
      at' (0x500000 + 0x1000 * n + 0x80 * sl + 0x10) = exec (.slgdatWrite n sl v) s) ∧
    (let idx := w.toNat % 512
     let force := w.getLsbD 30
     let level (n : Nat) (i : Instr) : Prop := part w.toNat 24 4 = n → part w.toNat 28 2 = 0 → part w.toNat 9 7 = 0 →
       part w.toNat 16 8 = 0 → at' 0x600000 = exec i s
     level 1 (.resetPackage idx force) ∧ level 2 (.resetDie idx force) ∧ level 3 (.resetCluster idx force) ∧
      level 4 (.resetCore idx force) ∧ level 5 (.resetVectorPipes idx force) ∧ level 6 (.resetMatrixEngine idx force) ∧
      level 7 (.resetCopyEngine idx force) ∧ level 8 (.resetGatherEngine idx force) ∧ level 9 (.resetOutrider idx force) ∧
      level 10 (.resetCommandSequencer idx force) ∧ level 11 (.resetRein idx force) ∧ level 12 (.resetManagementBlock idx force)) ∧
    at' 0x600010 = exec (.dmsplitWrite w) s ∧
    ((∃ c ∈ s.cx.ctxs, c.2.st ≠ 0) → at' 0x600020 = .next s ∧ at' 0x600028 = .next s) ∧
    ((∀ c ∈ s.cx.ctxs, c.2.st = 0) →
      at' 0x600020 = .next { s with care := { s.care with trbase := BitVec.ofNat 64 (v.toNat / 65536 * 65536) } } ∧
      at' 0x600028 = .next { s with care := { s.care with trlim := BitVec.ofNat 64 (v.toNat / 65536 * 65536) } })

/-- R110, R112, R113, R114: a queue is enabled with its other fields taken first, for an active or saved context, and disabled; a
tail beyond the ring halts it; CHEAD makes room in the completion ring. -/
def Sys2Proof.Claims.QueueRegisters : Prop :=
  ∀ (s : State) (n : Nat) (v : Word), n < 256 →
    let q := s.queue n
    let fields (y : Queue) : Prop := y.cls = part v.toNat 28 3 ∧ y.die = part v.toNat 26 2 ∧ y.cx = part v.toNat 16 10 ∧
      y.lg = if 4 ≤ part v.toNat 0 5 ∧ part v.toNat 0 5 ≤ 20 then part v.toNat 0 5 else q.lg
    let rings (y : Queue) : Prop := y.base = q.base ∧ y.tail = q.tail ∧ y.cbase = q.cbase ∧ y.clg = q.clg ∧ y.chead = q.chead
    let yields (i : Instr) (p : Queue → Prop) : Prop := ∃ u, exec i s = .next u ∧ p (u.queue n) ∧ u.mem = s.mem ∧ u.k = s.k ∧ u.cx = s.cx ∧
      u.q.pkts = s.q.pkts ∧ ∀ m, m ≠ n → u.queue m = s.queue m
    (v.getLsbD 31 = true → q.en = false →
      ((s.ctx (part v.toNat 16 10)).st ∈ [1, 3] → yields (.queueEnable n v) (fun y => fields y ∧ rings y ∧ y.en = true ∧ y.head = 0 ∧
        y.ctail = 0 ∧ y.phase = 0 ∧ y.hold = none ∧ (q.tail.toNat ≤ 2 ^ y.lg → y.st = 1 ∧ y.halt = 0) ∧
        (2 ^ y.lg < q.tail.toNat → y.st = 3 ∧ y.halt = 0x01))) ∧
      ((s.ctx (part v.toNat 16 10)).st ∉ [1, 3] → yields (.queueEnable n v) (fun y => fields y ∧ rings y ∧ y.en = false ∧ y.st = q.st ∧
        y.head = q.head))) ∧
    (v.getLsbD 31 = false → q.en = true → yields (.queueDisable n v) (fun y => fields y ∧ rings y ∧ y.en = false ∧ y.st = 0 ∧
      y.head = q.head ∧ y.ctail = q.ctail)) ∧
    (v.getLsbD 31 = false ∨ q.en = true → exec (.queueEnable n v) s = .next s) ∧
    (v.getLsbD 31 = true ∨ q.en = false → exec (.queueDisable n v) s = .next s) ∧
    yields (.qtailWrite n v) (fun y => y = if q.st ∈ [1, 2] ∧ 2 ^ q.lg < (v - q.head).toNat then
      { q with tail := v, st := 3, halt := 0x01, hold := none, waitPark := none } else { q with tail := v }) ∧
    (q.late = [] → yields (.cheadWrite n v) (fun y => y = { q with chead := v })) ∧
    (∀ p rest, q.late = p :: rest → s.pkt? p = none → rest = [] → yields (.cheadWrite n v) (fun y => y = { q with chead := v, late := [] }))

/-- R254, R255, R256, R257: the fault queue takes every record of the next parked instruction when all of them fit, with the valid bit
of its pass, and one interrupt for them all (that it is one for each parked instruction is the model's reading, log 67);
FQCFG enables and disables it, FQHEAD frees room. -/
def Sys2Proof.Claims.FaultQueueWrites : Prop :=
  ∀ (s : State) (v : Word),
    let q := s.fq
    let fields (y : FaultQ) : Prop := y.base = q.base ∧ y.head = q.head ∧ y.waiting = q.waiting ∧ y.irqs = q.irqs ∧
      y.iv = part v.toNat 16 11 ∧ y.lg = if 4 ≤ part v.toNat 0 5 ∧ part v.toNat 0 5 ≤ 20 then part v.toNat 0 5 else q.lg
    let yields (i : Instr) (p : FaultQ → Prop) : Prop := ∃ u, exec i s = .next u ∧ u = { s with fq := u.fq } ∧ p u.fq
    (v.getLsbD 31 = true → q.en = false → yields (.faultQueueEnable v) (fun y => fields y ∧ y.en = true ∧ y.tail = 0)) ∧
    (v.getLsbD 31 = true → q.en = true → exec (.faultQueueEnable v) s = .next s) ∧
    (v.getLsbD 31 = false → exec (.faultQueueEnable v) s = .next s) ∧
    (v.getLsbD 31 = false → yields (.faultQueueDisable v) (fun y => fields y ∧ y.en = false ∧ y.tail = q.tail)) ∧
    (v.getLsbD 31 = true → exec (.faultQueueDisable v) s = .next s) ∧
    exec (.fqheadWrite v) s = .next { s with fq := { q with head := v } } ∧
    (q.waiting = [] ∨ q.en = false → exec .faultRecordWrite s = .next s) ∧
    (∀ rs rest, q.waiting = rs :: rest → 2 ^ q.lg < (q.tail - q.head).toNat + rs.length → exec .faultRecordWrite s = .next s) ∧
    (∀ rs rest, q.waiting = rs :: rest → q.en = true → (q.tail - q.head).toNat + rs.length ≤ 2 ^ q.lg →
      (∀ r ∈ rs, r.getLsbD 255 = false) →
      let n (j : Nat) : Nat := q.tail.toNat + j
      let slot (j : Nat) : Nat := q.base.toNat + 32 * (n j % 2 ^ q.lg)
      ∃ u, exec .faultRecordWrite s = .next u ∧
        u.fq = { q with waiting := rest, tail := q.tail + BitVec.ofNat 32 rs.length, irqs := q.irqs + 1 } ∧
        (∀ j r i, rs[j]? = some r → i < 32 → u.mem.hostByte (slot j + i) =
          BitVec.ofNat 8 ((r.toNat + if n j / 2 ^ q.lg % 2 = 0 then 2 ^ 255 else 0) / 2 ^ (8 * i))) ∧
        (∀ a, (∀ j i, j < rs.length → i < 32 → a ≠ slot j + i) → u.mem.hostByte a = s.mem.hostByte a) ∧
        u.mem.phys = s.mem.phys ∧ u.k = s.k ∧ u.cx = s.cx ∧ u.q = s.q)

/-- Queue enable, tail and CHEAD; the fault queue's enable and its records: QueueRegisters and FaultQueueWrites. -/
def Obligations.QueueAndFaultQueueRegisters : Prop :=
  QueueRegisters ∧ FaultQueueWrites

/-! Packets. -/

/-- R113, R115, R117, R118, R128, R130: the packet of the chosen queue is parsed by the row of its type; one that breaks its format completes
with BAD_PACKET, before `bar` and open packets are looked at (log 55, DEDUCED); a barrier holds the queue while packets are
open, and a phase that differs holds a work packet. -/
def Sys2Proof.Claims.PacketsAreParsed : Prop :=
  ∀ (s : State) (die : Nat),
    (chooseQueue s die = none → ∀ t i, PacketRow die t i → exec i s = .next s) ∧
    (∀ n q, chooseQueue s die = some (n, q) → q.en = true ∧ q.die = die ∧ (s.ctx q.cx).st = 1 ∧
      ((q.st = 1 ∧ q.head ≠ q.tail) ∨ (q.st = 2 ∧ holdMet s n = true)) ∧
      ∀ e ∈ s.q.qs, e.2.die = die → e.2.en = true → (s.ctx e.2.cx).st = 1 →
        (e.2.st = 1 ∧ e.2.head ≠ e.2.tail) ∨ (e.2.st = 2 ∧ holdMet s e.1 = true) →
        min e.2.cls (s.ctx e.2.cx).prio ≤ min q.cls (s.ctx q.cx).prio) ∧
    (∀ n q, chooseQueue s die = some (n, q) → q.st = 2 → ∀ t i, PacketRow die t i → exec i s = .next s) ∧
    (∀ n q, chooseQueue s die = some (n, q) → s.queue n = q → q.st = 1 → ringEntry s q 0 = none → ∀ t i, PacketRow die t i →
      ∃ u, exec i s = .next u ∧ (u.queue n).st = 3 ∧ (u.queue n).halt = 0x02 ∧ u.mem = s.mem) ∧
    (∀ n q p, Parses s die n q p →
      let ty := part p 0 8
      (∀ t i, PacketRow die t i → t ≠ ty → (t ≠ 0 ∨ ty ≤ 8) → exec i s = .next s) ∧
      (8 < ty → ∃ u, exec (.nopPacket die) s = .next u ∧ TakenDone s u n p q 0x01) ∧
      (∀ i, PacketRow die ty i → ¬ OfType p ty → ∃ u, exec i s = .next u ∧ TakenDone s u n p q 0x01) ∧
      (OfType p 0 → Free s n p → ∃ u, exec (.nopPacket die) s = .next u ∧ TakenDone s u n p q 0x00 ∧
        sget 0 u.q.bankUsed die = s.care.activeBank ∧ sget 0 u.q.last die = n + 1) ∧
      (OfType p 0 → ¬ Free s n p → ∃ u, exec (.nopPacket die) s = .next u ∧ HeldFor s u n q .bar) ∧
      (OfType p 5 → Free s n p → q.phaseMet = false → ∃ u, exec (.phase die) s = .next u ∧ HeldFor s u n q .phase) ∧
      (OfType p 6 → Free s n p → ReleaseStands s q.cx p → part p 64 64 % 8 = 0 → part p 320 64 % 8 = 0 → 1 ≤ part p 384 12 →
        part p 384 12 ≤ 2048 → part p 264 32 ≠ 0 → BitVec.ofNat 8 (part p 32 8) ≠ q.phase → (reinImage s q.cx p).isSome = true →
        ∃ u, exec (.rein die) s = .next u ∧ HeldFor s u n q .phase))

/-- R116, R117, R124, R125: SIGNAL, WAIT, REPLAY, INVAL and REIN at the head of the chosen queue; INVAL watches every access of
its context in flight, whatever its page (log 58, DEDUCED). -/
def Sys2Proof.Claims.PacketsTakeEffect : Prop :=
  ∀ (s : State) (die n : Nat) (q : Queue) (p : Nat), Parses s die n q p → Free s n p →
    (OfType p 3 → part p 256 2 ∈ [1, 2] → part p 128 64 % 8 = 0 →
      ∃ u, exec (.signal die) s = .next u ∧
        TakenDone s u n p q (if signalWritable s q.cx (part p 128 64) then 0x00 else 0x04)) ∧
    (OfType p 4 → part p 64 64 % 8 = 0 →
      (∀ v, freshMem s q.cx (part p 64 64) 8 = some v →
        (waitCond (part p 256 2) (BitVec.ofNat 64 v) (BitVec.ofNat 64 (part p 128 64)) = true →
          ∃ u, exec (.wait die) s = .next u ∧ TakenDone s u n p q 0x00) ∧
        (waitCond (part p 256 2) (BitVec.ofNat 64 v) (BitVec.ofNat 64 (part p 128 64)) = false →
          ∃ u, exec (.wait die) s = .next u ∧ HeldFor s u n q .wait)) ∧
      (freshMem s q.cx (part p 64 64) 8 = none → migrating s q.cx (part p 64 64) = false →
        ∃ u, exec (.wait die) s = .next u ∧ TakenDone s u n p q 0x04)) ∧
    (OfType p 7 → ∃ t, exec (.replay die) s = .next (finishPacket ((parkedAll t (fun o => decide (o.cx = q.cx))
        (fun l => decide (l.cx = q.cx)) (fun x => decide (x.cx = q.cx))).foldl retryParked t) s.fresh 0) ∧
      (∃ k, t.pkt? s.fresh = some k ∧ k.q = n ∧ k.finished = false) ∧ (t.queue n).head = q.head + 1 ∧ t.mem = s.mem ∧ t.k = s.k ∧
      (∀ e ∈ t.q.qs, e.2.cx = q.cx → e.2.waitPark = none)) ∧
    (OfType p 8 →
      let obj := part p 104 24
      let off := part p 64 40
      let pages := part p 128 32
      (0xFFFFF0 ≤ obj → ∃ u, exec (.inval die) s = .next u ∧ TakenDone s u n p q 0x04) ∧
      (obj < 0xFFFFF0 → ∃ u k, exec (.inval die) s = .next u ∧ Taken s u n p q k ∧ k.finished = false ∧ u.k = s.k ∧
        (∀ e, e ∈ u.mem.tlb ↔ e ∈ s.mem.tlb ∧ ¬ (e.cx = q.cx ∧ e.tr.obj = obj ∧ (pages = 0 ∨
          (off / pageSize e.tr.lg ≤ e.tr.page ∧ e.tr.page < off / pageSize e.tr.lg + pages)))) ∧
        u.mem.phys = s.mem.phys ∧ u.mem.host = s.mem.host ∧ u.mem.stores = s.mem.stores ∧ u.mem.ops = s.mem.ops ∧
        (∀ e ∈ s.mem.stores, e.2.cx = q.cx → e.1 ∈ k.watch) ∧
        (∀ c ∈ s.mem.commit, c.cx = q.cx → c.grid ∈ k.watch) ∧
        (∀ e ∈ s.mem.ops, e.2.cx = q.cx → e.2.parkNo = 0 → e.2.waitsTie = false → e.1 ∈ k.watch))) ∧
    (OfType p 6 → ReleaseStands s q.cx p → part p 64 64 % 8 = 0 → part p 320 64 % 8 = 0 → 1 ≤ part p 384 12 →
      part p 384 12 ≤ 2048 → part p 264 32 ≠ 0 → BitVec.ofNat 8 (part p 32 8) = q.phase →
      (reinImage s q.cx p = none → ∃ u, exec (.rein die) s = .next u ∧ TakenDone s u n p q 0x04) ∧
      (∀ b, reinImage s q.cx p = some b → ∃ u k, exec (.rein die) s = .next u ∧ Taken s u n p q k ∧ k.finished = false ∧
        k.loading = true ∧ u.mem = s.mem ∧ u.reins = s.reins))

/-- Packets at the head of a queue: formats, holds and effects: PacketsAreParsed and PacketsTakeEffect. -/
def Obligations.PacketsAreTaken : Prop :=
  PacketsAreParsed ∧ PacketsTakeEffect

/-- R113, R118, R121, R124, R128, R129, R130: the phase steps, the release of a held queue under the bank its parse began with,
INVAL's end, which waits for every access of its context that was in flight, whatever its page (log 58, DEDUCED), and the patch
bank from which a sequencer fetches, with its switch. A held packet is read again from the ring (log 112, DEDUCED). -/
def Sys2Proof.Claims.HeldQueuesGoOn : Prop :=
  (∀ (s : State) (n : Nat) (q : Queue) (p : Nat), s.queue n = q → q.en = true → q.st = 2 → (s.ctx q.cx).st = 1 →
    (q.tail - q.head).toNat ≤ 2 ^ q.lg → ringEntry s q 0 = some p →
    (q.hold = some .phase → q.phaseMet = false → (∀ e ∈ s.q.pkts, e.2.q ≠ n) →
      (OfType p 5 ∨ (part p 0 8 ∈ [1, 2, 6] ∧ workStatus s q.cx p = 0)) →
      ∃ u, exec (.phaseSteps n) s = .next u ∧ u.queue n = { q with phase := BitVec.ofNat 8 (part p 32 8), phaseMet := true } ∧
        (∀ e, e ∈ u.mem.l1 ↔ e ∈ s.mem.l1 ∧ e.cx ≠ q.cx) ∧ (∀ x, mget u.mem.dirtyCtx x ≠ some q.cx) ∧
        (∀ a, u.mem.hostByte a = s.mem.hostByte a) ∧ u.mem.phys = s.mem.phys ∧ u.k = s.k ∧ u.q.pkts = s.q.pkts) ∧
    (q.hold = some .phase → (∃ e ∈ s.q.pkts, e.2.q = n) → exec (.phaseSteps n) s = .next s) ∧
    (q.hold = some .splice → q.head = q.tail → exec (.queueHoldRelease n) s = .next s) ∧
    (q.hold ≠ some .indirect → exec (.indirectSizeTaken n) s = .next s) ∧
    (q.hold ≠ some .indirect → q.hold ≠ some .splice →
      (OfType p 0 → Free s n p → chooseQueue s q.die = some (n, q) → ∃ u, exec (.queueHoldRelease n) s = .next u ∧
        TakenDone s u n p q 0x00 ∧ sget 0 u.q.bankUsed q.die = q.bank) ∧
      (OfType p 5 → Free s n p → q.phaseMet = true → chooseQueue s q.die = some (n, q) →
        ∃ u, exec (.queueHoldRelease n) s = .next u ∧ TakenDone s u n p q 0x00) ∧
      (holdMet s n = true → (∀ x, chooseQueue s q.die = some x → x.1 ≠ n) → exec (.queueHoldRelease n) s = .next s) ∧
      (OfType p 0 → ¬ Free s n p → ∃ u, exec (.queueHoldRelease n) s = .next u ∧ HeldFor s u n q .bar)) ∧
    (q.hold = some .indirect → exec (.queueHoldRelease n) s = .next s ∧
      (OfType p 1 → Free s n p → ReleaseStands s q.cx p → part p 64 64 % 256 = 0 → BitVec.ofNat 8 (part p 32 8) = q.phase →
        ∀ l h, readLaunch s q.cx (part p 64 64) = some (l, h) → accepted s q.cx l h false = true → part l 654 1 = 1 →
        (sizeMet s q.cx l = false → ∃ u, exec (.indirectSizeTaken n) s = .next u ∧ HeldFor s u n q .indirect) ∧
        (∀ d, sizeMet s q.cx l = true → chooseQueue s q.die = some (n, q) → part l 656 1 = 0 → part l 658 1 = 0 → gridSize s q.cx l = some d →
          ∃ u, exec (.indirectSizeTaken n) s = .next u ∧
            (d.1 * d.2.1 * d.2.2 ≤ 2 ^ 31 → ∃ k g, Taken s u n p q k ∧ k.finished = false ∧ u.grid? (s.fresh + 1) = some g ∧
              g.pkt = s.fresh ∧ (g.gx, g.gy, g.gz) = d ∧ g.blocks = d.1 * d.2.1 * d.2.2 ∧ g.nextBlock = 0) ∧
            (2 ^ 31 < d.1 * d.2.1 * d.2.2 → TakenDone s u n p q 0x02))))) ∧
  (∀ (s : State) (i : Nat) (k : Packet), s.pkt? i = some k → part k.bits.toNat 0 8 = 8 → k.finished = false →
    let idle (j : Nat) : Prop := mget s.mem.stores j = none ∧ (∀ c ∈ s.mem.commit, c.grid ≠ j) ∧
      ∀ o, s.op? j = some o → o.waitsTie = true ∨ (o.parkNo ≠ 0 ∧ (o.kind.isRead = true → o.due = []))
    ((∀ j ∈ k.watch, idle j) → peerBusy s k.cx = false → exec (.invalComplete i) s = .next (s.setPkt i { k with finished := true, status := 0 })) ∧
    ((∃ j ∈ k.watch, ¬ idle j) ∨ peerBusy s k.cx = true → exec (.invalComplete i) s = .next s)) ∧
  (∀ (s : State) (die a : Nat),
    let bank := patchBank s (sget 0 s.q.bankUsed die)
    ((∀ e ∈ bank, e.getLsbD 108 = true → part e.toNat 96 12 ≠ a) → microFetch s die a = Config.controlStore a) ∧
    (∀ e, e ∈ bank → e.getLsbD 108 = true → part e.toNat 96 12 = a →
      (∀ d ∈ bank, d.getLsbD 108 = true → part d.toNat 96 12 = a → d = e) → (microFetch s die a).toNat = part e.toNat 0 96)) ∧
  (∀ (s : State) (die : Nat), ∃ u, exec (.patchBankSwitch die) s = .next u ∧ sget 0 u.q.bankUsed die = s.care.activeBank ∧
    (∀ d, d ≠ die → sget 0 u.q.bankUsed d = sget 0 s.q.bankUsed d) ∧ u = { s with q := { s.q with bankUsed := u.q.bankUsed } })

/-- R121, R133, R135, R139, R140, R143, R149: a LAUNCH that is taken opens a grid of the record's dimensions, and a NODE opens its node; a
record that is refused completes with BAD_LAUNCH, one that cannot be read with BAD_ADDRESS. -/
def Obligations.KernelsAreTaken : Prop :=
  ∀ (s : State) (die n : Nat) (q : Queue) (p : Nat), Parses s die n q p → Free s n p → ReleaseStands s q.cx p →
    part p 64 64 % 256 = 0 →
    (OfType p 1 → BitVec.ofNat 8 (part p 32 8) = q.phase → readLaunch s q.cx (part p 64 64) = none → ∃ u, exec (.launch die) s = .next u ∧ TakenDone s u n p q 0x04) ∧
    (∀ l h, readLaunch s q.cx (part p 64 64) = some (l, h) →
      let node := decide (part p 0 8 = 2)
      let row : Instr := if node then .node die else .launch die
      let fields : Prop := OfType p 1 ∨ (OfType p 2 ∧ 1 ≤ part p 280 10 ∧ part p 280 10 ≤ 1000)
      (fields → BitVec.ofNat 8 (part p 32 8) = q.phase → accepted s q.cx l h node = false →
        ∃ u, exec row s = .next u ∧ TakenDone s u n p q 0x02) ∧
      (OfType p 1 → BitVec.ofNat 8 (part p 32 8) = q.phase → accepted s q.cx l h false = true → part l 654 1 = 0 →
        let dims := (part l 160 32, part l 192 32, part l 224 32)
        (part l 658 1 = 0 → part l 656 1 = 0 → ∃ u k g, exec (.launch die) s = .next u ∧ Taken s u n p q k ∧ k.finished = false ∧
          (u.queue n).lastDet = decide (part l 655 1 = 1) ∧ u.grid? (s.fresh + 1) = some g ∧ g.cx = q.cx ∧ g.pkt = s.fresh ∧
          (g.gx, g.gy, g.gz) = dims ∧ g.blocks = dims.1 * dims.2.1 * dims.2.2 ∧ g.nextBlock = 0 ∧ g.exited = 0 ∧
          g.det = decide (part l 655 1 = 1) ∧ g.width = 16 * 2 ^ part h 40 2 ∧ g.nregs = 16 * part h 48 5 ∧ g.sblk = part h 56 4 ∧
          g.scratch = part h 64 32 ∧ g.spill = part h 96 32 ∧ g.hoff = part h 256 32 ∧ g.codeEnd = 256 + 4 * part h 224 32 ∧
          g.binds.length = part l 128 9 ∧ g.code = none ∧ g.node = none ∧ g.cause = 0 ∧ u.mem = s.mem ∧
          u.k.groups = s.k.groups ∧ u.k.blocks = s.k.blocks ∧ (∀ i, i ≠ s.fresh + 1 → u.grid? i = s.grid? i)) ∧
        (part l 658 1 = 1 → q.head + 1 = q.tail → ∃ u k, exec (.launch die) s = .next u ∧ u.pkt? s.fresh = some k ∧ k.q = n ∧
          k.seq = q.head.toNat ∧ k.finished = false ∧ k.loading = true ∧ (u.queue n).st = 2 ∧ (u.queue n).hold = some .splice ∧
          (u.queue n).head = q.head + 1 ∧ u.k = s.k ∧ u.mem = s.mem)) ∧
      (OfType p 1 → BitVec.ofNat 8 (part p 32 8) = q.phase → accepted s q.cx l h false = true → part l 654 1 = 1 →
        sizeMet s q.cx l = false → ∃ u, exec (.launch die) s = .next u ∧ HeldFor s u n q .indirect) ∧
      (OfType p 2 → 1 ≤ part p 280 10 → part p 280 10 ≤ 1000 → BitVec.ofNat 8 (part p 32 8) = q.phase →
        accepted s q.cx l h true = true →
        let entry := part l 0 64 + part h 192 32
        let disc := part p 264 16
        let nodes := s.k.nodes.filter (fun e => decide (e.2.die = q.die))
        let there : Prop := ∃ e ∈ s.k.nodes, e.2.cx = q.cx ∧ e.2.entry = entry ∧ e.2.disc = disc
        (there ∨ 256 ≤ nodes.length → ∃ u, exec (.node die) s = .next u ∧ HeldFor s u n q .node) ∧
        (¬ there → nodes.length < 256 → (∀ r ∈ s.k.held, ¬ (r.cx = q.cx ∧ r.entry = entry ∧ r.disc = disc)) →
          ∃ u k nd, exec (.node die) s = .next u ∧ Taken s u n p q k ∧ k.finished = false ∧ mget u.k.nodes (s.fresh + 2) = some nd ∧
            nd.cx = q.cx ∧ nd.entry = entry ∧ nd.disc = disc ∧ nd.timer = part p 280 10 ∧ nd.die = q.die ∧ nd.pkt = s.fresh ∧
            nd.grid = s.fresh + 1 ∧ nd.held = [] ∧ nd.ready = [] ∧ nd.closed = false ∧ u.k.held = s.k.held ∧ u.mem = s.mem)))

/-- R114, R117, R120, R126, R127: the completion of a packet whose work is done: its release signal, its record, and its end. A
packet that writes no record waits for no room in the completion ring (log 113, DEDUCED). -/
def Sys2Proof.Claims.PacketsComplete : Prop :=
  ∀ (s : State) (i : Nat) (k : Packet), s.pkt? i = some k →
    let q := s.queue k.q
    let p := k.bits.toNat
    let wants : Prop := part p 15 1 = 1 ∨ k.status ≠ 0
    let signals : Prop := k.status = 0 ∧ part p 256 2 ≠ 0 ∧ part p 0 8 ∈ [1, 2, 3, 6]
    let gone (u : State) : Prop := u.pkt? i = none ∧ (∀ j, j ≠ i → u.pkt? j = s.pkt? j) ∧ u.cx = s.cx ∧ u.k.blocks = s.k.blocks
    let placed (ps : List PByte) : Prop := (∀ x ∈ ps, x.wp = false ∧ (x.loc.sp = .phys ∨ x.loc.sp = .host) ∧
      byteOwned s k.cx 0 x = false) ∧ (ps.map (·.loc)).Nodup
    (k.finished = false → (s.ctx k.cx).st ≠ 4 → exec (.packetComplete i) s = .next s) ∧
    (k.finished = true → (s.ctx k.cx).st = 1 → workQuiet s i = false → exec (.packetComplete i) s = .next s) ∧
    (k.finished = true → (s.ctx k.cx).st = 1 → workQuiet s i = true → k.watch = [] → q.late = [] →
      (¬ wants → ¬ signals → ∃ u, exec (.packetComplete i) s = .next u ∧ gone u ∧ u.mem = s.mem ∧ ∀ m, u.queue m = s.queue m) ∧
      (∀ ps, ¬ wants → signals → seqBytes s k.cx (part p 128 64) 8 = .ok ps → placed ps →
        let old := BitVec.ofNat 64 (seqRead s k.cx ps)
        let val := BitVec.ofNat 64 (part p 192 64)
        ∃ u, exec (.packetComplete i) s = .next u ∧ gone u ∧
          (∀ m, u.queue m = { s.queue m with waitPark := (u.queue m).waitPark }) ∧
          BitVec.ofNat 64 (seqRead u k.cx ps) = (if part p 256 2 = 1 then val else old + val) ∧
          (part p 258 1 = 0 → ∀ x, mget u.mem.dirtyCtx x ≠ some k.cx)) ∧
      (∀ ps, wants → ¬ signals → q.noRecords = false → (q.ctail - q.chead).toNat < 2 ^ q.clg →
        seqBytes s k.cx (q.cbase.toNat + 32 * (q.ctail.toNat % 2 ^ q.clg)) 32 = .ok ps → placed ps →
        ∃ u r, exec (.packetComplete i) s = .next u ∧ gone u ∧ seqRead u k.cx ps = r ∧
          u.queue k.q = { q with ctail := q.ctail + 1, waitPark := (u.queue k.q).waitPark } ∧
          (∀ m, m ≠ k.q → u.queue m = { s.queue m with waitPark := (u.queue m).waitPark }) ∧
          part r 0 8 = k.status.toNat ∧ part r 8 8 = part p 0 8 ∧ part r 16 8 = k.link.toNat ∧ part r 24 8 = k.cause.toNat ∧
          part r 32 16 = part p 48 16 ∧ part r 48 16 = k.q % 1024 ∧ part r 64 64 = k.seq % 2 ^ 64 ∧
          part r 128 64 = s.cycle % 2 ^ 64 ∧ part r 192 32 = k.blocks % 2 ^ 32 ∧ part r 224 31 = 0 ∧
          part r 255 1 = (if q.ctail.toNat / 2 ^ q.clg % 2 = 0 then 1 else 0) ∧ (∀ x, mget u.mem.dirtyCtx x ≠ some k.cx)) ∧
      (wants → q.noRecords = false → 2 ^ q.clg ≤ (q.ctail - q.chead).toNat → ∃ u, exec (.packetComplete i) s = .next u ∧
        u.pkt? i = some k ∧ u.queue k.q = { q with late := [i] } ∧ u.mem = s.mem)) ∧
    ((s.ctx k.cx).st = 4 → ctxStopped s k.cx = true → q.late = [] → q.noRecords = true →
      ∃ u, exec (.packetComplete i) s = .next u ∧ gone u)

/-- Held queues go on; a finished packet signals and leaves its record: HeldQueuesGoOn and PacketsComplete. -/
def Obligations.QueuesGoOnAndComplete : Prop :=
  HeldQueuesGoOn ∧ PacketsComplete

/-- R62, R76, R253, R254, R255: a lane access with pages that do not translate parks its group at its instruction: the other
lanes go on as ever, the unfinished mask holds the rest, and one record for each page waits for the fault queue. -/
def Sys2Proof.Claims.AccessesPark : Prop :=
  ∀ (s : State) (g : Group) (w : MemWord) (as : List LaneAcc) (i : Instr) (f : LaneForm) (kind bits : Nat),
    let r : Rec := g.rdK w.k
    (i, f, kind, bits) ∈ [(Instr.ld w, ldForm w, 0, 0), (.ldq w, ldqForm w, 0, 0), (.ldb w, ldbForm w, 0, 0),
      (.ldu w, lduForm w, 0, 0), (.st w, stForm w, 1, 32), (.qst w, qstForm w, 1, fmtBits r.fmt),
      (.atom w, atomForm w 1 2, 2, 0), (.cas w, atomForm w 2 w.scl, 2, 0)] →
    AccessIssues s g f as → r.special = false → detOf s g = false → tieAt s g false = none → tieAt s g true = none →
    let cs := translateChunks s g.cx r.obj true (as.flatMap LaneAcc.offs)
    let out (a : LaneAcc) : List (PageFault × Nat) := a.faults cs
    let b := (f.form.brand g r).getD 0
    let whole : Option Lanes := if g.outrider.isSome then some 0 else if f.once then some g.exm else none
    ChunksPlain cs → (∃ a ∈ as, out a ≠ []) →
    (kind ≠ 0 → ∀ a ∈ as, out a = [] → linesNeeding s g.cx b (a.offs.map cs.byte) = []) →
    ∃ t op g' recs, exec i s = .next t ∧ t.op? s.fresh = some op ∧ t.group? s.cur = some g' ∧ op.gid = s.cur ∧
      g'.status = .parked ∧ g'.park = some s.fresh ∧ g'.pc = g.pc ∧ CountedUp g g' w.sel ∧ g'.V = g.V ∧ g'.S = g.S ∧
      (∀ l, l < 64 → (op.left.getLsbD l = true ↔ ∃ a ∈ as, a.lane = l ∧ out a ≠ [])) ∧
      (∀ a ∈ as, (if out a = [] then a.bind cs.byte else a) ∈ op.lanes) ∧
      (kind = 1 → ∀ a ∈ as, out a = [] → let bs := ((a.bind cs.byte).writes bits).flatten
        bs ≠ [] → ∃ k st, s.fresh < k ∧ mget t.mem.stores k = some st ∧ st.op = s.fresh ∧ st.lane = a.lane ∧
          st.brand = b ∧ st.act = .bytes ∧ st.bytes = bs) ∧
      t.fq = { s.fq with waiting := s.fq.waiting ++ [recs] } ∧ PageRecords as out whole g.cx b r.obj kind recs ∧
      (∀ c ∈ recs, part c.toNat 40 32 = (originOf s g g.pc).2 % 2 ^ 32 ∧
        part c.toNat 72 24 = (originOf s g g.pc).1 / 2 ^ 40 % 2 ^ 24 ∧
        (g.outrider = none → part c.toNat 31 9 = g.core % 512 ∧ part c.toNat 25 6 = g.slice % 64)) ∧
      SameMemory s t ∧ SameDevice s t ∧ OtherGroups s t s.cur

/-- R253, R258: the retry of a parked access walks afresh, for its unfinished lanes alone and with the values captured: those that
translate now go on, and with none left the group goes on behind the instruction; else it stays parked, with new records. -/
def Sys2Proof.Claims.ParkedAccessesRetry : Prop :=
  ∀ (s : State) (g : Group) (i : Nat) (op : LongOp), s.op? i = some op → s.group? op.gid = some g → g.park = some i →
    op.parkNo ≠ 0 → op.kind ∈ [OpKind.load, .loadQ, .loadU, .store] → op.leave = false → Rec.special op.rec1 = false →
    detOf s g = false → op.cx = g.cx → s.brandLive op.cx op.brand = true →
    let todo := op.lanes.filter (fun (a : LaneAcc) => op.left.getLsbD a.lane)
    let cs := translateChunks { s with mem := { s.mem with tlb := [] } } op.cx (Rec.obj op.rec1) true
      (todo.flatMap LaneAcc.offs)
    let out (a : LaneAcc) : List (PageFault × Nat) := a.faults cs
    let whole : Option Lanes := if g.outrider.isSome then some 0 else if op.kind = .loadU then some op.exm else none
    (todo.map (·.lane)).Pairwise (· < ·) →
    (op.kind = .store → ∀ a ∈ todo, out a = [] → linesNeeding s op.cx op.brand (a.offs.map cs.byte) = []) →
    ∃ o g', (retryAny s i).op? i = some o ∧ (retryAny s i).group? op.gid = some g' ∧
      (∀ l, l < 64 → (o.left.getLsbD l = true ↔ ∃ a ∈ todo, a.lane = l ∧ out a ≠ [])) ∧
      (∀ a ∈ op.lanes, (if op.left.getLsbD a.lane && (out a).isEmpty then a.bind cs.byte else a) ∈ o.lanes) ∧
      (op.kind = .store → ∀ a ∈ todo, out a = [] → let bs := ((a.bind cs.byte).writes op.ndst).flatten
        bs ≠ [] → ∃ k st, s.fresh ≤ k ∧ mget (retryAny s i).mem.stores k = some st ∧ st.op = i ∧ st.lane = a.lane ∧
          st.brand = op.brand ∧ st.act = .bytes ∧ st.bytes = bs) ∧
      ((∀ a ∈ todo, out a = []) → g' = g.unpark.pass 2 ∧ (retryAny s i).fq = s.fq) ∧
      ((∃ a ∈ todo, out a ≠ []) → g' = { g with status := .parked } ∧ ∃ recs,
        (retryAny s i).fq = { s.fq with waiting := s.fq.waiting ++ [recs] } ∧
        PageRecords todo out whole op.cx op.brand (Rec.obj op.rec1) op.kindCode recs) ∧
      SameMemory s (retryAny s i) ∧ SameDevice s (retryAny s i) ∧ OtherGroups s (retryAny s i) op.gid

/-- A lane access: checks in their order, bounds modes, parking and retry; FENCE, DRAINST, PROBE: LaneAccessChecks,
AccessesPark, ParkedAccessesRetry and FencesAndProbe. -/
def Obligations.AccessChecksAndFences : Prop :=
  LaneAccessChecks ∧ AccessesPark ∧ ParkedAccessesRetry ∧ FencesAndProbe

/-! Blocks, clauses and outriders. -/

/-- R136, R137, R138, R139, R142, R289: a block is placed with all its groups in the state of a launch, on cores of one cluster
that have room; a grid is done when every block has exited, and its commit buffer is applied: of the entries that reach a
byte the one of the highest key stays. -/
def Obligations.BlocksArePlaced : Prop :=
  (∀ (s : State) (id : Nat) (r : Grid), s.grid? id = some r → r.lmap = [] → r.coop = false → r.node = none →
    (s.ctx r.cx).st = 1 → (s.ctx r.cx).placedShare = true → r.heavy = false → (∀ e ∈ s.k.blocks, e.2.cx = r.cx → e.2.saved = false) →
    let threads := part r.lrec.toNat 256 13 * part r.lrec.toNat 272 13 * part r.lrec.toNat 288 13
    let entry := if r.code.isSome then 256 else part r.hdr.toNat 192 32
    let deals := placeFree (r.shape r.ngroups) (clustersByRoom s)
    (r.nextBlock = r.blocks ∨ deals = none → exec (.blockPlace id) s = .next s) ∧
    (∀ d, r.nextBlock < r.blocks → deals = some d → 16 ≤ r.width →
      let homes := d.flatMap (fun e => List.replicate e.2 e.1)
      (∃ cl, ∀ e ∈ d, e.1 / 12 = cl) ∧ homes.length = r.ngroups ∧ d.length ≤ 8 ∧
      ∃ u b, exec (.blockPlace id) s = .next u ∧ u.block? s.fresh = some b ∧ b.grid = id ∧ b.cx = r.cx ∧ b.b = r.nextBlock ∧
        b.cores = d.map (·.1) ∧ b.threads = threads ∧ b.bmem = [] ∧ b.groups.length = r.ngroups ∧
        u.grid? id = some { r with nextBlock := r.nextBlock + 1 } ∧ u.mem.phys = s.mem.phys ∧ u.q = s.q ∧ u.cx = s.cx ∧
        (∀ i, i < s.fresh → u.group? i = s.group? i) ∧
        ∀ j gid, b.groups[j]? = some gid → ∃ g, u.group? gid = some g ∧ g.gidx = j ∧ g.block = s.fresh ∧ g.grid = id ∧ g.cx = r.cx ∧
          homes[j]? = some g.core ∧ g.width = r.width ∧ g.nregs = r.nregs ∧ g.status = .boundary ∧ g.pc = entry ∧
          g.brd = BitVec.ofNat 16 (part r.lrec.toNat 704 16) ∧ g.pipe < 4 ∧
          (let m := min r.width (threads - r.width * j)
           (∀ l, l < 64 → g.live.getLsbD l = decide (l / 4 < (m + 3) / 4)) ∧
           (∀ l, l < 64 → g.hlp.getLsbD l = (decide (l / 4 < (m + 3) / 4) && decide (m ≤ l)))) ∧
          g.exm = g.live ∧ g.pth = g.live ∧ g.V = [] ∧ g.S = [] ∧ g.M = [] ∧ g.K = [] ∧ g.fl = [] ∧ g.F = [] ∧ g.J = [] ∧
          g.bv = 0 ∧ g.bs = 0 ∧ g.ih = false ∧ g.spill = [] ∧ g.fcla = 0 ∧ g.fres = 0 ∧ g.fcau = 0)) ∧
  (∀ (s : State) (id : Nat) (r : Grid) (k : Packet), s.grid? id = some r → r.node = none → s.pkt? r.pkt = some k →
    k.finished = false → k.bits.extractLsb' 0 8 ≠ 8 → (s.ctx r.cx).st = 1 →
    (r.nextBlock ≠ r.blocks ∨ r.exited ≠ r.blocks → exec (.gridComplete id) s = .next s) ∧
    (r.nextBlock = r.blocks → r.exited = r.blocks → r.pkt2 = none → (∀ c ∈ s.mem.commit, c.grid ≠ id) →
      (∀ e ∈ s.k.nodes, e.2.closed = false ∨ e.2.det = false) →
      ∃ u, exec (.gridComplete id) s = .next u ∧ u.mem.phys = s.mem.phys ∧ u.mem.host = s.mem.host ∧
        u.pkt? r.pkt = some { k with finished := true, status := 0, blocks := r.blocks, cause := r.cause } ∧
        (∀ e ∈ u.k.bars, ¬ (e.lv = 2 ∧ e.id = id)) ∧ u.k.groups = s.k.groups)) ∧
  (∀ (s : State) (id : Nat) (r : Grid) (k : Packet), s.grid? id = some r → r.node = none → s.pkt? r.pkt = some k →
    k.finished = false → (s.ctx r.cx).st = 1 → r.nextBlock = r.blocks → r.exited = r.blocks → r.pkt2 = none →
    (∀ e ∈ s.k.nodes, e.2.closed = false ∨ e.2.det = false) →
    let mine := s.mem.commit.filter (fun c => decide (c.grid = id))
    (mine.map (·.key)).Nodup → (∀ c ∈ mine, c.cx = r.cx ∧ c.brand = 0 ∧ c.tags = [] ∧ (c.bytes.map (·.1.loc)).Nodup ∧
      ∀ b ∈ c.bytes, b.1.wp = false ∧ b.2.2 = 0xFF ∧ Stands s b.1.loc) →
    ((∀ c ∈ mine, c.addF32 = none) → ∃ u, exec (.gridComplete id) s = .next u ∧
      u.mem.commit = s.mem.commit.filter (fun c => !decide (c.grid = id)) ∧ (∀ o ∈ u.mem.detOwn, o.grid ≠ id) ∧
      (∀ c ∈ mine, ∀ b ∈ c.bytes, (∀ d ∈ mine, b.1.loc ∈ d.bytes.map (·.1.loc) → ¬ c.key < d.key) →
        readAt u r.cx [] b.1.loc = b.2.1) ∧
      ∀ l, (∀ c ∈ mine, l ∉ c.bytes.map (·.1.loc)) → readAt u r.cx [] l = readAt s r.cx [] l) ∧
    (∀ c v, mine = [c] → c.addF32 = some v → c.bytes.length = 4 →
      let word (x : State) : Word := BitVec.ofNat 32 (natOfBytes (c.bytes.map (fun b => readAt x r.cx [] b.1.loc)))
      let sum := fp32.addV .rne false (fp32.decode (word s).toNat) (fp32.decode v.toNat)
      ∃ u, exec (.gridComplete id) s = .next u ∧ word u = BitVec.ofNat 32 sum.1 ∧
        (∀ g, s.group? c.gid = some g → ∃ g', u.group? c.gid = some g' ∧ g'.flags c.lane = (g.flags c.lane ||| sum.2)) ∧
        ∀ l, l ∉ c.bytes.map (·.1.loc) → readAt u r.cx [] l = readAt s r.cx [] l))

/-- R157, R158, R384: arrival interrupts enter the queue of an outrider with room, and the slot of their packet waits for one
fewer; the oldest of an active context starts a run of its
context's image, or is discarded and counted where there is none. -/
def Obligations.OutridersRun : Prop :=
  (∀ (s : State) (n : Nat),
    let takes (o : Outrider) : Prop := o.irq.length < 64 ∧ ∃ a ∈ o.waiting, a.rein = n
    ((∀ e ∈ s.k.outriders, ¬ takes e.2) → exec (.arrivalInterrupt n) s = .next s) ∧
    (∀ pre c o post w1 a w2, s.k.outriders = pre ++ (c, o) :: post → (∀ e ∈ pre, ¬ takes e.2) → o.irq.length < 64 →
      o.waiting = w1 ++ a :: w2 → a.rein = n → (∀ b ∈ w1, b.rein ≠ n) →
      ∃ u, exec (.arrivalInterrupt n) s = .next u ∧
        sget Outrider.idle u.k.outriders c = { o with irq := o.irq ++ [a], waiting := w1 ++ w2 } ∧
        (let entered (x : Slot) : Slot := if x.st ≠ 0 ∧ x.pkt = a.pkt then { x with irqOut := x.irqOut - 1 } else x
         (∀ sl, u.slot n sl = entered (s.slot n sl)) ∧ (u.rein n).saved = (s.rein n).saved.map entered) ∧ u.mem = s.mem ∧
        u.k.groups = s.k.groups)) ∧
  (∀ (s : State) (c : Nat) (pre post : List Arrival) (a : Arrival),
    let o := sget Outrider.idle s.k.outriders c
    (o.run.isSome = true → exec (.outriderRunStart c) s = .next s) ∧
    (o.run = none → (∀ e ∈ s.k.groups, e.2.outrider = some c → e.2.saved = false) →
      ((∀ b ∈ o.irq, (s.ctx b.cx).st ≠ 1) → exec (.outriderRunStart c) s = .next s) ∧
      (o.irq = pre ++ a :: post → (∀ b ∈ pre, (s.ctx b.cx).st ≠ 1) → (s.ctx a.cx).st = 1 →
        ((s.ctx a.cx).oimg = 0 → ∃ u, exec (.outriderRunStart c) s = .next u ∧
          sget Outrider.idle u.k.outriders c = { o with irq := pre ++ post } ∧ u.mem = s.mem ∧ u.k.groups = s.k.groups ∧
          u.care.discarded = min (s.care.discarded + 1) (2 ^ 32 - 1)) ∧
        (∀ h, (s.ctx a.cx).oimg ≠ 0 → seqMem s a.cx (s.ctx a.cx).oimg 128 = some h →
          ∃ u g, exec (.outriderRunStart c) s = .next u ∧ u.group? s.fresh = some g ∧
            sget Outrider.idle u.k.outriders c = { o with irq := pre ++ post, run := some s.fresh } ∧
            g.outrider = some c ∧ g.cx = a.cx ∧ g.status = .boundary ∧ g.pc = part h 192 32 ∧ g.hoff = part h 256 32 ∧
            g.codeEnd = 256 + 4 * part h 224 32 ∧ g.img = (s.ctx a.cx).oimg ∧
            (∀ i, g.sget' i = BitVec.ofNat 32 (if i = 0 then a.rein else if i = 1 then a.slot else if i = 2 then a.comm
              else if i = 3 then a.entry else if i = 4 then a.value.toNat else if i = 5 then a.value.toNat / 2 ^ 32 else 0)) ∧
            g.M = [] ∧ g.K = [] ∧ g.F = [] ∧ g.ih = false ∧ g.fcla = 0 ∧ g.fres = 0 ∧ g.fcau = 0 ∧
            u.mem.phys = s.mem.phys ∧ ∀ e ∈ u.mem.l1, ¬ (e.core = 384 + c ∧ e.cx = a.cx)))))

/-- R61, R62, R66, R170, R172, R260: a pipe starts the clause of the best group that can start one, whose wait flags are clear; a
stalled word issues again once its cause is gone; a report of write protection takes the oldest record. -/
def Obligations.ClausesStart : Prop :=
  (∀ (s : State) (co p : Nat),
    let able := candidates s co p
    (able = [] → exec (.clauseStart co p) s = .next s) ∧
    (∀ id g, chosen s co p = some (id, g) → g.status ≠ .boundary → exec (.clauseStart co p) s = .next s) ∧
    (∀ e ∈ able, e.2.saved = false ∧ e.2.core = co ∧ e.2.pipe = p ∧ (e.2.status = .issuing ∧ (s.ctx e.2.cx).st ∈ [1, 2, 4] ∨
      e.2.status = .boundary ∧ (s.ctx e.2.cx).st = 1)) ∧
    (∀ e ∈ pipeGroups s co p, nearBudget s (Config.dieOfCore co) = true → canIssue s e.2 = true → nextNeedsLeave s e.2 = false →
      ∀ e ∈ able, nextNeedsLeave s e.2 = false) ∧
    (∀ g : Group, g.class = if 256 < g.waited then 8 else g.prio) ∧
    (∀ id g w h, (able.map (·.1)).Nodup → (id, g) ∈ able → s.group? id = some g → g.status = .boundary → g.yielding = false →
      (∀ e ∈ able, e.2.status = .issuing → sget 0 (s.core co).prev p ≠ e.1 + 1) →
      (∀ e ∈ able, e.1 ≠ id → e.2.yielding = false → e.2.class < g.class ∨ (e.2.class = g.class ∧ e.2.age < g.age)) →
      codeWords s g g.pc 1 = .ok [w] → decodeHeader w = some h → parkDue s id g = none → g.dfaults = [] → g.owed = [] →
      (∀ f, f < 12 → h.wait.getLsbD f = true → g.count f = 0) ∧
      ∃ u, exec (.clauseStart co p) s = .next u ∧ u.group? id = some { g with
          status := .issuing, cla := g.pc, pc := g.pc + 4, cend := g.pc + 8 + 4 * h.len.toNat, seta := h.seta, setb := h.setb
          yld := h.yld, yielding := false } ∧
        (∀ i x, i ≠ id → s.group? i = some x → ∃ y, u.group? i = some { x with yielding := y }) ∧
        u.mem.phys = s.mem.phys ∧ u.q = s.q ∧ u.cx = s.cx)) ∧
  (∀ (s : State) (id : Nat) (g : Group), s.group? id = some g →
    ((∀ w, g.status ≠ .stalled w) → exec (.stallRelease id) s = .next s) ∧
    (∀ w, g.status = .stalled w → g.saved = false → (s.ctx g.cx).st = 1 →
      let again : Prop := exec (.stallRelease id) s = .next (s.setGroup id { g with status := .issuing })
      let still : Prop := exec (.stallRelease id) s = .next s
      (w ∈ [.fence, .drain, .storeRoom] ∨ (∃ z, w = .tile z) → again) ∧
      (∀ f, w = .flagFull f → (g.count f < 63 → again) ∧ (63 ≤ g.count f → still)) ∧
      (∀ m, w = .syncf m → ((∀ f, f < 12 → m.getLsbD f = true → g.count f = 0) → again) ∧
        ((∃ f, f < 12 ∧ m.getLsbD f = true ∧ g.count f ≠ 0) → still)) ∧
      (w = .leave → (hasLeave s (Config.dieOfCore g.core) id = true → again) ∧
        (hasLeave s (Config.dieOfCore g.core) id = false → still)) ∧
      (∀ l b, w = .recall l b → (owned s l b = false → again) ∧ (owned s l b = true → still)) ∧
      (∀ b, w = .merge b → (b = 0 → exec (.stallRelease id) s = .next (s.setGroup id (g.adv 1))) ∧ (b ≠ 0 → still)))) ∧
  (∀ (s : State) (id : Nat) (g : Group), s.group? id = some g →
    (g.status ≠ .issuing ∨ g.ih = true ∨ g.sfq = [] → exec (.writeProtectReport id) s = .next s) ∧
    (∀ r off k rest, g.status = .issuing → g.ih = false → g.sfq = (r, off, k) :: rest → (s.ctx g.cx).st ∈ [1, 2, 4] →
      exec (.writeProtectReport id) s = .next (takeTrap s id { g with sfq := rest }
        { cause := cWriteProtect, lanes := some (r.extractLsb' 96 64), off := off.toInt, kreg := k })))

/-! Care of the device. -/

/-- R390, R391, R392, R399, R402: leave is granted to the oldest request while there are grants and nothing is withheld; the limiter
raises or lowers its withholding by a sixteenth at the end of a window, and an activated record's limits govern the next. The
model's readings are that a sample closes a full window and that a hundred make the second one (log 82), and which fields of
the record come into force then (log 81). -/
def Sys2Proof.Claims.LeaveAndPower : Prop :=
  ∀ (s : State),
    let c := s.care
    let onlyCare (u : State) : Prop := u = { s with care := u.care }
    (∀ die,
      let held := sget [] c.grants die
      let can : Prop := held.length < c.conf.elim 0 (·.lvmax) ∧ c.withhold = 0
      (sget [] c.asking die = [] ∨ ¬ can → exec (.leaveGrant die) s = .next s) ∧
      (∀ w r, sget [] c.asking die = w :: r → can → ∃ u, exec (.leaveGrant die) s = .next u ∧ onlyCare u ∧
        sget [] u.care.grants die = held ++ [w] ∧ sget [] u.care.asking die = r ∧
        ∀ d, d ≠ die → sget [] u.care.grants d = sget [] c.grants d ∧ sget [] u.care.asking d = sget [] c.asking d)) ∧
    (∀ mw dies, ∃ u, exec (.powerSample mw dies) s = .next u ∧ onlyCare u ∧ u.care.lastPower = mw :: dies ∧
      u.care.sinceWithheld = (if 0 < u.care.withhold then 100 else c.sinceWithheld - 1) ∧ u.care.grants = c.grants ∧
      (c.samples < 10 → u.care.powerSum = c.powerSum + mw ∧ u.care.samples = c.samples + 1 ∧ u.care.withhold = c.withhold ∧
        u.care.conf = c.conf) ∧
      (10 ≤ c.samples → u.care.powerSum = mw ∧ u.care.samples = 1 ∧
        ∀ w, exec .limiterWindow s = .next w → u.care.withhold = w.care.withhold ∧ u.care.conf = w.care.conf)) ∧
    (c.samples < 10 → exec .limiterWindow s = .next s) ∧
    (10 ≤ c.samples →
      let limit := 1000 * min 2600 (c.conf.elim 2600 (·.plim)) * c.samples
      ∃ u, exec .limiterWindow s = .next u ∧ onlyCare u ∧ u.care.powerSum = 0 ∧ u.care.samples = 0 ∧ u.care.pending = none ∧
        (limit < c.powerSum → u.care.withhold = min 15 (c.withhold + 1)) ∧
        (c.powerSum ≤ limit → 100 * c.powerSum < 97 * limit → u.care.withhold = c.withhold - 1) ∧
        (c.powerSum ≤ limit → 97 * limit ≤ 100 * c.powerSum → u.care.withhold = c.withhold) ∧
        (c.pending = none → u.care.conf = c.conf) ∧
        (∀ p o, c.pending = some p → c.conf = some o → ∃ n, u.care.conf = some n ∧ n.plim = p.plim ∧ n.lvmax = p.lvmax ∧
          n.lvnear = p.lvnear ∧ n.l2u = o.l2u ∧ n.devno = o.devno))

/-- R394, R395: a reset is refused for an index that is not there and, unless forced, for a unit that holds work; otherwise its
level clears its unit and no other, and a forced one destroys the contexts that hold work there. The model's choices: an engine
reset clears the one list of all cached translations (log 8, DEDUCED, unsafe); the packet at the head of a held queue is in parse
(log 79, DEDUCED); a package reset keeps the keys, the tags, the counts and the flash (log 78); a PREEMPT of a context that is
destroyed ends (log 130); and arrival interrupts of saved contexts are no work of their outrider and stay (log 131). -/
def Obligations.ResetsAreCommanded : Prop :=
  ∀ (s : State) (idx : Nat) (force : Bool), idx < 512 →
    let levels (p : Nat → Nat → Instr → Prop) : Prop :=
      p 1 1 (.resetPackage idx force) ∧ p 2 4 (.resetDie idx force) ∧ p 3 32 (.resetCluster idx force) ∧
      p 4 384 (.resetCore idx force) ∧ p 5 384 (.resetVectorPipes idx force) ∧ p 6 384 (.resetMatrixEngine idx force) ∧
      p 7 384 (.resetCopyEngine idx force) ∧ p 8 384 (.resetGatherEngine idx force) ∧ p 9 32 (.resetOutrider idx force) ∧
      p 10 4 (.resetCommandSequencer idx force) ∧ p 11 32 (.resetRein idx force) ∧ p 12 1 (.resetManagementBlock idx force)
    let noted (r : BitVec 8) (l : Nat) : Out :=
      .next { s with care := { s.care with rstForce := force, rstLvl := l, rstIdx := idx, rstRes := r } }
    (s.care.rstBusy = true → levels (fun _ _ i => exec i s = .next s)) ∧
    (s.care.rstBusy = false →
      levels (fun l n i => (n ≤ idx → exec i s = noted 0x01 l) ∧
        (idx < n → force = false → unitWork s l idx ≠ some [] → exec i s = noted 0x02 l)) ∧
      (∀ id g, s.group? id = some g → g.outrider = none → g.saved = false → g.status ≠ .ended → g.cx < 1024 → g.core < 384 →
        unitWork s 4 g.core ≠ some [] ∧ unitWork s 5 g.core ≠ some [] ∧ unitWork s 3 (g.core / 12) ≠ some [] ∧
        unitWork s 2 (g.core / 96) ≠ some [] ∧ unitWork s 1 0 ≠ some []) ∧
      (let runs (l : Nat) (i : Instr) (p : State → Prop) : Prop := unitWork s l idx = some [] → ∃ u, exec i s = .next u ∧
         u.care.rstBusy = true ∧ u.care.rstLvl = l ∧ u.care.rstIdx = idx ∧ u.mem.phys = s.mem.phys ∧ u.k.groups = s.k.groups ∧
         u.cx = s.cx ∧ p u
       let coreOnly (u : State) : Prop := ∀ k, k ≠ idx → u.core k = s.core k
       let split := s.care.conf.elim 0 (·.dsplit)
       (unitWork s 1 idx = some [] → ∃ u, exec (.resetPackage idx force) s = .next u ∧ u.cx = State.reset.cx ∧ u.q = State.reset.q ∧
          u.fq = State.reset.fq ∧ u.k = State.reset.k ∧ u.cores = [] ∧ u.br = State.reset.br ∧ u.care.up = false ∧
          (∀ n, u.rein n = { Rein.untrained with resends := (s.rein n).resends }) ∧ u.care.bankA = [] ∧ u.care.bankB = [] ∧
          u.care.corrected = s.care.corrected ∧ u.care.noCtxErrors = s.care.noCtxErrors ∧ u.care.faultedCount = s.care.faultedCount ∧
          u.care.destroyed = s.care.destroyed ∧ u.care.lastDestroyed = s.care.lastDestroyed ∧ u.care.discarded = s.care.discarded ∧
          u.care.conf = none ∧ u.care.flash = s.care.flash ∧ u.care.counter = s.care.counter ∧ u.mem.ops = [] ∧ u.mem.l1 = []) ∧
       runs 2 (.resetDie idx force) (fun u => (∀ k, k < 384 → k / 96 = idx → u.core k = { Core.idle with split := split }) ∧
          (∀ k, k / 96 ≠ idx → u.core k = s.core k) ∧ (∀ e ∈ u.mem.dir, e ∈ s.mem.dir ∧ homeDie e.line ≠ idx) ∧
          (∀ e ∈ u.br.cells, e ∈ s.br.cells ∧ homeDie e.line ≠ idx) ∧ (∀ a, u.mem.hostByte a = s.mem.hostByte a)) ∧
       runs 3 (.resetCluster idx force) (fun u => (∀ k, k / 12 = idx → u.core k = { Core.idle with split := split }) ∧
          (∀ k, k / 12 ≠ idx → u.core k = s.core k)) ∧
       runs 4 (.resetCore idx force) (fun u => u.core idx = { Core.idle with split := split } ∧ coreOnly u ∧
          ∀ e, e ∈ u.mem.l1 ↔ e ∈ s.mem.l1 ∧ e.core ≠ idx) ∧
       runs 5 (.resetVectorPipes idx force) (fun u => u.core idx = { s.core idx with prev := [] } ∧ coreOnly u ∧ u.mem = s.mem) ∧
       runs 6 (.resetMatrixEngine idx force) (fun u => u.core idx = { s.core idx with tiles := [], contended := 0, choice := none } ∧
          coreOnly u ∧ u.mem = s.mem) ∧
       runs 7 (.resetCopyEngine idx force) (fun u => u.core idx = { s.core idx with copyQ := [] } ∧ coreOnly u ∧
          u.mem = { s.mem with tlb := [] }) ∧
       runs 8 (.resetGatherEngine idx force) (fun u => u.core idx = { s.core idx with gathQ := [] } ∧ coreOnly u ∧
          u.mem = { s.mem with tlb := [] }) ∧
       runs 9 (.resetOutrider idx force) (fun u =>
          (let o := sget Outrider.idle s.k.outriders idx
           sget Outrider.idle u.k.outriders idx = { irq := o.irq.filter (fun a => decide ((s.ctx a.cx).st = 3)),
                                                    waiting := o.waiting.filter (fun a => decide ((s.ctx a.cx).st = 3)), run := none }) ∧
          sget 0x44 u.care.tqarb idx = 0x44 ∧
          ∀ o, o ≠ idx → sget Outrider.idle u.k.outriders o = sget Outrider.idle s.k.outriders o) ∧
       runs 10 (.resetCommandSequencer idx force) (fun u => sget 0 u.q.last idx = 0 ∧ sget 0 u.q.bankUsed idx = s.care.activeBank ∧
          u.q.pkts = s.q.pkts ∧ ∀ q, if (s.queue q).die = idx ∧ (s.queue q).st = 2 then
            u.queue q = { s.queue q with st := 1, hold := none, phaseMet := false } else u.queue q = s.queue q) ∧
       ((∀ x ∈ (s.rein idx).saved, (s.ctx x.cx).st ≠ 1) → runs 11 (.resetRein idx force) (fun u => (u.rein idx).slots = [] ∧ (u.rein idx).link = 1 ∧ (u.rein idx).vcComm = [] ∧
          (u.rein idx).streams = [] ∧ (u.rein idx).claims = [] ∧ (u.rein idx).saved = (s.rein idx).saved.map (fun x => { x with lost := true }) ∧
          (u.rein idx).held = [] ∧ (u.rein idx).resends = (s.rein idx).resends ∧ ∀ n, n ≠ idx → u.rein n = s.rein n)) ∧
       runs 12 (.resetManagementBlock idx force) (fun u => u.care.corrected = [] ∧ u.care.noCtxErrors = 0 ∧ u.care.faultedCount = 0 ∧
          u.care.destroyed = 0 ∧ u.care.discarded = 0 ∧ (∀ n, (u.rein n).resends = 0) ∧ u.mem = s.mem ∧ u.q = s.q)) ∧
      (∀ c, force = true → idx < 384 → unitWork s 4 idx = some [c] → ∃ u, exec (.resetCore idx force) s = .next u ∧
        u.ctx c = Context.free ∧ u.care.destroyed = min (s.care.destroyed + 1) (2 ^ 32 - 1) ∧ u.care.lastDestroyed = c ∧
        (∀ e ∈ u.k.groups, e.2.cx ≠ c) ∧ (∀ k, k ≠ c → u.ctx k = s.ctx k) ∧
        (s.cx.busy = true → s.cx.sel = c → u.cx.busy = false) ∧
        u.core idx = { Core.idle with split := s.care.conf.elim 0 (·.dsplit) })) ∧
    (s.care.rstBusy = false → exec .resetComplete s = .next s) ∧
    (s.care.rstBusy = true → ∃ u, exec .resetComplete s = .next u ∧ u.care = { s.care with rstBusy := false, rstRes := 0x00 } ∧
      (∀ n, u.rein n = if s.care.rstLvl = 11 ∧ n = s.care.rstIdx then { s.rein n with link := 0 } else s.rein n) ∧ u.mem = s.mem ∧
      u.k = s.k ∧ u.cx = s.cx)

/-- R396, R397: what the telemetry records sample, what a sensor reads, and what SPDM measures. Sensor 0x64 as its count above
its last number, and its value taken with the last power sample, are the model's reading (log 82). -/
def Sys2Proof.Claims.TelemetryAndMeasurement : Prop :=
  ∀ (s : State),
    let c := s.care
    let with' (i : Instr) (n : Care) : Prop := exec i s = .next { s with care := n }
    let reads (l : List (Nat × Nat)) (id v : Nat) : Prop := l.find? (fun e => decide (e.1 = id)) = some (id, v)
    (∀ temp, ∃ l, with' (.telemetryFastRecord temp) { c with fast := l } ∧
      (∀ i, i < 5 → reads l (i + 1) (c.lastPower.getD i 0 / 100)) ∧ reads l 6 c.withhold ∧ reads l 7 temp ∧
      reads l 8 ((c.asking.map (fun e => e.2.length)).sum)) ∧
    (∀ temp hbm, ∃ l, with' (.telemetryFullRecord temp hbm) { c with full := l } ∧
      reads l 1 (c.lastPower.getD 0 0 / 100) ∧ reads l 7 temp ∧ (∀ i, i < 12 → reads l (0x10 + i) (hbm.getD i 0)) ∧
      (∀ n, n < 32 → reads l (0x20 + n) (s.rein n).link ∧ reads l (0x40 + n) (s.rein n).resends) ∧
      reads l 0x60 (sget 0 c.corrected 0) ∧ reads l 0x61 (sget 0 c.corrected 1) ∧ reads l 0x62 c.noCtxErrors ∧
      reads l 0x63 c.faultedCount ∧ reads l 0x64 (c.destroyed * 1024 + c.lastDestroyed) ∧ reads l 0x65 s.br.table.length ∧
      reads l 0x66 c.activeBank ∧ reads l 0x67 (c.conf.elim 0 (·.svn)) ∧ reads l 0x68 c.discarded) ∧
    (∀ id, let all := (if id ≤ 8 then c.fast else []) ++ c.full
      with' (.sensorRead id) { c with sensorOut := all.find? (fun e => decide (e.1 = id)) }) ∧
    (∀ slot i,
      (slot ≤ 1 → 1 ≤ i → ∀ d : BitVec 384, c.measures[i - 1]? = some d → with' (.spdmMeasurements slot i)
          { c with spdmOut := some (slot, i, [d.extractLsb' 0 128, d.extractLsb' 128 128, d.extractLsb' 256 128]) }) ∧
      (1 < slot ∨ i = 0 ∨ c.measures.length < i → with' (.spdmMeasurements slot i) { c with spdmOut := none })) ∧
    (∀ ext, ∃ m, with' (.correctedError ext) { c with corrected := m } ∧
      ∀ i, sget 0 m i = if i = (if ext then 1 else 0) then min (sget 0 c.corrected i + 1) (2 ^ 32 - 1) else sget 0 c.corrected i)

/-- R129, R397, R398, R399, R400: an update writes the inactive bank and record, or nothing; activation turns to them; bring-up
applies the record marked active, or the other, and each takes the measurements anew. The model's readings are that an update
takes them too (log 42), and that with no bank active it writes bank A (log 81). -/
def Sys2Proof.Claims.UpdateAndBringUp : Prop :=
  ∀ (s : State),
    let c := s.care
    let valid (b : BitVec 2048) (r : ConfigRec) : Prop := readConfig c.counter b = some r
    let kept (n : Care) (b : Nat) : List (BitVec 128) := if b = 1 then n.keptA else if b = 2 then n.keptB else []
    let taken (n : Care) : Prop := n.measures.length = 5 ∧ n.measures[1]? = some (Config.measure 2 (kept n n.activeBank)) ∧
      n.measures[2]? = some (Config.measure 3 (kept n (if n.activeBank = 1 then 2 else 1))) ∧
      n.measures[3]? = some (Config.measure 4 ((List.range 16).map (fun k => (sget 0 n.flash n.active).extractLsb' (128 * k) 128)))
    (∀ (b : BitVec 2048) r, valid b r →
      let f := part b.toNat
      f 0 16 = 0xCA3E ∧ f 16 16 = 1 ∧ f 115 1933 = 0 ∧ f 68 2 = 0 ∧ f 46 2 = 0 ∧ r.plim = f 32 12 ∧ 100 ≤ r.plim ∧ r.plim ≤ 2600 ∧
      r.bank = f 44 2 ∧ r.bank ≤ 2 ∧ r.lvmax = f 48 8 ∧ 1 ≤ r.lvmax ∧ r.lvmax ≤ 96 ∧ r.lvnear = f 56 8 ∧ 1 ≤ r.lvnear ∧ r.lvnear ≤ r.lvmax ∧
      r.l2u = f 64 4 ∧ 2 ≤ r.l2u ∧ r.l2u ≤ 8 ∧ r.devno = f 70 10 ∧ r.svn = f 80 32 ∧ c.counter ≤ r.svn ∧ r.dsplit = f 112 3 ∧
      r.dsplit ≤ 4) ∧
    (∀ u : Update,
      let bundle : Prop := ∀ b, u.bundle = some b → u.bundleSigned = true ∧ b.length ≤ 256 ∧
        ((b.filter (fun e => e.getLsbD 108)).map (fun e => e.extractLsb' 96 12)).Nodup
      let record : Prop := ∀ r, u.record = some r → u.recordSigned = true ∧ ∃ x, valid r x
      (¬ (bundle ∧ record) → exec (.firmwareTransfer u) s = .next s) ∧
      (bundle → record → ∃ n : Care, exec (.firmwareTransfer u) s = .next { s with care := n } ∧
        (∀ r, u.record = some r → sget 0 n.flash (1 - c.active) = r) ∧ (u.record = none → n.flash = c.flash) ∧
        (c.active ≤ 1 → sget 0 n.flash c.active = sget 0 c.flash c.active) ∧ n.active = c.active ∧ taken n ∧
        (∀ b, u.bundle = some b → if c.activeBank = 1 then n.bankB = b ∧ n.keptB = b else n.bankA = b ∧ n.keptA = b) ∧
        (u.bundle = none ∨ c.activeBank = 1 → n.bankA = c.bankA ∧ n.keptA = c.keptA) ∧
        (u.bundle = none ∨ c.activeBank ≠ 1 → n.bankB = c.bankB ∧ n.keptB = c.keptB) ∧
        n.marked = c.marked ∧ n.counter = c.counter ∧ n.conf = c.conf ∧ n.activeBank = c.activeBank)) ∧
    ((∀ r, ¬ valid (sget 0 c.flash (1 - c.active)) r) → exec .activateFirmware s = .next s) ∧
    (∀ r, valid (sget 0 c.flash (1 - c.active)) r → ∃ n : Care, exec .activateFirmware s = .next { s with care := n } ∧
      n = { c with
        marked := 1 - c.active, active := 1 - c.active, counter := max c.counter r.svn
        pending := if c.up then some r else c.pending, activeBank := if c.up then r.bank else c.activeBank
        measures := n.measures } ∧
      (c.up = true → taken n) ∧ (c.up = false → n.measures = c.measures)) ∧
    (c.up = true → exec .bringUp s = .next s) ∧
    (c.up = false →
      ((∀ r, ¬ valid (sget 0 c.flash c.marked) r) → (∀ r, ¬ valid (sget 0 c.flash (1 - c.marked)) r) →
        ∃ n : Care, exec .bringUp s = .next { s with care := n } ∧ n = { c with activeBank := 0, measures := n.measures } ∧
          taken n) ∧
      (∀ r, valid (sget 0 c.flash c.marked) r ∨
          ((∀ x, ¬ valid (sget 0 c.flash c.marked) x) ∧ valid (sget 0 c.flash (1 - c.marked)) r) →
        ∃ u, exec .bringUp s = .next u ∧ u.care.conf = some r ∧ u.care.up = true ∧ u.care.activeBank = r.bank ∧
          valid (sget 0 c.flash u.care.active) r ∧ taken u.care ∧ (r.bank = 1 → u.care.bankA = c.keptA) ∧
          (r.bank = 2 → u.care.bankB = c.keptB) ∧ u.care.keptA = c.keptA ∧ u.care.keptB = c.keptB ∧
          (∀ d, d < 4 → sget 6 u.care.l2u d = r.l2u ∧ sget 0 u.q.bankUsed d = r.bank) ∧
          (∀ k, k < 384 → (u.core k).split = r.dsplit) ∧ (∀ n, n < 32 → (u.rein n).link = 0) ∧ u.mem = s.mem ∧ u.cx = s.cx))

/-- Telemetry, SPDM, firmware update, activation and bring-up: TelemetryAndMeasurement and UpdateAndBringUp. -/
def Obligations.TelemetryAndUpdate : Prop :=
  TelemetryAndMeasurement ∧ UpdateAndBringUp

/-- R20, R401: DMSPLIT refuses a split outside 2 to 8 and a die in use, and else writes back the die's dirty host lines and takes the
split when it completes. That a write while one is in progress is ignored (log 79), and that nothing is tested again at the
completion (log 138), are the model's readings. -/
def Sys2Proof.Claims.DieMemorySplit : Prop :=
  ∀ (s : State) (v : Word),
    let die := part v.toNat 26 2
    let l2u := part v.toNat 0 4
    let formed : Prop := 2 ≤ l2u ∧ l2u ≤ 8
    let said (r : BitVec 8) : Out := .next { s with care := { s.care with dmDie := die, dmL2u := l2u, dmRes := r } }
    (s.care.dmBusy = true → exec (.dmsplitWrite v) s = .next s) ∧
    (s.care.dmBusy = false →
      (¬ formed → exec (.dmsplitWrite v) s = said 0x01) ∧
      (formed → dieInUse s die = true → exec (.dmsplitWrite v) s = said 0x02) ∧
      (formed → dieInUse s die = false → ∃ u, exec (.dmsplitWrite v) s = .next u ∧ u.care.dmBusy = true ∧ u.care.dmDie = die ∧
        u.care.dmL2u = l2u ∧ u.care.l2u = s.care.l2u ∧ (∀ a, u.mem.hostByte a = s.mem.hostByte a) ∧
        (∀ x, homeDie { sp := .host, a := 64 * x } = die → mget u.mem.dirtyCtx x = none) ∧ u.mem.phys = s.mem.phys ∧ u.k = s.k)) ∧
    (∀ id g, s.group? id = some g → g.outrider = none → g.saved = false → g.status ≠ .ended → g.core / 96 = die →
      dieInUse s die = true) ∧
    (s.care.dmBusy = false → exec .dmsplitComplete s = .next s) ∧
    (s.care.dmBusy = true → ∃ u, exec .dmsplitComplete s = .next u ∧ u.care.dmBusy = false ∧ u.care.dmRes = 0x00 ∧
      (∀ d, sget 6 u.care.l2u d = if d = s.care.dmDie then s.care.dmL2u else sget 6 s.care.l2u d) ∧ u = { s with care := u.care })

/-- Leave, the power limiter, and DMSPLIT: LeaveAndPower and DieMemorySplit. -/
def Obligations.LeavePowerAndSplit : Prop :=
  LeaveAndPower ∧ DieMemorySplit

/-- R2, R5, R7, R98, R110, R120, R226, R362, R403: the host reads and writes its own memory and what is backed of the device's, and
clears the record tags it writes over; a register reads as what it holds, a write-only one as 0. The model's choices are that an
address that is not backed stops the access (log 99), and under which key the host reads (log 6). -/
def Obligations.HostAccesses : Prop :=
  ∀ (s : State) (c : Option Nat) (a n : Nat) (bs : List Byte),
    let key := c.elim plainKey (fun k => (s.ctx k).key)
    let rest (u : State) : Prop := u.cx = s.cx ∧ u.k = s.k ∧ u.q.pkts = s.q.pkts ∧ u.reins = s.reins ∧
      ∀ m, u.queue m = { s.queue m with waitPark := (u.queue m).waitPark }
    let reads (o v : Nat) : Prop := ∃ u, exec (.hostPortAccess (.readReg o)) s = .next u ∧
      u = { s with care := { s.care with hostRead := u.care.hostRead } } ∧ natOfBytes u.care.hostRead = v % 2 ^ 64
    (∃ u, exec (.hostPortAccess (.writeHost a bs)) s = .next u ∧ rest u ∧ u.mem.phys = s.mem.phys ∧ u.care = s.care ∧
      (∀ i, Memory.byte u.mem.host i = if a ≤ i ∧ i < a + bs.length then bs.getD (i - a) 0 else Memory.byte s.mem.host i) ∧
      (∀ i, i < bs.length → tagOf u { sp := .host, a := a + i } = false)) ∧
    (∃ u, exec (.hostPortAccess (.readHost a n)) s = .next u ∧ rest u ∧ u.mem.phys = s.mem.phys ∧
      u.care.hostRead = (List.range n).map (fun i => Memory.byte u.mem.host (a + i)) ∧
      (∀ i, u.mem.hostByte i = s.mem.hostByte i) ∧
      (∀ i, Memory.byte u.mem.host i = Memory.byte s.mem.host i ∨ Memory.byte u.mem.host i = s.mem.hostByte i)) ∧
    ((∀ i, i < bs.length → backed (a + i) = true) →
      ∃ u, exec (.hostPortAccess (.writeDev c a bs)) s = .next u ∧ rest u ∧ u.mem.host = s.mem.host ∧ u.care = s.care ∧
        (∀ i, u.mem.physByte key i = if a ≤ i ∧ i < a + bs.length then bs.getD (i - a) 0 else s.mem.physByte key i) ∧
        (∀ i, i < bs.length → tagOf u { sp := .phys, a := a + i } = false)) ∧
    ((∀ i, i < n → backed (a + i) = true) →
      exec (.hostPortAccess (.readDev c a n)) s =
        .next { s with care := { s.care with hostRead := (List.range n).map (fun i => s.mem.physByte key (a + i)) } }) ∧
    ((∃ i, i < bs.length ∧ backed (a + i) = false) → exec (.hostPortAccess (.writeDev c a bs)) s = .fault .unbackedAddress) ∧
    ((∃ i, i < n ∧ backed (a + i) = false) → exec (.hostPortAccess (.readDev c a n)) s = .fault .unbackedAddress) ∧
    reads 0x100000 s.cx.sel ∧ reads 0x100004 0 ∧ reads 0x10000C s.cx.need.toNat ∧ reads 0x100010 s.cx.desc.toNat ∧
    (∀ i, i < 16 → reads (0x100040 + 4 * i) 0) ∧
    (∃ v, reads 0x100008 v ∧
      let x := s.ctx s.cx.sel
      part v 0 8 = s.cx.result.toNat ∧ part v 8 8 = x.why.toNat ∧ part v 16 11 = 0 ∧ part v 27 1 = (if x.keyed then 1 else 0) ∧
        part v 28 3 = x.st % 8 ∧ part v 31 1 = if s.cx.busy then 1 else 0) ∧
    (∀ m, m < 256 →
      let q := s.queue m
      let o := 0x200000 + 64 * m
      reads o q.base.toNat ∧ reads (o + 0x0C) q.tail.toNat ∧ reads (o + 0x10) q.head.toNat ∧ reads (o + 0x18) q.cbase.toNat ∧
        reads (o + 0x20) (q.clg % 32) ∧ reads (o + 0x24) q.chead.toNat ∧ reads (o + 0x28) q.ctail.toNat ∧
        ∃ v, reads (o + 0x14) v ∧ part v 30 2 = q.st % 4 ∧ part v 0 30 = q.halt.toNat) ∧
    (∀ m sl, m < 32 → sl < 8 →
      let x := s.slot m sl
      let i := sget 0 (s.rein m).selIdx sl
      let o := 0x500000 + 0x1000 * m + 0x80 * sl
      reads o (if x.step then 4 else 0) ∧ reads (o + 0x08) i ∧
        reads (o + 0x10) (if i < 32 then (sget 0 x.G i).toNat else if i < 48 then (sget 0 x.chan (i - 32)).toNat else 0) ∧
        ∃ v, reads (o + 0x04) v ∧ part v 0 11 = x.pc % 2 ^ 11 ∧ part v 15 5 = x.flags.toNat ∧ part v 20 8 = x.cause.toNat ∧
          part v 28 4 = x.st % 16)

/-! Decoding, steps and the whole machine. -/

/-- R69-R73, R78, R378, R379: the words of a well-formed instruction decode to it, whatever follows them. -/
def Obligations.DecodeAfterEncode : Prop :=
  ∀ (i : Instr) (rest : List Word), wellFormed i = true → encode i ≠ [] →
    (reinInstr i = false → decodeClause (encode i ++ rest) = .ok i) ∧
    (reinInstr i = true → decodeReinWords (encode i ++ rest) = some i)

/-- R69-R73, R78, R378, R379: words that decode are the words of the instruction they give, which is well formed; no bit is dropped. -/
def Obligations.EncodeAfterDecode : Prop :=
  (∀ (w : Word) (i : Instr), decodeClause [w] = .ok i → wellFormed i = true ∧ reinInstr i = false ∧ encode i = [w]) ∧
  (∀ (w e : Word) (rest : List Word) (i : Instr), decodeClause (w :: e :: rest) = .ok i →
    wellFormed i = true ∧ reinInstr i = false ∧ encode i = if extWords w = 0 then [w] else [w, e]) ∧
  (∀ (w e : Word) (rest : List Word) (i : Instr), decodeReinWords (w :: e :: rest) = some i →
    wellFormed i = true ∧ reinInstr i = true ∧ encode i = if reinExt w then [w, e] else [w])

/-- R61, R67: a header word and its fields; a word that breaks the format of a header is none. -/
def Sys2Proof.Claims.HeadersDecode : Prop :=
  (∀ h : Header, h.seta.toNat ∉ [0xC, 0xD, 0xE] → h.setb.toNat ∉ [0xC, 0xD, 0xE] →
    (encodeHeader h).toNat = h.len.toNat * 2 ^ 28 + h.wait.toNat * 2 ^ 16 + h.seta.toNat * 2 ^ 12 + h.setb.toNat * 2 ^ 8 +
      (if h.yld then 2 ^ 7 else 0) ∧
    decodeHeader (encodeHeader h) = some h) ∧
  (∀ (w : Word) (h : Header), decodeHeader w = some h → encodeHeader h = w) ∧
  (∀ w : Word, part w.toNat 0 7 ≠ 0 ∨ part w.toNat 12 4 ∈ [0xC, 0xD, 0xE] ∨ part w.toNat 8 4 ∈ [0xC, 0xD, 0xE] → decodeHeader w = none)

/-- Words written out in the manual's tables of R168, R206, R216, R217 and its programs, with what they stand for. -/
def Sys2Proof.Claims.WrittenWordsDecode : Prop :=
  (∀ e ∈ [([0x40880000], Instr.vlane 0x20), ([0x200000F0], .smovi 0 0xF0), ([0x0A004001], .mfroms 1 0 1),
      ([0xA3020005], .brv 0 1 5), ([0x61428064], .vaddVri 0x21 0x20 100),
      ([0x4C2E10A2, 0x02000023], .ffma 0 0x38 0x21 0x22 { rnd := 1, swzC := 0, swzB := 0, swzA := 0, codeC := 0x23 }),
      ([0x59091010], .red 0x24 0x20 2 0 none), ([0x6E5C80A1], .topki 0x2E 0x20 1 0x21),
      ([0x9534A2C0, 0], .ldb { k := 3, data := 0x25, index := 11, mod := 0, ord := 0, pol := 0, off := 0 }),
      ([0xC0490300, 0x001FD185], .mloop false 2 4 6 { anchor := 254, anc := true, two := false, planes := 3, kb := 5 }),
      ([0xC440058A], .bndFork 11 10), ([0xC940800A, 0x40000000], .sigWait 2 10 4 0)],
    decodeClause e.1 = .ok e.2) ∧
  (∀ e ∈ [([0x08000004], Instr.chunk 4), ([0x41800000], .waits 6 0 0), ([0x690A2400, 0x02000008], .foldf 4 5 1 2 0 2 8)],
    decodeReinWords e.1 = some e.2)

/-- Header words, and words written out in the manual, decode to what they stand for: HeadersDecode and
WrittenWordsDecode. -/
def Obligations.HeadersAndWordsDecode : Prop :=
  HeadersDecode ∧ WrittenWordsDecode

/-- The outcome of a word that group `id` issues: unless the word has stalled the group's age is 0, it is promoted no more, and its
pipe goes on with it in the next slot. -/
def Sys2Proof.Claims.issued (id : Nat) : Out → Out
  | .next t => .next (match t.group? id with
    | some y =>
      match y.status with
      | .stalled _ => t
      | _ =>
        if y.outrider.isSome then t
        else
          let u := t.setGroup id { y with age := 0, waited := 0 }
          u.setCore y.core { (u.core y.core) with prev := sset 0 (u.core y.core).prev y.pipe (id + 1) }
    | none => t)
  | o => o

/-- R60, R66, R78, R79, R170, R172, R366, R392: the turn of a pipe whose chosen group is within its clause runs the instruction that the
words at its program counter decode to, or raises the cause of words that are none or that the group may not execute; a group
at a boundary starts its clause and issues the first word in the same slot; with its word the group's age is 0 and it is promoted
no more, unless the word stalls; a slot of the pipe adds one to the age of each of its groups; a slot that the limiter withholds
issues nothing; the first word after a retried fetch is read by a fresh walk (R258); the sequencer of a rein runs the word it turns to; an event of the table happens as it is named. That every agent
takes turns of the agenda is the model's choice (logs 1, 12). -/
def Obligations.StepsRunTheDecodedInstruction : Prop :=
  (∀ (s : State) (co p id : Nat) (x g : Group),
    let n := (nextTurn s).2
    let t := countSlot n co p
    let p' := passSlot t co p (some id)
    let v : State := { (if x.status = .boundary then startPicked id p' else p') with cur := id }
    let h : Group := { g with afresh := false }
    let runs (i : Instr) : Out :=
      let u := noteTlb v g.cx (codeChunks v g g.pc (encode i).length).good
      issued id (exec i (if g.afresh then u.setGroup id h else u))
    (nextTurn s).1 = .pipe co p → (withheld n co p = true → step s = .next (passSlot t co p none)) ∧
    (withheld n co p = false → chosen t co p = none → step s = .next (passSlot t co p none)) ∧
    (withheld n co p = false → chosen t co p = some (id, x) → x.status = .boundary →
      (∀ y, (startPicked id (passSlot t co p (some id))).group? id = some y → y.status ≠ .issuing) →
      step s = .next (startPicked id (passSlot t co p (some id)))) ∧
    (withheld n co p = false → chosen t co p = some (id, x) → v.group? id = some g → g.status = .issuing → g.outrider = none →
    parkDue v id g = none →
    (∀ w i, codeWords v g g.pc 1 = .ok [w] → extWords w = 0 → decodeClause [w] = .ok i → barred g i = true →
      step s = issued id (traps v h cIllegalEncoding)) ∧
    (∀ w i, codeWords v g g.pc 1 = .ok [w] → extWords w = 0 → decodeClause [w] = .ok i → barred g i = false → g.sfq = [] → mustWaitReports v id g = false →
      step s = runs i) ∧
    (∀ w e i, codeWords v g g.pc 1 = .ok [w] → extWords w ≠ 0 → g.pc + 8 ≤ g.cend → codeWords v g g.pc 2 = .ok [w, e] →
      decodeClause [w, e] = .ok i → barred g i = false → g.sfq = [] → mustWaitReports v id g = false →
      step s = runs i) ∧
    (∀ w, codeWords v g g.pc 1 = .ok [w] → extWords w = 0 → decodeClause [w] = .error .encoding → step s = issued id (traps v h cIllegalEncoding)) ∧
    (∀ w, codeWords v g g.pc 1 = .ok [w] → extWords w ≠ 0 → g.cend < g.pc + 8 → decodeClause [w] = .error .clause →
      (∀ i, decodeSimt w 0 = some i → barred g i = false) → step s = issued id (traps v h cIllegalClause)))) ∧
  (∀ (s : State) (n sl : Nat) (i : Instr),
    let t := (nextTurn s).2
    (nextTurn s).1 = .rein n → reinNext t n = some (sl, some i) → step s = exec i (reinFocus t n sl)) ∧
  (∀ (s : State) (i : Instr),
    let t := (nextTurn s).2
    (nextTurn s).1 = .event i → encode i = [] → (hostRow i = false ∨ t.care.up = true) → step s = exec i t) ∧
  (∀ (s : State) (co p i : Nat) (who : Option Nat) (x : Group), s.group? i = some x → x.core = co → x.pipe = p → x.outrider = none →
    (passSlot s co p who).group? i = some { x with age := x.age + 1, waited :=
      if 256 < x.waited then x.waited else if who = some i ∨ canIssue s x = false then 0 else x.waited + 1 }) ∧
  (∀ (s : State) (a : Turn) (r : List Turn), s.agenda = a :: r → (nextTurn s).1 = a ∧
    (nextTurn s).2 = { s with agenda := r, cycle := s.cycle + 1, tick := s.tick + 1 })

/-- R79, R159: the causes of an instruction's operands in their order: a butterfly beyond the width, a register outside the window,
a register or queue entry pending in a lane of a slice not returned; an instruction whose operands raise one takes it and does
nothing else. Which lanes of a source count as pending (log 22), and that a run of registers past the last code is outside the
window (log 24), are the model's readings. -/
def Obligations.OperandChecks : Prop :=
  (∀ (s : State) (id : Nat) (g : Group) (u : Uses),
    let far : Prop := ∃ r ∈ u.vr, r.2.toNat / 16 = 2 ∧ g.width ≤ 2 ^ (r.2.toNat % 16)
    let out (c : Nat) : Prop := 0x10 ≤ c ∧ (0x7F < c ∨ g.nregs ≤ g.bv + (c - 0x10))
    let passes : Prop := (∃ r ∈ u.vr, out r.1) ∨ ∃ c ∈ u.vw, out c
    let awaited (d n : Nat) (lanes : Nat → Prop) : Prop := ∃ e ∈ s.mem.ops, e.2.gid = id ∧ e.2.kind.dest = d ∧ e.2.toReg = true ∧
      e.2.dst ≤ n ∧ n < e.2.dst + e.2.ndst ∧
      (d = 1 → ∃ l, l < 64 ∧ lanes l ∧ e.2.exm.getLsbD l = true ∧ e.2.fin.getLsbD l = false)
    let busy : Prop :=
      (∃ r ∈ u.vr, r.1 < 0x10 ∧ ∃ l ∈ srcLanes g u.all r.2, g.sliceGone l = false ∧ (g.qentry r.1 l).pend ≠ none) ∨
      (∃ r ∈ u.vr, 0x10 ≤ r.1 ∧ awaited 1 (g.bv + (r.1 - 0x10)) (fun l => l ∈ srcLanes g u.all r.2 ∧ g.sliceGone l = false)) ∨
      (∃ c ∈ u.vw, 0x10 ≤ c ∧ awaited 1 (g.bv + (c - 0x10)) (fun l => g.exm.getLsbD l = true)) ∨
      (∃ c ∈ u.sc, awaited 2 (g.bs + c) (fun _ => True)) ∨ (∃ m ∈ u.msk, awaited 3 m.toNat (fun _ => True)) ∨
      (∃ k ∈ u.kr, awaited 4 k.toNat (fun _ => True))
    (far → checkUses s id g u = some cIllegalEncoding) ∧ (¬ far → passes → checkUses s id g u = some cWindowRange) ∧
    (¬ far → ¬ passes → busy → checkUses s id g u = some cOperandPending) ∧
    (¬ far → ¬ passes → ¬ busy → checkUses s id g u = none)) ∧
  (∀ (s : State) (g : Group) (c : Cause) (d a b : BitVec 7) (lit : Option Word) (m : Option Mod) (x : Mod) (w : MemWord),
    s.group? s.cur = some g →
    (checkUses s s.cur g (scalars d a b lit) = some c → exec (.sadd d a b lit) s = traps s g c) ∧
    (checkUses s s.cur g (vuses d [(a, (modOf m).swzA), (b, (modOf m).swzB)]) = some c → exec (.vadd d a b m) s = traps s g c) ∧
    (checkUses s s.cur g (vuses d [(a, x.swzA), (b, x.swzB), (x.codeC, x.swzC)]) = some c → exec (.vmad d a b x) s = traps s g c) ∧
    (checkUses s s.cur g (ldForm w).uses = some c → exec (.ld w) s = traps s g c))

/-- Every row of the table takes a next state, but for a host's access to an address that R403 calls unbacked; so does every step. -/
def Obligations.NothingElseStops : Prop :=
  (∀ (i : Instr) (s : State), (∃ t, exec i s = .next t) ∨
    ((∃ h, i = .hostPortAccess h) ∧ exec i s = .fault .unbackedAddress)) ∧
  (∀ s : State, (∃ t, step s = .next t) ∨ step s = .fault .unbackedAddress)

/-- The canonical form of every byte storage is kept by every step, which goes on or stops at an address that stands for no
memory. The form is the model's own (State.lean), no rule of the manual. -/
def Obligations.StepsKeepMemoryCanonical : Prop :=
  (∀ s t : State, MemoryCanonical s → step s = .next t → MemoryCanonical t) ∧ ∀ s : State, MemoryCanonical s → SafeStep s

/-- R6, R20, R98, R110, R248, R256, R319, R394, R400, R401: registers and states after a package reset, as the manual gives their
reset values; the memory of State.reset has the canonical form. What an unlisted byte reads as is the model's choice
(notes/assumptions/4.md). -/
def Obligations.StateAtReset : Prop :=
  let s := State.reset
  MemoryCanonical s ∧
  (∀ c, s.ctx c = Context.free ∧ (s.ctx c).st = 0 ∧ (s.ctx c).keyed = false) ∧
  (s.cx.sel = 0 ∧ s.cxstat = 0 ∧ s.cx.need = 0 ∧ s.cx.desc = 0 ∧ s.cx.staging = 0) ∧
  (∀ q, let x := s.queue q
    x.en = false ∧ x.st = 0 ∧ x.halt = 0 ∧ x.lg = 4 ∧ x.clg = 4 ∧ x.head = 0 ∧ x.tail = 0 ∧ x.chead = 0 ∧ x.ctail = 0 ∧ x.base = 0 ∧
      x.cbase = 0 ∧ x.cls = 0 ∧ x.die = 0 ∧ x.cx = 0) ∧
  (s.fq.en = false ∧ s.fq.lg = 4 ∧ s.fq.tail = 0 ∧ s.fq.head = 0 ∧ s.fq.base = 0 ∧ s.fq.iv = 0) ∧
  (s.care.trbase = 0 ∧ s.care.trlim = 0 ∧ s.care.rstBusy = false ∧ s.care.rstRes = 0 ∧ s.care.dmBusy = false ∧ s.care.dmRes = 0 ∧
    (∀ d, sget 6 s.care.l2u d = 6) ∧ s.care.up = false) ∧
  s.k.groups = [] ∧ s.k.blocks = [] ∧ s.mem.ops = [] ∧ s.mem.stores = [] ∧ s.br.table = [] ∧
  (∀ n, (s.rein n).link = 1 ∧ (s.rein n).slots = []) ∧ core.reset = s ∧ core.step = step
end

