-- ==== Sys2Proof/Laws/Encode.lean ====
section
/-! SUPPORT. The fields of the word formats, and what an encoding's first word says of its length. -/
namespace Sys2Proof

@[simp] theorem word3_t (t : BitVec 3) (op : BitVec 7) (x : BitVec 1) (d : BitVec 7) (a : BitVec 7) (b : BitVec 7) : fld (word3 t op x d a b) 29 3 = t := by
  unfold fld word3
  rw [BitVec.extractLsb'_append_eq_of_le (by decide), BitVec.extractLsb'_append_eq_of_le (by decide), BitVec.extractLsb'_append_eq_of_le (by decide), BitVec.extractLsb'_append_eq_of_le (by decide), BitVec.extractLsb'_append_eq_of_le (by decide)]; simp
@[simp] theorem word3_op (t : BitVec 3) (op : BitVec 7) (x : BitVec 1) (d : BitVec 7) (a : BitVec 7) (b : BitVec 7) : fld (word3 t op x d a b) 22 7 = op := by
  unfold fld word3
  rw [BitVec.extractLsb'_append_eq_of_le (by decide), BitVec.extractLsb'_append_eq_of_le (by decide), BitVec.extractLsb'_append_eq_of_le (by decide), BitVec.extractLsb'_append_eq_of_le (by decide), BitVec.extractLsb'_append_eq_of_add_le (by decide)]; simp
@[simp] theorem word3_x (t : BitVec 3) (op : BitVec 7) (x : BitVec 1) (d : BitVec 7) (a : BitVec 7) (b : BitVec 7) : fld (word3 t op x d a b) 21 1 = x := by
  unfold fld word3
  rw [BitVec.extractLsb'_append_eq_of_le (by decide), BitVec.extractLsb'_append_eq_of_le (by decide), BitVec.extractLsb'_append_eq_of_le (by decide), BitVec.extractLsb'_append_eq_of_add_le (by decide)]; simp
@[simp] theorem word3_flag (t : BitVec 3) (op : BitVec 7) (x : BitVec 1) (d a b : BitVec 7) : flag (word3 t op x d a b) 21 = x.getLsbD 0 := by
  unfold flag word3
  repeat rw [BitVec.getLsbD_append]
  simp
@[simp] theorem word3_bit (t : BitVec 3) (op : BitVec 7) (x : BitVec 1) (d a b : BitVec 7) : (word3 t op x d a b)[21] = x.getLsbD 0 :=
  (BitVec.getLsbD_eq_getElem (by decide)).symm.trans (word3_flag t op x d a b)
@[simp] theorem word3_d (t : BitVec 3) (op : BitVec 7) (x : BitVec 1) (d : BitVec 7) (a : BitVec 7) (b : BitVec 7) : fld (word3 t op x d a b) 14 7 = d := by
  unfold fld word3
  rw [BitVec.extractLsb'_append_eq_of_le (by decide), BitVec.extractLsb'_append_eq_of_le (by decide), BitVec.extractLsb'_append_eq_of_add_le (by decide)]; simp
@[simp] theorem word3_a (t : BitVec 3) (op : BitVec 7) (x : BitVec 1) (d : BitVec 7) (a : BitVec 7) (b : BitVec 7) : fld (word3 t op x d a b) 7 7 = a := by
  unfold fld word3
  rw [BitVec.extractLsb'_append_eq_of_le (by decide), BitVec.extractLsb'_append_eq_of_add_le (by decide)]; simp
@[simp] theorem word3_b (t : BitVec 3) (op : BitVec 7) (x : BitVec 1) (d : BitVec 7) (a : BitVec 7) (b : BitVec 7) : fld (word3 t op x d a b) 0 7 = b := by
  unfold fld word3
  rw [BitVec.extractLsb'_append_eq_of_add_le (by decide)]; simp
@[simp] theorem wordI_t (t : BitVec 3) (op : BitVec 5) (r : BitVec 7) (i : BitVec 17) : fld (wordI t op r i) 29 3 = t := by
  unfold fld wordI
  rw [BitVec.extractLsb'_append_eq_of_le (by decide), BitVec.extractLsb'_append_eq_of_le (by decide), BitVec.extractLsb'_append_eq_of_le (by decide)]; simp
@[simp] theorem wordI_op (t : BitVec 3) (op : BitVec 5) (r : BitVec 7) (i : BitVec 17) : fld (wordI t op r i) 24 5 = op := by
  unfold fld wordI
  rw [BitVec.extractLsb'_append_eq_of_le (by decide), BitVec.extractLsb'_append_eq_of_le (by decide), BitVec.extractLsb'_append_eq_of_add_le (by decide)]; simp
@[simp] theorem wordI_r (t : BitVec 3) (op : BitVec 5) (r : BitVec 7) (i : BitVec 17) : fld (wordI t op r i) 17 7 = r := by
  unfold fld wordI
  rw [BitVec.extractLsb'_append_eq_of_le (by decide), BitVec.extractLsb'_append_eq_of_add_le (by decide)]; simp
@[simp] theorem wordI_i (t : BitVec 3) (op : BitVec 5) (r : BitVec 7) (i : BitVec 17) : fld (wordI t op r i) 0 17 = i := by
  unfold fld wordI
  rw [BitVec.extractLsb'_append_eq_of_add_le (by decide)]; simp
@[simp] theorem wordA_t (t : BitVec 3) (op : BitVec 5) (d : BitVec 7) (a : BitVec 7) (i : BitVec 10) : fld (wordA t op d a i) 29 3 = t := by
  unfold fld wordA
  rw [BitVec.extractLsb'_append_eq_of_le (by decide), BitVec.extractLsb'_append_eq_of_le (by decide), BitVec.extractLsb'_append_eq_of_le (by decide), BitVec.extractLsb'_append_eq_of_le (by decide)]; simp
@[simp] theorem wordA_op (t : BitVec 3) (op : BitVec 5) (d : BitVec 7) (a : BitVec 7) (i : BitVec 10) : fld (wordA t op d a i) 24 5 = op := by
  unfold fld wordA
  rw [BitVec.extractLsb'_append_eq_of_le (by decide), BitVec.extractLsb'_append_eq_of_le (by decide), BitVec.extractLsb'_append_eq_of_le (by decide), BitVec.extractLsb'_append_eq_of_add_le (by decide)]; simp
@[simp] theorem wordA_d (t : BitVec 3) (op : BitVec 5) (d : BitVec 7) (a : BitVec 7) (i : BitVec 10) : fld (wordA t op d a i) 17 7 = d := by
  unfold fld wordA
  rw [BitVec.extractLsb'_append_eq_of_le (by decide), BitVec.extractLsb'_append_eq_of_le (by decide), BitVec.extractLsb'_append_eq_of_add_le (by decide)]; simp
@[simp] theorem wordA_a (t : BitVec 3) (op : BitVec 5) (d : BitVec 7) (a : BitVec 7) (i : BitVec 10) : fld (wordA t op d a i) 10 7 = a := by
  unfold fld wordA
  rw [BitVec.extractLsb'_append_eq_of_le (by decide), BitVec.extractLsb'_append_eq_of_add_le (by decide)]; simp
@[simp] theorem wordA_i (t : BitVec 3) (op : BitVec 5) (d : BitVec 7) (a : BitVec 7) (i : BitVec 10) : fld (wordA t op d a i) 0 10 = i := by
  unfold fld wordA
  rw [BitVec.extractLsb'_append_eq_of_add_le (by decide)]; simp
@[simp] theorem wordM_t (op : BitVec 5) (k : BitVec 4) (data : BitVec 7) (index : BitVec 7) (mod : BitVec 6) : fld (wordM op k data index mod) 29 3 = 4 := by
  unfold fld wordM
  rw [BitVec.extractLsb'_append_eq_of_le (by decide), BitVec.extractLsb'_append_eq_of_le (by decide), BitVec.extractLsb'_append_eq_of_le (by decide), BitVec.extractLsb'_append_eq_of_le (by decide), BitVec.extractLsb'_append_eq_of_le (by decide)]; simp
@[simp] theorem wordM_op (op : BitVec 5) (k : BitVec 4) (data : BitVec 7) (index : BitVec 7) (mod : BitVec 6) : fld (wordM op k data index mod) 24 5 = op := by
  unfold fld wordM
  rw [BitVec.extractLsb'_append_eq_of_le (by decide), BitVec.extractLsb'_append_eq_of_le (by decide), BitVec.extractLsb'_append_eq_of_le (by decide), BitVec.extractLsb'_append_eq_of_le (by decide), BitVec.extractLsb'_append_eq_of_add_le (by decide)]; simp
@[simp] theorem wordM_k (op : BitVec 5) (k : BitVec 4) (data : BitVec 7) (index : BitVec 7) (mod : BitVec 6) : fld (wordM op k data index mod) 20 4 = k := by
  unfold fld wordM
  rw [BitVec.extractLsb'_append_eq_of_le (by decide), BitVec.extractLsb'_append_eq_of_le (by decide), BitVec.extractLsb'_append_eq_of_le (by decide), BitVec.extractLsb'_append_eq_of_add_le (by decide)]; simp
@[simp] theorem wordM_data (op : BitVec 5) (k : BitVec 4) (data : BitVec 7) (index : BitVec 7) (mod : BitVec 6) : fld (wordM op k data index mod) 13 7 = data := by
  unfold fld wordM
  rw [BitVec.extractLsb'_append_eq_of_le (by decide), BitVec.extractLsb'_append_eq_of_le (by decide), BitVec.extractLsb'_append_eq_of_add_le (by decide)]; simp
@[simp] theorem wordM_index (op : BitVec 5) (k : BitVec 4) (data : BitVec 7) (index : BitVec 7) (mod : BitVec 6) : fld (wordM op k data index mod) 6 7 = index := by
  unfold fld wordM
  rw [BitVec.extractLsb'_append_eq_of_le (by decide), BitVec.extractLsb'_append_eq_of_add_le (by decide)]; simp
@[simp] theorem wordM_mod (op : BitVec 5) (k : BitVec 4) (data : BitVec 7) (index : BitVec 7) (mod : BitVec 6) : fld (wordM op k data index mod) 0 6 = mod := by
  unfold fld wordM
  rw [BitVec.extractLsb'_append_eq_of_add_le (by decide)]; simp
@[simp] theorem wordE_t (op : BitVec 7) (x : BitVec 1) (z : BitVec 3) (k : BitVec 4) (s : BitVec 7) (t : BitVec 7) : fld (wordE op x z k s t) 29 3 = 6 := by
  unfold fld wordE
  rw [BitVec.extractLsb'_append_eq_of_le (by decide), BitVec.extractLsb'_append_eq_of_le (by decide), BitVec.extractLsb'_append_eq_of_le (by decide), BitVec.extractLsb'_append_eq_of_le (by decide), BitVec.extractLsb'_append_eq_of_le (by decide), BitVec.extractLsb'_append_eq_of_le (by decide)]; simp
@[simp] theorem wordE_op (op : BitVec 7) (x : BitVec 1) (z : BitVec 3) (k : BitVec 4) (s : BitVec 7) (t : BitVec 7) : fld (wordE op x z k s t) 22 7 = op := by
  unfold fld wordE
  rw [BitVec.extractLsb'_append_eq_of_le (by decide), BitVec.extractLsb'_append_eq_of_le (by decide), BitVec.extractLsb'_append_eq_of_le (by decide), BitVec.extractLsb'_append_eq_of_le (by decide), BitVec.extractLsb'_append_eq_of_le (by decide), BitVec.extractLsb'_append_eq_of_add_le (by decide)]; simp
@[simp] theorem wordE_x (op : BitVec 7) (x : BitVec 1) (z : BitVec 3) (k : BitVec 4) (s : BitVec 7) (t : BitVec 7) : fld (wordE op x z k s t) 21 1 = x := by
  unfold fld wordE
  rw [BitVec.extractLsb'_append_eq_of_le (by decide), BitVec.extractLsb'_append_eq_of_le (by decide), BitVec.extractLsb'_append_eq_of_le (by decide), BitVec.extractLsb'_append_eq_of_le (by decide), BitVec.extractLsb'_append_eq_of_add_le (by decide)]; simp
@[simp] theorem wordE_flag (op : BitVec 7) (x : BitVec 1) (z : BitVec 3) (k : BitVec 4) (s t : BitVec 7) : flag (wordE op x z k s t) 21 = x.getLsbD 0 := by
  unfold flag wordE
  repeat rw [BitVec.getLsbD_append]
  simp
@[simp] theorem wordE_bit (op : BitVec 7) (x : BitVec 1) (z : BitVec 3) (k : BitVec 4) (s t : BitVec 7) : (wordE op x z k s t)[21] = x.getLsbD 0 :=
  (BitVec.getLsbD_eq_getElem (by decide)).symm.trans (wordE_flag op x z k s t)
@[simp] theorem wordE_z (op : BitVec 7) (x : BitVec 1) (z : BitVec 3) (k : BitVec 4) (s : BitVec 7) (t : BitVec 7) : fld (wordE op x z k s t) 18 3 = z := by
  unfold fld wordE
  rw [BitVec.extractLsb'_append_eq_of_le (by decide), BitVec.extractLsb'_append_eq_of_le (by decide), BitVec.extractLsb'_append_eq_of_le (by decide), BitVec.extractLsb'_append_eq_of_add_le (by decide)]; simp
@[simp] theorem wordE_k (op : BitVec 7) (x : BitVec 1) (z : BitVec 3) (k : BitVec 4) (s : BitVec 7) (t : BitVec 7) : fld (wordE op x z k s t) 14 4 = k := by
  unfold fld wordE
  rw [BitVec.extractLsb'_append_eq_of_le (by decide), BitVec.extractLsb'_append_eq_of_le (by decide), BitVec.extractLsb'_append_eq_of_add_le (by decide)]; simp
@[simp] theorem wordE_s (op : BitVec 7) (x : BitVec 1) (z : BitVec 3) (k : BitVec 4) (s : BitVec 7) (t : BitVec 7) : fld (wordE op x z k s t) 7 7 = s := by
  unfold fld wordE
  rw [BitVec.extractLsb'_append_eq_of_le (by decide), BitVec.extractLsb'_append_eq_of_add_le (by decide)]; simp
@[simp] theorem wordE_tt (op : BitVec 7) (x : BitVec 1) (z : BitVec 3) (k : BitVec 4) (s : BitVec 7) (t : BitVec 7) : fld (wordE op x z k s t) 0 7 = t := by
  unfold fld wordE
  rw [BitVec.extractLsb'_append_eq_of_add_le (by decide)]; simp
@[simp] theorem wordR_op (op : BitVec 5) (a : BitVec 5) (b : BitVec 5) (i : BitVec 17) : fld (wordR op a b i) 27 5 = op := by
  unfold fld wordR
  rw [BitVec.extractLsb'_append_eq_of_le (by decide), BitVec.extractLsb'_append_eq_of_le (by decide), BitVec.extractLsb'_append_eq_of_le (by decide)]; simp
@[simp] theorem wordR_a (op : BitVec 5) (a : BitVec 5) (b : BitVec 5) (i : BitVec 17) : fld (wordR op a b i) 22 5 = a := by
  unfold fld wordR
  rw [BitVec.extractLsb'_append_eq_of_le (by decide), BitVec.extractLsb'_append_eq_of_le (by decide), BitVec.extractLsb'_append_eq_of_add_le (by decide)]; simp
@[simp] theorem wordR_b (op : BitVec 5) (a : BitVec 5) (b : BitVec 5) (i : BitVec 17) : fld (wordR op a b i) 17 5 = b := by
  unfold fld wordR
  rw [BitVec.extractLsb'_append_eq_of_le (by decide), BitVec.extractLsb'_append_eq_of_add_le (by decide)]; simp
@[simp] theorem wordR_i (op : BitVec 5) (a : BitVec 5) (b : BitVec 5) (i : BitVec 17) : fld (wordR op a b i) 0 17 = i := by
  unfold fld wordR
  rw [BitVec.extractLsb'_append_eq_of_add_le (by decide)]; simp
@[simp] theorem memExt_28 (w : MemWord) : fld (memExt w) 28 4 = w.ord := by
  unfold fld memExt
  rw [BitVec.extractLsb'_append_eq_of_le (by decide), BitVec.extractLsb'_append_eq_of_le (by decide)]; simp
@[simp] theorem memExt_24 (w : MemWord) : fld (memExt w) 24 4 = w.pol := by
  unfold fld memExt
  rw [BitVec.extractLsb'_append_eq_of_le (by decide), BitVec.extractLsb'_append_eq_of_add_le (by decide)]; simp
@[simp] theorem memExt_0 (w : MemWord) : fld (memExt w) 0 24 = w.off := by
  unfold fld memExt
  rw [BitVec.extractLsb'_append_eq_of_add_le (by decide)]; simp
@[simp] theorem encodeMod_28 (m : Mod) : fld (encodeMod m) 28 4 = 0 := by
  unfold fld encodeMod
  rw [BitVec.extractLsb'_append_eq_of_le (by decide), BitVec.extractLsb'_append_eq_of_le (by decide), BitVec.extractLsb'_append_eq_of_le (by decide), BitVec.extractLsb'_append_eq_of_le (by decide), BitVec.extractLsb'_append_eq_of_le (by decide)]; simp
@[simp] theorem encodeMod_25 (m : Mod) : fld (encodeMod m) 25 3 = m.rnd := by
  unfold fld encodeMod
  rw [BitVec.extractLsb'_append_eq_of_le (by decide), BitVec.extractLsb'_append_eq_of_le (by decide), BitVec.extractLsb'_append_eq_of_le (by decide), BitVec.extractLsb'_append_eq_of_le (by decide), BitVec.extractLsb'_append_eq_of_add_le (by decide)]; simp
@[simp] theorem encodeMod_19 (m : Mod) : fld (encodeMod m) 19 6 = m.swzC := by
  unfold fld encodeMod
  rw [BitVec.extractLsb'_append_eq_of_le (by decide), BitVec.extractLsb'_append_eq_of_le (by decide), BitVec.extractLsb'_append_eq_of_le (by decide), BitVec.extractLsb'_append_eq_of_add_le (by decide)]; simp
@[simp] theorem encodeMod_13 (m : Mod) : fld (encodeMod m) 13 6 = m.swzB := by
  unfold fld encodeMod
  rw [BitVec.extractLsb'_append_eq_of_le (by decide), BitVec.extractLsb'_append_eq_of_le (by decide), BitVec.extractLsb'_append_eq_of_add_le (by decide)]; simp
@[simp] theorem encodeMod_7 (m : Mod) : fld (encodeMod m) 7 6 = m.swzA := by
  unfold fld encodeMod
  rw [BitVec.extractLsb'_append_eq_of_le (by decide), BitVec.extractLsb'_append_eq_of_add_le (by decide)]; simp
@[simp] theorem encodeMod_0 (m : Mod) : fld (encodeMod m) 0 7 = m.codeC := by
  unfold fld encodeMod
  rw [BitVec.extractLsb'_append_eq_of_add_le (by decide)]; simp
@[simp] theorem loopExtWord_23 (x : LoopExt) : fld (loopExtWord x) 23 9 = 0 := by
  unfold fld loopExtWord
  rw [BitVec.extractLsb'_append_eq_of_le (by decide), BitVec.extractLsb'_append_eq_of_le (by decide), BitVec.extractLsb'_append_eq_of_le (by decide), BitVec.extractLsb'_append_eq_of_le (by decide), BitVec.extractLsb'_append_eq_of_le (by decide), BitVec.extractLsb'_append_eq_of_le (by decide)]; simp
@[simp] theorem loopExtWord_13 (x : LoopExt) : fld (loopExtWord x) 13 10 = x.anchor := by
  unfold fld loopExtWord
  rw [BitVec.extractLsb'_append_eq_of_le (by decide), BitVec.extractLsb'_append_eq_of_le (by decide), BitVec.extractLsb'_append_eq_of_le (by decide), BitVec.extractLsb'_append_eq_of_le (by decide), BitVec.extractLsb'_append_eq_of_le (by decide), BitVec.extractLsb'_append_eq_of_add_le (by decide)]; simp
@[simp] theorem loopExtWord_b12 (x : LoopExt) : flag (loopExtWord x) 12 = x.anc := by
  unfold flag loopExtWord bit1
  repeat rw [BitVec.getLsbD_append]
  cases x.anc <;> simp
@[simp] theorem loopExtWord_e12 (x : LoopExt) : (loopExtWord x)[12] = x.anc :=
  (BitVec.getLsbD_eq_getElem (by decide)).symm.trans (loopExtWord_b12 x)
@[simp] theorem loopExtWord_b11 (x : LoopExt) : flag (loopExtWord x) 11 = x.two := by
  unfold flag loopExtWord bit1
  repeat rw [BitVec.getLsbD_append]
  cases x.two <;> simp
@[simp] theorem loopExtWord_e11 (x : LoopExt) : (loopExtWord x)[11] = x.two :=
  (BitVec.getLsbD_eq_getElem (by decide)).symm.trans (loopExtWord_b11 x)
@[simp] theorem loopExtWord_7 (x : LoopExt) : fld (loopExtWord x) 7 4 = x.planes := by
  unfold fld loopExtWord
  rw [BitVec.extractLsb'_append_eq_of_le (by decide), BitVec.extractLsb'_append_eq_of_le (by decide), BitVec.extractLsb'_append_eq_of_add_le (by decide)]; simp
@[simp] theorem loopExtWord_4 (x : LoopExt) : fld (loopExtWord x) 4 3 = 0 := by
  unfold fld loopExtWord
  rw [BitVec.extractLsb'_append_eq_of_le (by decide), BitVec.extractLsb'_append_eq_of_add_le (by decide)]; simp
@[simp] theorem loopExtWord_0 (x : LoopExt) : fld (loopExtWord x) 0 4 = x.kb := by
  unfold fld loopExtWord
  rw [BitVec.extractLsb'_append_eq_of_add_le (by decide)]; simp

end Sys2Proof
end

