-- ==== Sys2Proof/Laws/Sparse.lean ====
section
/-! SUPPORT. Laws of numbered collections and of byte storage: what a read gives after a write, and that every update keeps
the canonical form. -/
namespace Sys2Proof.Machine

theorem risingFrom_le {α : Type} (m : List (Nat × α)) (n k : Nat) (h : k ≤ n) (hr : risingFrom n m = true) :
    risingFrom k m = true := by
  cases m with
  | nil => rfl
  | cons e r =>
    simp only [risingFrom, Bool.and_eq_true, decide_eq_true_eq] at hr ⊢
    exact ⟨Nat.le_trans h hr.1, hr.2⟩

/-- A written entry is read back. -/
@[simp] theorem mget_mput_self {α : Type} (m : List (Nat × α)) (k : Nat) (v : α) : mget (mput m k v) k = some v := by
  induction m with
  | nil => simp [mput, mget]
  | cons e r ih =>
    simp only [mput]
    split
    · simp [mget]
    · split
      · simp [mget]
      · simp only [mget]
        rw [if_neg ‹_›, ih]

/-- A write leaves every other entry alone. -/
theorem mget_mput_other {α : Type} (m : List (Nat × α)) (k i : Nat) (v : α) (h : i ≠ k) :
    mget (mput m k v) i = mget m i := by
  induction m with
  | nil => simp [mput, mget, h]
  | cons e r ih =>
    simp only [mput]
    split
    · rename_i hk
      simp only [mget, if_neg h, ← hk]
    · split
      · simp only [mget, if_neg h]
      · simp only [mget, ih]

/-- A removed entry is gone. -/
@[simp] theorem mget_mdel_self {α : Type} (m : List (Nat × α)) (k : Nat) : mget (mdel m k) k = none := by
  induction m with
  | nil => rfl
  | cons e r ih =>
    simp only [mdel]
    split
    · exact ih
    · simp only [mget]
      rw [if_neg ‹_›, ih]

/-- A removal leaves every other entry alone. -/
theorem mget_mdel_other {α : Type} (m : List (Nat × α)) (k i : Nat) (h : i ≠ k) : mget (mdel m k) i = mget m i := by
  induction m with
  | nil => rfl
  | cons e r ih =>
    simp only [mdel]
    split
    · rename_i hk
      rw [ih]
      simp only [mget, ← hk, if_neg h]
    · simp only [mget, ih]

theorem risingFrom_mput {α : Type} : ∀ (m : List (Nat × α)) (n k : Nat) (v : α), n ≤ k → risingFrom n m = true →
    risingFrom n (mput m k v) = true
  | [], n, k, v, h, _ => by simp [mput, risingFrom, h]
  | (j, w) :: r, n, k, v, h, hr => by
    simp only [risingFrom, Bool.and_eq_true, decide_eq_true_eq] at hr
    simp only [mput]
    split
    · rename_i hk
      subst hk
      simp only [risingFrom, Bool.and_eq_true, decide_eq_true_eq]
      exact hr
    · split
      · simp only [risingFrom, Bool.and_eq_true, decide_eq_true_eq]
        exact ⟨h, by omega, hr.2⟩
      · simp only [risingFrom, Bool.and_eq_true, decide_eq_true_eq]
        exact ⟨hr.1, risingFrom_mput r (j + 1) k v (by omega) hr.2⟩

theorem risingFrom_mdel {α : Type} : ∀ (m : List (Nat × α)) (n k : Nat), risingFrom n m = true →
    risingFrom n (mdel m k) = true
  | [], _, _, _ => rfl
  | (j, w) :: r, n, k, hr => by
    simp only [risingFrom, Bool.and_eq_true, decide_eq_true_eq] at hr
    simp only [mdel]
    split
    · exact risingFrom_le _ (j + 1) n (by omega) (risingFrom_mdel r (j + 1) k hr.2)
    · simp only [risingFrom, Bool.and_eq_true, decide_eq_true_eq]
      exact ⟨hr.1, risingFrom_mdel r (j + 1) k hr.2⟩

theorem all_mput {α : Type} (p : Nat × α → Bool) : ∀ (m : List (Nat × α)) (k : Nat) (v : α), m.all p = true →
    p (k, v) = true → (mput m k v).all p = true
  | [], k, v, _, h => by simp [mput, h]
  | (j, w) :: r, k, v, hm, h => by
    simp only [List.all_cons, Bool.and_eq_true] at hm
    simp only [mput]
    split
    · simp [h, hm.2]
    · split
      · simp [h, hm.1, hm.2]
      · simp [hm.1, all_mput p r k v hm.2 h]

theorem all_mdel {α : Type} (p : Nat × α → Bool) : ∀ (m : List (Nat × α)) (k : Nat), m.all p = true →
    (mdel m k).all p = true
  | [], _, _ => rfl
  | (j, w) :: r, k, hm => by
    simp only [List.all_cons, Bool.and_eq_true] at hm
    simp only [mdel]
    split
    · exact all_mdel p r k hm.2
    · simp [hm.1, all_mdel p r k hm.2]

/-- An update of a numbered collection keeps its canonical form. -/
theorem Sparse.wf_sset {α : Type} [DecidableEq α] (d : α) (m : Sparse α) (k : Nat) (v : α) (h : Sparse.wf d m = true) :
    Sparse.wf d (sset d m k v) = true := by
  simp only [Sparse.wf, Bool.and_eq_true] at h ⊢
  unfold sset
  split
  · exact ⟨risingFrom_mdel m 0 k h.1, all_mdel _ m k h.2⟩
  · exact ⟨risingFrom_mput m 0 k v (Nat.zero_le _) h.1, all_mput _ m k v h.2 (by simp [‹¬v = d›])⟩

/-- A written entry is read back. -/
@[simp] theorem sget_sset_self {α : Type} [DecidableEq α] (d : α) (m : Sparse α) (k : Nat) (v : α) :
    sget d (sset d m k v) k = v := by
  unfold sget sset
  split
  · rw [mget_mdel_self]
    exact ‹v = d›.symm
  · rw [mget_mput_self]
    rfl

/-- A write leaves every other entry alone. -/
theorem sget_sset_other {α : Type} [DecidableEq α] (d : α) (m : Sparse α) (k i : Nat) (v : α) (h : i ≠ k) :
    sget d (sset d m k v) i = sget d m i := by
  unfold sget sset
  split
  · rw [mget_mdel_other m k i h]
  · rw [mget_mput_other m k i v h]

/-- A read after a write. -/
theorem sget_sset {α : Type} [DecidableEq α] (d : α) (m : Sparse α) (k i : Nat) (v : α) :
    sget d (sset d m k v) i = if i = k then v else sget d m i := by
  split
  · subst i; simp
  · exact sget_sset_other d m k i v ‹_›

/-! Byte storage. -/

theorem Memory.wf_put (m : Memory) (a : Nat) (b : Byte) (h : m.wf = true) : (Memory.put m a b).wf = true :=
  Sparse.wf_sset 0 m a b h

theorem Memory.wf_putBytes (bs : List Byte) : ∀ (m : Memory) (a : Nat), m.wf = true → (Memory.putBytes m a bs).wf = true := by
  induction bs with
  | nil => exact fun _ _ h => h
  | cons b r ih => exact fun m a h => ih _ _ (Memory.wf_put m a b h)

theorem Memory.byte_put (m : Memory) (a i : Nat) (b : Byte) :
    Memory.byte (Memory.put m a b) i = if i = a then b else Memory.byte m i := sget_sset 0 m a i b

/-- Bytes outside those written read as before. -/
theorem Memory.byte_putBytes_other (bs : List Byte) : ∀ (m : Memory) (a i : Nat),
    (i < a ∨ a + bs.length ≤ i) → Memory.byte (Memory.putBytes m a bs) i = Memory.byte m i := by
  induction bs with
  | nil => exact fun _ _ _ _ => rfl
  | cons b r ih =>
    intro m a i hi
    simp only [List.length_cons] at hi
    rw [Memory.putBytes, ih _ _ _ (by omega), Memory.byte_put, if_neg (by omega)]

/-- Written bytes read back. -/
theorem Memory.byte_putBytes_self (bs : List Byte) : ∀ (m : Memory) (a i : Nat), i < bs.length →
    Memory.byte (Memory.putBytes m a bs) (a + i) = bs.getD i 0 := by
  induction bs with
  | nil => intro _ _ i hi; exact absurd hi (Nat.not_lt_zero i)
  | cons b r ih =>
    intro m a i hi
    rw [Memory.putBytes]
    cases i with
    | zero =>
      rw [Memory.byte_putBytes_other r _ _ _ (by omega), Memory.byte_put]
      simp
    | succ j =>
      have := ih (Memory.put m a b) (a + 1) j (by simpa using hi)
      rw [show a + (j + 1) = a + 1 + j by omega, this]
      simp

end Sys2Proof.Machine
end

