-- ==== Sys2Proof/Laws/State.lean ====
section
/-! SUPPORT. One lemma per field per update of the state and of a group, each by definition. -/
namespace Sys2Proof.Machine

@[simp] theorem State.setGroup_cycle (s : State) (i : Nat) (x : Group) : (s.setGroup i x).cycle = s.cycle := rfl
@[simp] theorem State.setGroup_tick (s : State) (i : Nat) (x : Group) : (s.setGroup i x).tick = s.tick := rfl
@[simp] theorem State.setGroup_fresh (s : State) (i : Nat) (x : Group) : (s.setGroup i x).fresh = s.fresh := rfl
@[simp] theorem State.setGroup_agenda (s : State) (i : Nat) (x : Group) : (s.setGroup i x).agenda = s.agenda := rfl
@[simp] theorem State.setGroup_cur (s : State) (i : Nat) (x : Group) : (s.setGroup i x).cur = s.cur := rfl
@[simp] theorem State.setGroup_curSlot (s : State) (i : Nat) (x : Group) : (s.setGroup i x).curSlot = s.curSlot := rfl
@[simp] theorem State.setGroup_mem (s : State) (i : Nat) (x : Group) : (s.setGroup i x).mem = s.mem := rfl
@[simp] theorem State.setGroup_cx (s : State) (i : Nat) (x : Group) : (s.setGroup i x).cx = s.cx := rfl
@[simp] theorem State.setGroup_q (s : State) (i : Nat) (x : Group) : (s.setGroup i x).q = s.q := rfl
@[simp] theorem State.setGroup_fq (s : State) (i : Nat) (x : Group) : (s.setGroup i x).fq = s.fq := rfl
@[simp] theorem State.setGroup_cores (s : State) (i : Nat) (x : Group) : (s.setGroup i x).cores = s.cores := rfl
@[simp] theorem State.setGroup_br (s : State) (i : Nat) (x : Group) : (s.setGroup i x).br = s.br := rfl
@[simp] theorem State.setGroup_reins (s : State) (i : Nat) (x : Group) : (s.setGroup i x).reins = s.reins := rfl
@[simp] theorem State.setGroup_care (s : State) (i : Nat) (x : Group) : (s.setGroup i x).care = s.care := rfl
@[simp] theorem State.setGroup_k_grids (s : State) (i : Nat) (x : Group) : (s.setGroup i x).k.grids = s.k.grids := rfl
@[simp] theorem State.setGroup_k_blocks (s : State) (i : Nat) (x : Group) : (s.setGroup i x).k.blocks = s.k.blocks := rfl
@[simp] theorem State.setGroup_k_nodes (s : State) (i : Nat) (x : Group) : (s.setGroup i x).k.nodes = s.k.nodes := rfl
@[simp] theorem State.setGroup_k_held (s : State) (i : Nat) (x : Group) : (s.setGroup i x).k.held = s.k.held := rfl
@[simp] theorem State.setGroup_k_bars (s : State) (i : Nat) (x : Group) : (s.setGroup i x).k.bars = s.k.bars := rfl
@[simp] theorem State.setGroup_k_outriders (s : State) (i : Nat) (x : Group) : (s.setGroup i x).k.outriders = s.k.outriders := rfl
@[simp] theorem State.updGroup_cycle (s : State) (i : Nat) (f : Group → Group) : (s.updGroup i f).cycle = s.cycle := rfl
@[simp] theorem State.updGroup_tick (s : State) (i : Nat) (f : Group → Group) : (s.updGroup i f).tick = s.tick := rfl
@[simp] theorem State.updGroup_fresh (s : State) (i : Nat) (f : Group → Group) : (s.updGroup i f).fresh = s.fresh := rfl
@[simp] theorem State.updGroup_agenda (s : State) (i : Nat) (f : Group → Group) : (s.updGroup i f).agenda = s.agenda := rfl
@[simp] theorem State.updGroup_cur (s : State) (i : Nat) (f : Group → Group) : (s.updGroup i f).cur = s.cur := rfl
@[simp] theorem State.updGroup_curSlot (s : State) (i : Nat) (f : Group → Group) : (s.updGroup i f).curSlot = s.curSlot := rfl
@[simp] theorem State.updGroup_mem (s : State) (i : Nat) (f : Group → Group) : (s.updGroup i f).mem = s.mem := rfl
@[simp] theorem State.updGroup_cx (s : State) (i : Nat) (f : Group → Group) : (s.updGroup i f).cx = s.cx := rfl
@[simp] theorem State.updGroup_q (s : State) (i : Nat) (f : Group → Group) : (s.updGroup i f).q = s.q := rfl
@[simp] theorem State.updGroup_fq (s : State) (i : Nat) (f : Group → Group) : (s.updGroup i f).fq = s.fq := rfl
@[simp] theorem State.updGroup_cores (s : State) (i : Nat) (f : Group → Group) : (s.updGroup i f).cores = s.cores := rfl
@[simp] theorem State.updGroup_br (s : State) (i : Nat) (f : Group → Group) : (s.updGroup i f).br = s.br := rfl
@[simp] theorem State.updGroup_reins (s : State) (i : Nat) (f : Group → Group) : (s.updGroup i f).reins = s.reins := rfl
@[simp] theorem State.updGroup_care (s : State) (i : Nat) (f : Group → Group) : (s.updGroup i f).care = s.care := rfl
@[simp] theorem State.updGroup_k_grids (s : State) (i : Nat) (f : Group → Group) : (s.updGroup i f).k.grids = s.k.grids := rfl
@[simp] theorem State.updGroup_k_blocks (s : State) (i : Nat) (f : Group → Group) : (s.updGroup i f).k.blocks = s.k.blocks := rfl
@[simp] theorem State.updGroup_k_nodes (s : State) (i : Nat) (f : Group → Group) : (s.updGroup i f).k.nodes = s.k.nodes := rfl
@[simp] theorem State.updGroup_k_held (s : State) (i : Nat) (f : Group → Group) : (s.updGroup i f).k.held = s.k.held := rfl
@[simp] theorem State.updGroup_k_bars (s : State) (i : Nat) (f : Group → Group) : (s.updGroup i f).k.bars = s.k.bars := rfl
@[simp] theorem State.updGroup_k_outriders (s : State) (i : Nat) (f : Group → Group) : (s.updGroup i f).k.outriders = s.k.outriders := rfl
@[simp] theorem State.setGrid_cycle (s : State) (i : Nat) (x : Grid) : (s.setGrid i x).cycle = s.cycle := rfl
@[simp] theorem State.setGrid_tick (s : State) (i : Nat) (x : Grid) : (s.setGrid i x).tick = s.tick := rfl
@[simp] theorem State.setGrid_fresh (s : State) (i : Nat) (x : Grid) : (s.setGrid i x).fresh = s.fresh := rfl
@[simp] theorem State.setGrid_agenda (s : State) (i : Nat) (x : Grid) : (s.setGrid i x).agenda = s.agenda := rfl
@[simp] theorem State.setGrid_cur (s : State) (i : Nat) (x : Grid) : (s.setGrid i x).cur = s.cur := rfl
@[simp] theorem State.setGrid_curSlot (s : State) (i : Nat) (x : Grid) : (s.setGrid i x).curSlot = s.curSlot := rfl
@[simp] theorem State.setGrid_mem (s : State) (i : Nat) (x : Grid) : (s.setGrid i x).mem = s.mem := rfl
@[simp] theorem State.setGrid_cx (s : State) (i : Nat) (x : Grid) : (s.setGrid i x).cx = s.cx := rfl
@[simp] theorem State.setGrid_q (s : State) (i : Nat) (x : Grid) : (s.setGrid i x).q = s.q := rfl
@[simp] theorem State.setGrid_fq (s : State) (i : Nat) (x : Grid) : (s.setGrid i x).fq = s.fq := rfl
@[simp] theorem State.setGrid_cores (s : State) (i : Nat) (x : Grid) : (s.setGrid i x).cores = s.cores := rfl
@[simp] theorem State.setGrid_br (s : State) (i : Nat) (x : Grid) : (s.setGrid i x).br = s.br := rfl
@[simp] theorem State.setGrid_reins (s : State) (i : Nat) (x : Grid) : (s.setGrid i x).reins = s.reins := rfl
@[simp] theorem State.setGrid_care (s : State) (i : Nat) (x : Grid) : (s.setGrid i x).care = s.care := rfl
@[simp] theorem State.setGrid_k_blocks (s : State) (i : Nat) (x : Grid) : (s.setGrid i x).k.blocks = s.k.blocks := rfl
@[simp] theorem State.setGrid_k_groups (s : State) (i : Nat) (x : Grid) : (s.setGrid i x).k.groups = s.k.groups := rfl
@[simp] theorem State.setGrid_k_nodes (s : State) (i : Nat) (x : Grid) : (s.setGrid i x).k.nodes = s.k.nodes := rfl
@[simp] theorem State.setGrid_k_held (s : State) (i : Nat) (x : Grid) : (s.setGrid i x).k.held = s.k.held := rfl
@[simp] theorem State.setGrid_k_bars (s : State) (i : Nat) (x : Grid) : (s.setGrid i x).k.bars = s.k.bars := rfl
@[simp] theorem State.setGrid_k_outriders (s : State) (i : Nat) (x : Grid) : (s.setGrid i x).k.outriders = s.k.outriders := rfl
@[simp] theorem State.setBlock_cycle (s : State) (i : Nat) (x : Block) : (s.setBlock i x).cycle = s.cycle := rfl
@[simp] theorem State.setBlock_tick (s : State) (i : Nat) (x : Block) : (s.setBlock i x).tick = s.tick := rfl
@[simp] theorem State.setBlock_fresh (s : State) (i : Nat) (x : Block) : (s.setBlock i x).fresh = s.fresh := rfl
@[simp] theorem State.setBlock_agenda (s : State) (i : Nat) (x : Block) : (s.setBlock i x).agenda = s.agenda := rfl
@[simp] theorem State.setBlock_cur (s : State) (i : Nat) (x : Block) : (s.setBlock i x).cur = s.cur := rfl
@[simp] theorem State.setBlock_curSlot (s : State) (i : Nat) (x : Block) : (s.setBlock i x).curSlot = s.curSlot := rfl
@[simp] theorem State.setBlock_mem (s : State) (i : Nat) (x : Block) : (s.setBlock i x).mem = s.mem := rfl
@[simp] theorem State.setBlock_cx (s : State) (i : Nat) (x : Block) : (s.setBlock i x).cx = s.cx := rfl
@[simp] theorem State.setBlock_q (s : State) (i : Nat) (x : Block) : (s.setBlock i x).q = s.q := rfl
@[simp] theorem State.setBlock_fq (s : State) (i : Nat) (x : Block) : (s.setBlock i x).fq = s.fq := rfl
@[simp] theorem State.setBlock_cores (s : State) (i : Nat) (x : Block) : (s.setBlock i x).cores = s.cores := rfl
@[simp] theorem State.setBlock_br (s : State) (i : Nat) (x : Block) : (s.setBlock i x).br = s.br := rfl
@[simp] theorem State.setBlock_reins (s : State) (i : Nat) (x : Block) : (s.setBlock i x).reins = s.reins := rfl
@[simp] theorem State.setBlock_care (s : State) (i : Nat) (x : Block) : (s.setBlock i x).care = s.care := rfl
@[simp] theorem State.setBlock_k_grids (s : State) (i : Nat) (x : Block) : (s.setBlock i x).k.grids = s.k.grids := rfl
@[simp] theorem State.setBlock_k_groups (s : State) (i : Nat) (x : Block) : (s.setBlock i x).k.groups = s.k.groups := rfl
@[simp] theorem State.setBlock_k_nodes (s : State) (i : Nat) (x : Block) : (s.setBlock i x).k.nodes = s.k.nodes := rfl
@[simp] theorem State.setBlock_k_held (s : State) (i : Nat) (x : Block) : (s.setBlock i x).k.held = s.k.held := rfl
@[simp] theorem State.setBlock_k_bars (s : State) (i : Nat) (x : Block) : (s.setBlock i x).k.bars = s.k.bars := rfl
@[simp] theorem State.setBlock_k_outriders (s : State) (i : Nat) (x : Block) : (s.setBlock i x).k.outriders = s.k.outriders := rfl
@[simp] theorem State.setCtx_cycle (s : State) (i : Nat) (x : Context) : (s.setCtx i x).cycle = s.cycle := rfl
@[simp] theorem State.setCtx_tick (s : State) (i : Nat) (x : Context) : (s.setCtx i x).tick = s.tick := rfl
@[simp] theorem State.setCtx_fresh (s : State) (i : Nat) (x : Context) : (s.setCtx i x).fresh = s.fresh := rfl
@[simp] theorem State.setCtx_agenda (s : State) (i : Nat) (x : Context) : (s.setCtx i x).agenda = s.agenda := rfl
@[simp] theorem State.setCtx_cur (s : State) (i : Nat) (x : Context) : (s.setCtx i x).cur = s.cur := rfl
@[simp] theorem State.setCtx_curSlot (s : State) (i : Nat) (x : Context) : (s.setCtx i x).curSlot = s.curSlot := rfl
@[simp] theorem State.setCtx_mem (s : State) (i : Nat) (x : Context) : (s.setCtx i x).mem = s.mem := rfl
@[simp] theorem State.setCtx_q (s : State) (i : Nat) (x : Context) : (s.setCtx i x).q = s.q := rfl
@[simp] theorem State.setCtx_fq (s : State) (i : Nat) (x : Context) : (s.setCtx i x).fq = s.fq := rfl
@[simp] theorem State.setCtx_k (s : State) (i : Nat) (x : Context) : (s.setCtx i x).k = s.k := rfl
@[simp] theorem State.setCtx_cores (s : State) (i : Nat) (x : Context) : (s.setCtx i x).cores = s.cores := rfl
@[simp] theorem State.setCtx_br (s : State) (i : Nat) (x : Context) : (s.setCtx i x).br = s.br := rfl
@[simp] theorem State.setCtx_reins (s : State) (i : Nat) (x : Context) : (s.setCtx i x).reins = s.reins := rfl
@[simp] theorem State.setCtx_care (s : State) (i : Nat) (x : Context) : (s.setCtx i x).care = s.care := rfl
@[simp] theorem State.setCtx_cx_sel (s : State) (i : Nat) (x : Context) : (s.setCtx i x).cx.sel = s.cx.sel := rfl
@[simp] theorem State.setCtx_cx_cmd (s : State) (i : Nat) (x : Context) : (s.setCtx i x).cx.cmd = s.cx.cmd := rfl
@[simp] theorem State.setCtx_cx_busy (s : State) (i : Nat) (x : Context) : (s.setCtx i x).cx.busy = s.cx.busy := rfl
@[simp] theorem State.setCtx_cx_result (s : State) (i : Nat) (x : Context) : (s.setCtx i x).cx.result = s.cx.result := rfl
@[simp] theorem State.setCtx_cx_need (s : State) (i : Nat) (x : Context) : (s.setCtx i x).cx.need = s.cx.need := rfl
@[simp] theorem State.setCtx_cx_desc (s : State) (i : Nat) (x : Context) : (s.setCtx i x).cx.desc = s.cx.desc := rfl
@[simp] theorem State.setCtx_cx_staging (s : State) (i : Nat) (x : Context) : (s.setCtx i x).cx.staging = s.cx.staging := rfl
@[simp] theorem State.setQueue_cycle (s : State) (i : Nat) (x : Queue) : (s.setQueue i x).cycle = s.cycle := rfl
@[simp] theorem State.setQueue_tick (s : State) (i : Nat) (x : Queue) : (s.setQueue i x).tick = s.tick := rfl
@[simp] theorem State.setQueue_fresh (s : State) (i : Nat) (x : Queue) : (s.setQueue i x).fresh = s.fresh := rfl
@[simp] theorem State.setQueue_agenda (s : State) (i : Nat) (x : Queue) : (s.setQueue i x).agenda = s.agenda := rfl
@[simp] theorem State.setQueue_cur (s : State) (i : Nat) (x : Queue) : (s.setQueue i x).cur = s.cur := rfl
@[simp] theorem State.setQueue_curSlot (s : State) (i : Nat) (x : Queue) : (s.setQueue i x).curSlot = s.curSlot := rfl
@[simp] theorem State.setQueue_mem (s : State) (i : Nat) (x : Queue) : (s.setQueue i x).mem = s.mem := rfl
@[simp] theorem State.setQueue_cx (s : State) (i : Nat) (x : Queue) : (s.setQueue i x).cx = s.cx := rfl
@[simp] theorem State.setQueue_fq (s : State) (i : Nat) (x : Queue) : (s.setQueue i x).fq = s.fq := rfl
@[simp] theorem State.setQueue_k (s : State) (i : Nat) (x : Queue) : (s.setQueue i x).k = s.k := rfl
@[simp] theorem State.setQueue_cores (s : State) (i : Nat) (x : Queue) : (s.setQueue i x).cores = s.cores := rfl
@[simp] theorem State.setQueue_br (s : State) (i : Nat) (x : Queue) : (s.setQueue i x).br = s.br := rfl
@[simp] theorem State.setQueue_reins (s : State) (i : Nat) (x : Queue) : (s.setQueue i x).reins = s.reins := rfl
@[simp] theorem State.setQueue_care (s : State) (i : Nat) (x : Queue) : (s.setQueue i x).care = s.care := rfl
@[simp] theorem State.setQueue_q_pkts (s : State) (i : Nat) (x : Queue) : (s.setQueue i x).q.pkts = s.q.pkts := rfl
@[simp] theorem State.setQueue_q_last (s : State) (i : Nat) (x : Queue) : (s.setQueue i x).q.last = s.q.last := rfl
@[simp] theorem State.setQueue_q_bankUsed (s : State) (i : Nat) (x : Queue) : (s.setQueue i x).q.bankUsed = s.q.bankUsed := rfl
@[simp] theorem State.setPkt_cycle (s : State) (i : Nat) (x : Packet) : (s.setPkt i x).cycle = s.cycle := rfl
@[simp] theorem State.setPkt_tick (s : State) (i : Nat) (x : Packet) : (s.setPkt i x).tick = s.tick := rfl
@[simp] theorem State.setPkt_fresh (s : State) (i : Nat) (x : Packet) : (s.setPkt i x).fresh = s.fresh := rfl
@[simp] theorem State.setPkt_agenda (s : State) (i : Nat) (x : Packet) : (s.setPkt i x).agenda = s.agenda := rfl
@[simp] theorem State.setPkt_cur (s : State) (i : Nat) (x : Packet) : (s.setPkt i x).cur = s.cur := rfl
@[simp] theorem State.setPkt_curSlot (s : State) (i : Nat) (x : Packet) : (s.setPkt i x).curSlot = s.curSlot := rfl
@[simp] theorem State.setPkt_mem (s : State) (i : Nat) (x : Packet) : (s.setPkt i x).mem = s.mem := rfl
@[simp] theorem State.setPkt_cx (s : State) (i : Nat) (x : Packet) : (s.setPkt i x).cx = s.cx := rfl
@[simp] theorem State.setPkt_fq (s : State) (i : Nat) (x : Packet) : (s.setPkt i x).fq = s.fq := rfl
@[simp] theorem State.setPkt_k (s : State) (i : Nat) (x : Packet) : (s.setPkt i x).k = s.k := rfl
@[simp] theorem State.setPkt_cores (s : State) (i : Nat) (x : Packet) : (s.setPkt i x).cores = s.cores := rfl
@[simp] theorem State.setPkt_br (s : State) (i : Nat) (x : Packet) : (s.setPkt i x).br = s.br := rfl
@[simp] theorem State.setPkt_reins (s : State) (i : Nat) (x : Packet) : (s.setPkt i x).reins = s.reins := rfl
@[simp] theorem State.setPkt_care (s : State) (i : Nat) (x : Packet) : (s.setPkt i x).care = s.care := rfl
@[simp] theorem State.setPkt_q_qs (s : State) (i : Nat) (x : Packet) : (s.setPkt i x).q.qs = s.q.qs := rfl
@[simp] theorem State.setPkt_q_last (s : State) (i : Nat) (x : Packet) : (s.setPkt i x).q.last = s.q.last := rfl
@[simp] theorem State.setPkt_q_bankUsed (s : State) (i : Nat) (x : Packet) : (s.setPkt i x).q.bankUsed = s.q.bankUsed := rfl
@[simp] theorem State.setOp_cycle (s : State) (i : Nat) (x : LongOp) : (s.setOp i x).cycle = s.cycle := rfl
@[simp] theorem State.setOp_tick (s : State) (i : Nat) (x : LongOp) : (s.setOp i x).tick = s.tick := rfl
@[simp] theorem State.setOp_fresh (s : State) (i : Nat) (x : LongOp) : (s.setOp i x).fresh = s.fresh := rfl
@[simp] theorem State.setOp_agenda (s : State) (i : Nat) (x : LongOp) : (s.setOp i x).agenda = s.agenda := rfl
@[simp] theorem State.setOp_cur (s : State) (i : Nat) (x : LongOp) : (s.setOp i x).cur = s.cur := rfl
@[simp] theorem State.setOp_curSlot (s : State) (i : Nat) (x : LongOp) : (s.setOp i x).curSlot = s.curSlot := rfl
@[simp] theorem State.setOp_cx (s : State) (i : Nat) (x : LongOp) : (s.setOp i x).cx = s.cx := rfl
@[simp] theorem State.setOp_q (s : State) (i : Nat) (x : LongOp) : (s.setOp i x).q = s.q := rfl
@[simp] theorem State.setOp_fq (s : State) (i : Nat) (x : LongOp) : (s.setOp i x).fq = s.fq := rfl
@[simp] theorem State.setOp_k (s : State) (i : Nat) (x : LongOp) : (s.setOp i x).k = s.k := rfl
@[simp] theorem State.setOp_cores (s : State) (i : Nat) (x : LongOp) : (s.setOp i x).cores = s.cores := rfl
@[simp] theorem State.setOp_br (s : State) (i : Nat) (x : LongOp) : (s.setOp i x).br = s.br := rfl
@[simp] theorem State.setOp_reins (s : State) (i : Nat) (x : LongOp) : (s.setOp i x).reins = s.reins := rfl
@[simp] theorem State.setOp_care (s : State) (i : Nat) (x : LongOp) : (s.setOp i x).care = s.care := rfl
@[simp] theorem State.setOp_mem_phys (s : State) (i : Nat) (x : LongOp) : (s.setOp i x).mem.phys = s.mem.phys := rfl
@[simp] theorem State.setOp_mem_host (s : State) (i : Nat) (x : LongOp) : (s.setOp i x).mem.host = s.mem.host := rfl
@[simp] theorem State.setOp_mem_keyTag (s : State) (i : Nat) (x : LongOp) : (s.setOp i x).mem.keyTag = s.mem.keyTag := rfl
@[simp] theorem State.setOp_mem_dirty (s : State) (i : Nat) (x : LongOp) : (s.setOp i x).mem.dirty = s.mem.dirty := rfl
@[simp] theorem State.setOp_mem_dirtyCtx (s : State) (i : Nat) (x : LongOp) : (s.setOp i x).mem.dirtyCtx = s.mem.dirtyCtx := rfl
@[simp] theorem State.setOp_mem_share (s : State) (i : Nat) (x : LongOp) : (s.setOp i x).mem.share = s.mem.share := rfl
@[simp] theorem State.setOp_mem_tags (s : State) (i : Nat) (x : LongOp) : (s.setOp i x).mem.tags = s.mem.tags := rfl
@[simp] theorem State.setOp_mem_tlb (s : State) (i : Nat) (x : LongOp) : (s.setOp i x).mem.tlb = s.mem.tlb := rfl
@[simp] theorem State.setOp_mem_l1 (s : State) (i : Nat) (x : LongOp) : (s.setOp i x).mem.l1 = s.mem.l1 := rfl
@[simp] theorem State.setOp_mem_stores (s : State) (i : Nat) (x : LongOp) : (s.setOp i x).mem.stores = s.mem.stores := rfl
@[simp] theorem State.setOp_mem_dir (s : State) (i : Nat) (x : LongOp) : (s.setOp i x).mem.dir = s.mem.dir := rfl
@[simp] theorem State.setOp_mem_presence (s : State) (i : Nat) (x : LongOp) : (s.setOp i x).mem.presence = s.mem.presence := rfl
@[simp] theorem State.setOp_mem_commit (s : State) (i : Nat) (x : LongOp) : (s.setOp i x).mem.commit = s.mem.commit := rfl
@[simp] theorem State.setOp_mem_detOwn (s : State) (i : Nat) (x : LongOp) : (s.setOp i x).mem.detOwn = s.mem.detOwn := rfl
@[simp] theorem State.delOp_cycle (s : State) (i : Nat) : (s.delOp i).cycle = s.cycle := rfl
@[simp] theorem State.delOp_tick (s : State) (i : Nat) : (s.delOp i).tick = s.tick := rfl
@[simp] theorem State.delOp_fresh (s : State) (i : Nat) : (s.delOp i).fresh = s.fresh := rfl
@[simp] theorem State.delOp_agenda (s : State) (i : Nat) : (s.delOp i).agenda = s.agenda := rfl
@[simp] theorem State.delOp_cur (s : State) (i : Nat) : (s.delOp i).cur = s.cur := rfl
@[simp] theorem State.delOp_curSlot (s : State) (i : Nat) : (s.delOp i).curSlot = s.curSlot := rfl
@[simp] theorem State.delOp_cx (s : State) (i : Nat) : (s.delOp i).cx = s.cx := rfl
@[simp] theorem State.delOp_q (s : State) (i : Nat) : (s.delOp i).q = s.q := rfl
@[simp] theorem State.delOp_fq (s : State) (i : Nat) : (s.delOp i).fq = s.fq := rfl
@[simp] theorem State.delOp_k (s : State) (i : Nat) : (s.delOp i).k = s.k := rfl
@[simp] theorem State.delOp_cores (s : State) (i : Nat) : (s.delOp i).cores = s.cores := rfl
@[simp] theorem State.delOp_br (s : State) (i : Nat) : (s.delOp i).br = s.br := rfl
@[simp] theorem State.delOp_reins (s : State) (i : Nat) : (s.delOp i).reins = s.reins := rfl
@[simp] theorem State.delOp_care (s : State) (i : Nat) : (s.delOp i).care = s.care := rfl
@[simp] theorem State.delOp_mem_phys (s : State) (i : Nat) : (s.delOp i).mem.phys = s.mem.phys := rfl
@[simp] theorem State.delOp_mem_host (s : State) (i : Nat) : (s.delOp i).mem.host = s.mem.host := rfl
@[simp] theorem State.delOp_mem_keyTag (s : State) (i : Nat) : (s.delOp i).mem.keyTag = s.mem.keyTag := rfl
@[simp] theorem State.delOp_mem_dirty (s : State) (i : Nat) : (s.delOp i).mem.dirty = s.mem.dirty := rfl
@[simp] theorem State.delOp_mem_dirtyCtx (s : State) (i : Nat) : (s.delOp i).mem.dirtyCtx = s.mem.dirtyCtx := rfl
@[simp] theorem State.delOp_mem_share (s : State) (i : Nat) : (s.delOp i).mem.share = s.mem.share := rfl
@[simp] theorem State.delOp_mem_tags (s : State) (i : Nat) : (s.delOp i).mem.tags = s.mem.tags := rfl
@[simp] theorem State.delOp_mem_tlb (s : State) (i : Nat) : (s.delOp i).mem.tlb = s.mem.tlb := rfl
@[simp] theorem State.delOp_mem_l1 (s : State) (i : Nat) : (s.delOp i).mem.l1 = s.mem.l1 := rfl
@[simp] theorem State.delOp_mem_stores (s : State) (i : Nat) : (s.delOp i).mem.stores = s.mem.stores := rfl
@[simp] theorem State.delOp_mem_dir (s : State) (i : Nat) : (s.delOp i).mem.dir = s.mem.dir := rfl
@[simp] theorem State.delOp_mem_presence (s : State) (i : Nat) : (s.delOp i).mem.presence = s.mem.presence := rfl
@[simp] theorem State.delOp_mem_commit (s : State) (i : Nat) : (s.delOp i).mem.commit = s.mem.commit := rfl
@[simp] theorem State.delOp_mem_detOwn (s : State) (i : Nat) : (s.delOp i).mem.detOwn = s.mem.detOwn := rfl
@[simp] theorem State.setCore_cycle (s : State) (i : Nat) (x : Core) : (s.setCore i x).cycle = s.cycle := rfl
@[simp] theorem State.setCore_tick (s : State) (i : Nat) (x : Core) : (s.setCore i x).tick = s.tick := rfl
@[simp] theorem State.setCore_fresh (s : State) (i : Nat) (x : Core) : (s.setCore i x).fresh = s.fresh := rfl
@[simp] theorem State.setCore_agenda (s : State) (i : Nat) (x : Core) : (s.setCore i x).agenda = s.agenda := rfl
@[simp] theorem State.setCore_cur (s : State) (i : Nat) (x : Core) : (s.setCore i x).cur = s.cur := rfl
@[simp] theorem State.setCore_curSlot (s : State) (i : Nat) (x : Core) : (s.setCore i x).curSlot = s.curSlot := rfl
@[simp] theorem State.setCore_mem (s : State) (i : Nat) (x : Core) : (s.setCore i x).mem = s.mem := rfl
@[simp] theorem State.setCore_cx (s : State) (i : Nat) (x : Core) : (s.setCore i x).cx = s.cx := rfl
@[simp] theorem State.setCore_q (s : State) (i : Nat) (x : Core) : (s.setCore i x).q = s.q := rfl
@[simp] theorem State.setCore_fq (s : State) (i : Nat) (x : Core) : (s.setCore i x).fq = s.fq := rfl
@[simp] theorem State.setCore_k (s : State) (i : Nat) (x : Core) : (s.setCore i x).k = s.k := rfl
@[simp] theorem State.setCore_br (s : State) (i : Nat) (x : Core) : (s.setCore i x).br = s.br := rfl
@[simp] theorem State.setCore_reins (s : State) (i : Nat) (x : Core) : (s.setCore i x).reins = s.reins := rfl
@[simp] theorem State.setCore_care (s : State) (i : Nat) (x : Core) : (s.setCore i x).care = s.care := rfl
@[simp] theorem State.setRein_cycle (s : State) (i : Nat) (x : Rein) : (s.setRein i x).cycle = s.cycle := rfl
@[simp] theorem State.setRein_tick (s : State) (i : Nat) (x : Rein) : (s.setRein i x).tick = s.tick := rfl
@[simp] theorem State.setRein_fresh (s : State) (i : Nat) (x : Rein) : (s.setRein i x).fresh = s.fresh := rfl
@[simp] theorem State.setRein_agenda (s : State) (i : Nat) (x : Rein) : (s.setRein i x).agenda = s.agenda := rfl
@[simp] theorem State.setRein_cur (s : State) (i : Nat) (x : Rein) : (s.setRein i x).cur = s.cur := rfl
@[simp] theorem State.setRein_curSlot (s : State) (i : Nat) (x : Rein) : (s.setRein i x).curSlot = s.curSlot := rfl
@[simp] theorem State.setRein_mem (s : State) (i : Nat) (x : Rein) : (s.setRein i x).mem = s.mem := rfl
@[simp] theorem State.setRein_cx (s : State) (i : Nat) (x : Rein) : (s.setRein i x).cx = s.cx := rfl
@[simp] theorem State.setRein_q (s : State) (i : Nat) (x : Rein) : (s.setRein i x).q = s.q := rfl
@[simp] theorem State.setRein_fq (s : State) (i : Nat) (x : Rein) : (s.setRein i x).fq = s.fq := rfl
@[simp] theorem State.setRein_k (s : State) (i : Nat) (x : Rein) : (s.setRein i x).k = s.k := rfl
@[simp] theorem State.setRein_cores (s : State) (i : Nat) (x : Rein) : (s.setRein i x).cores = s.cores := rfl
@[simp] theorem State.setRein_br (s : State) (i : Nat) (x : Rein) : (s.setRein i x).br = s.br := rfl
@[simp] theorem State.setRein_care (s : State) (i : Nat) (x : Rein) : (s.setRein i x).care = s.care := rfl
@[simp] theorem State.take_cycle (s : State) : s.take.2.cycle = s.cycle := rfl
@[simp] theorem State.take_tick (s : State) : s.take.2.tick = s.tick := rfl
@[simp] theorem State.take_agenda (s : State) : s.take.2.agenda = s.agenda := rfl
@[simp] theorem State.take_cur (s : State) : s.take.2.cur = s.cur := rfl
@[simp] theorem State.take_curSlot (s : State) : s.take.2.curSlot = s.curSlot := rfl
@[simp] theorem State.take_mem (s : State) : s.take.2.mem = s.mem := rfl
@[simp] theorem State.take_cx (s : State) : s.take.2.cx = s.cx := rfl
@[simp] theorem State.take_q (s : State) : s.take.2.q = s.q := rfl
@[simp] theorem State.take_fq (s : State) : s.take.2.fq = s.fq := rfl
@[simp] theorem State.take_k (s : State) : s.take.2.k = s.k := rfl
@[simp] theorem State.take_cores (s : State) : s.take.2.cores = s.cores := rfl
@[simp] theorem State.take_br (s : State) : s.take.2.br = s.br := rfl
@[simp] theorem State.take_reins (s : State) : s.take.2.reins = s.reins := rfl
@[simp] theorem State.take_care (s : State) : s.take.2.care = s.care := rfl
@[simp] theorem State.take_fresh (s : State) : s.take.2.fresh = s.fresh + 1 := rfl
@[simp] theorem State.take_fst (s : State) : s.take.1 = s.fresh := rfl
@[simp] theorem State.draw_cycle (s : State) : s.draw.2.cycle = s.cycle := rfl
@[simp] theorem State.draw_fresh (s : State) : s.draw.2.fresh = s.fresh := rfl
@[simp] theorem State.draw_agenda (s : State) : s.draw.2.agenda = s.agenda := rfl
@[simp] theorem State.draw_cur (s : State) : s.draw.2.cur = s.cur := rfl
@[simp] theorem State.draw_curSlot (s : State) : s.draw.2.curSlot = s.curSlot := rfl
@[simp] theorem State.draw_mem (s : State) : s.draw.2.mem = s.mem := rfl
@[simp] theorem State.draw_cx (s : State) : s.draw.2.cx = s.cx := rfl
@[simp] theorem State.draw_q (s : State) : s.draw.2.q = s.q := rfl
@[simp] theorem State.draw_fq (s : State) : s.draw.2.fq = s.fq := rfl
@[simp] theorem State.draw_k (s : State) : s.draw.2.k = s.k := rfl
@[simp] theorem State.draw_cores (s : State) : s.draw.2.cores = s.cores := rfl
@[simp] theorem State.draw_br (s : State) : s.draw.2.br = s.br := rfl
@[simp] theorem State.draw_reins (s : State) : s.draw.2.reins = s.reins := rfl
@[simp] theorem State.draw_care (s : State) : s.draw.2.care = s.care := rfl
@[simp] theorem State.draw_tick (s : State) : s.draw.2.tick = s.tick + 1 := rfl
@[simp] theorem State.draw_fst (s : State) : s.draw.1 = s.tick := rfl
@[simp] theorem Group.wrS_cx (g : Group) (c : BitVec 7) (v : Word) : (g.wrS c v).cx = g.cx := rfl
@[simp] theorem Group.wrS_grid (g : Group) (c : BitVec 7) (v : Word) : (g.wrS c v).grid = g.grid := rfl
@[simp] theorem Group.wrS_block (g : Group) (c : BitVec 7) (v : Word) : (g.wrS c v).block = g.block := rfl
@[simp] theorem Group.wrS_gidx (g : Group) (c : BitVec 7) (v : Word) : (g.wrS c v).gidx = g.gidx := rfl
@[simp] theorem Group.wrS_outrider (g : Group) (c : BitVec 7) (v : Word) : (g.wrS c v).outrider = g.outrider := rfl
@[simp] theorem Group.wrS_width (g : Group) (c : BitVec 7) (v : Word) : (g.wrS c v).width = g.width := rfl
@[simp] theorem Group.wrS_nregs (g : Group) (c : BitVec 7) (v : Word) : (g.wrS c v).nregs = g.nregs := rfl
@[simp] theorem Group.wrS_sblk (g : Group) (c : BitVec 7) (v : Word) : (g.wrS c v).sblk = g.sblk := rfl
@[simp] theorem Group.wrS_spillBytes (g : Group) (c : BitVec 7) (v : Word) : (g.wrS c v).spillBytes = g.spillBytes := rfl
@[simp] theorem Group.wrS_core (g : Group) (c : BitVec 7) (v : Word) : (g.wrS c v).core = g.core := rfl
@[simp] theorem Group.wrS_slice (g : Group) (c : BitVec 7) (v : Word) : (g.wrS c v).slice = g.slice := rfl
@[simp] theorem Group.wrS_pipe (g : Group) (c : BitVec 7) (v : Word) : (g.wrS c v).pipe = g.pipe := rfl
@[simp] theorem Group.wrS_prio (g : Group) (c : BitVec 7) (v : Word) : (g.wrS c v).prio = g.prio := rfl
@[simp] theorem Group.wrS_img (g : Group) (c : BitVec 7) (v : Word) : (g.wrS c v).img = g.img := rfl
@[simp] theorem Group.wrS_hoff (g : Group) (c : BitVec 7) (v : Word) : (g.wrS c v).hoff = g.hoff := rfl
@[simp] theorem Group.wrS_codeEnd (g : Group) (c : BitVec 7) (v : Word) : (g.wrS c v).codeEnd = g.codeEnd := rfl
@[simp] theorem Group.wrS_status (g : Group) (c : BitVec 7) (v : Word) : (g.wrS c v).status = g.status := rfl
@[simp] theorem Group.wrS_saved (g : Group) (c : BitVec 7) (v : Word) : (g.wrS c v).saved = g.saved := rfl
@[simp] theorem Group.wrS_pc (g : Group) (c : BitVec 7) (v : Word) : (g.wrS c v).pc = g.pc := rfl
@[simp] theorem Group.wrS_cla (g : Group) (c : BitVec 7) (v : Word) : (g.wrS c v).cla = g.cla := rfl
@[simp] theorem Group.wrS_cend (g : Group) (c : BitVec 7) (v : Word) : (g.wrS c v).cend = g.cend := rfl
@[simp] theorem Group.wrS_seta (g : Group) (c : BitVec 7) (v : Word) : (g.wrS c v).seta = g.seta := rfl
@[simp] theorem Group.wrS_setb (g : Group) (c : BitVec 7) (v : Word) : (g.wrS c v).setb = g.setb := rfl
@[simp] theorem Group.wrS_yld (g : Group) (c : BitVec 7) (v : Word) : (g.wrS c v).yld = g.yld := rfl
@[simp] theorem Group.wrS_V (g : Group) (c : BitVec 7) (v : Word) : (g.wrS c v).V = g.V := rfl
@[simp] theorem Group.wrS_Q (g : Group) (c : BitVec 7) (v : Word) : (g.wrS c v).Q = g.Q := rfl
@[simp] theorem Group.wrS_fl (g : Group) (c : BitVec 7) (v : Word) : (g.wrS c v).fl = g.fl := rfl
@[simp] theorem Group.wrS_M (g : Group) (c : BitVec 7) (v : Word) : (g.wrS c v).M = g.M := rfl
@[simp] theorem Group.wrS_K (g : Group) (c : BitVec 7) (v : Word) : (g.wrS c v).K = g.K := rfl
@[simp] theorem Group.wrS_F (g : Group) (c : BitVec 7) (v : Word) : (g.wrS c v).F = g.F := rfl
@[simp] theorem Group.wrS_bv (g : Group) (c : BitVec 7) (v : Word) : (g.wrS c v).bv = g.bv := rfl
@[simp] theorem Group.wrS_bs (g : Group) (c : BitVec 7) (v : Word) : (g.wrS c v).bs = g.bs := rfl
@[simp] theorem Group.wrS_nbv (g : Group) (c : BitVec 7) (v : Word) : (g.wrS c v).nbv = g.nbv := rfl
@[simp] theorem Group.wrS_nbs (g : Group) (c : BitVec 7) (v : Word) : (g.wrS c v).nbs = g.nbs := rfl
@[simp] theorem Group.wrS_exm (g : Group) (c : BitVec 7) (v : Word) : (g.wrS c v).exm = g.exm := rfl
@[simp] theorem Group.wrS_pth (g : Group) (c : BitVec 7) (v : Word) : (g.wrS c v).pth = g.pth := rfl
@[simp] theorem Group.wrS_live (g : Group) (c : BitVec 7) (v : Word) : (g.wrS c v).live = g.live := rfl
@[simp] theorem Group.wrS_hlp (g : Group) (c : BitVec 7) (v : Word) : (g.wrS c v).hlp = g.hlp := rfl
@[simp] theorem Group.wrS_J (g : Group) (c : BitVec 7) (v : Word) : (g.wrS c v).J = g.J := rfl
@[simp] theorem Group.wrS_holds (g : Group) (c : BitVec 7) (v : Word) : (g.wrS c v).holds = g.holds := rfl
@[simp] theorem Group.wrS_conts (g : Group) (c : BitVec 7) (v : Word) : (g.wrS c v).conts = g.conts := rfl
@[simp] theorem Group.wrS_reenter (g : Group) (c : BitVec 7) (v : Word) : (g.wrS c v).reenter = g.reenter := rfl
@[simp] theorem Group.wrS_brd (g : Group) (c : BitVec 7) (v : Word) : (g.wrS c v).brd = g.brd := rfl
@[simp] theorem Group.wrS_ih (g : Group) (c : BitVec 7) (v : Word) : (g.wrS c v).ih = g.ih := rfl
@[simp] theorem Group.wrS_fcla (g : Group) (c : BitVec 7) (v : Word) : (g.wrS c v).fcla = g.fcla := rfl
@[simp] theorem Group.wrS_fres (g : Group) (c : BitVec 7) (v : Word) : (g.wrS c v).fres = g.fres := rfl
@[simp] theorem Group.wrS_fcau (g : Group) (c : BitVec 7) (v : Word) : (g.wrS c v).fcau = g.fcau := rfl
@[simp] theorem Group.wrS_fln (g : Group) (c : BitVec 7) (v : Word) : (g.wrS c v).fln = g.fln := rfl
@[simp] theorem Group.wrS_fex (g : Group) (c : BitVec 7) (v : Word) : (g.wrS c v).fex = g.fex := rfl
@[simp] theorem Group.wrS_fbv (g : Group) (c : BitVec 7) (v : Word) : (g.wrS c v).fbv = g.fbv := rfl
@[simp] theorem Group.wrS_fbs (g : Group) (c : BitVec 7) (v : Word) : (g.wrS c v).fbs = g.fbs := rfl
@[simp] theorem Group.wrS_foff (g : Group) (c : BitVec 7) (v : Word) : (g.wrS c v).foff = g.foff := rfl
@[simp] theorem Group.wrS_frec (g : Group) (c : BitVec 7) (v : Word) : (g.wrS c v).frec = g.frec := rfl
@[simp] theorem Group.wrS_forg (g : Group) (c : BitVec 7) (v : Word) : (g.wrS c v).forg = g.forg := rfl
@[simp] theorem Group.wrS_cychL (g : Group) (c : BitVec 7) (v : Word) : (g.wrS c v).cychL = g.cychL := rfl
@[simp] theorem Group.wrS_age (g : Group) (c : BitVec 7) (v : Word) : (g.wrS c v).age = g.age := rfl
@[simp] theorem Group.wrS_waited (g : Group) (c : BitVec 7) (v : Word) : (g.wrS c v).waited = g.waited := rfl
@[simp] theorem Group.wrS_yielding (g : Group) (c : BitVec 7) (v : Word) : (g.wrS c v).yielding = g.yielding := rfl
@[simp] theorem Group.wrS_yieldTo (g : Group) (c : BitVec 7) (v : Word) : (g.wrS c v).yieldTo = g.yieldTo := rfl
@[simp] theorem Group.wrS_park (g : Group) (c : BitVec 7) (v : Word) : (g.wrS c v).park = g.park := rfl
@[simp] theorem Group.wrS_afresh (g : Group) (c : BitVec 7) (v : Word) : (g.wrS c v).afresh = g.afresh := rfl
@[simp] theorem Group.wrS_sfq (g : Group) (c : BitVec 7) (v : Word) : (g.wrS c v).sfq = g.sfq := rfl
@[simp] theorem Group.wrS_spill (g : Group) (c : BitVec 7) (v : Word) : (g.wrS c v).spill = g.spill := rfl
@[simp] theorem Group.wrS_spillTags (g : Group) (c : BitVec 7) (v : Word) : (g.wrS c v).spillTags = g.spillTags := rfl
@[simp] theorem Group.wrS_owed (g : Group) (c : BitVec 7) (v : Word) : (g.wrS c v).owed = g.owed := rfl
@[simp] theorem Group.wrS_dfaults (g : Group) (c : BitVec 7) (v : Word) : (g.wrS c v).dfaults = g.dfaults := rfl
@[simp] theorem Group.wrS_nSpawn (g : Group) (c : BitVec 7) (v : Word) : (g.wrS c v).nSpawn = g.nSpawn := rfl
@[simp] theorem Group.wrS_nAlloc (g : Group) (c : BitVec 7) (v : Word) : (g.wrS c v).nAlloc = g.nAlloc := rfl
@[simp] theorem Group.wrS_nDefer (g : Group) (c : BitVec 7) (v : Word) : (g.wrS c v).nDefer = g.nDefer := rfl
@[simp] theorem Group.wrS_nIssued (g : Group) (c : BitVec 7) (v : Word) : (g.wrS c v).nIssued = g.nIssued := rfl
@[simp] theorem Group.wrS_readFrom (g : Group) (c : BitVec 7) (v : Word) : (g.wrS c v).readFrom = g.readFrom := rfl
@[simp] theorem Group.wrS_ties (g : Group) (c : BitVec 7) (v : Word) : (g.wrS c v).ties = g.ties := rfl
@[simp] theorem Group.wrS_sigw (g : Group) (c : BitVec 7) (v : Word) : (g.wrS c v).sigw = g.sigw := rfl
@[simp] theorem Group.wrS_traps (g : Group) (c : BitVec 7) (v : Word) : (g.wrS c v).traps = g.traps := rfl
@[simp] theorem Group.wrM_cx (g : Group) (m : BitVec 4) (v : Word64) : (g.wrM m v).cx = g.cx := rfl
@[simp] theorem Group.wrM_grid (g : Group) (m : BitVec 4) (v : Word64) : (g.wrM m v).grid = g.grid := rfl
@[simp] theorem Group.wrM_block (g : Group) (m : BitVec 4) (v : Word64) : (g.wrM m v).block = g.block := rfl
@[simp] theorem Group.wrM_gidx (g : Group) (m : BitVec 4) (v : Word64) : (g.wrM m v).gidx = g.gidx := rfl
@[simp] theorem Group.wrM_outrider (g : Group) (m : BitVec 4) (v : Word64) : (g.wrM m v).outrider = g.outrider := rfl
@[simp] theorem Group.wrM_width (g : Group) (m : BitVec 4) (v : Word64) : (g.wrM m v).width = g.width := rfl
@[simp] theorem Group.wrM_nregs (g : Group) (m : BitVec 4) (v : Word64) : (g.wrM m v).nregs = g.nregs := rfl
@[simp] theorem Group.wrM_sblk (g : Group) (m : BitVec 4) (v : Word64) : (g.wrM m v).sblk = g.sblk := rfl
@[simp] theorem Group.wrM_spillBytes (g : Group) (m : BitVec 4) (v : Word64) : (g.wrM m v).spillBytes = g.spillBytes := rfl
@[simp] theorem Group.wrM_core (g : Group) (m : BitVec 4) (v : Word64) : (g.wrM m v).core = g.core := rfl
@[simp] theorem Group.wrM_slice (g : Group) (m : BitVec 4) (v : Word64) : (g.wrM m v).slice = g.slice := rfl
@[simp] theorem Group.wrM_pipe (g : Group) (m : BitVec 4) (v : Word64) : (g.wrM m v).pipe = g.pipe := rfl
@[simp] theorem Group.wrM_prio (g : Group) (m : BitVec 4) (v : Word64) : (g.wrM m v).prio = g.prio := rfl
@[simp] theorem Group.wrM_img (g : Group) (m : BitVec 4) (v : Word64) : (g.wrM m v).img = g.img := rfl
@[simp] theorem Group.wrM_hoff (g : Group) (m : BitVec 4) (v : Word64) : (g.wrM m v).hoff = g.hoff := rfl
@[simp] theorem Group.wrM_codeEnd (g : Group) (m : BitVec 4) (v : Word64) : (g.wrM m v).codeEnd = g.codeEnd := rfl
@[simp] theorem Group.wrM_status (g : Group) (m : BitVec 4) (v : Word64) : (g.wrM m v).status = g.status := rfl
@[simp] theorem Group.wrM_saved (g : Group) (m : BitVec 4) (v : Word64) : (g.wrM m v).saved = g.saved := rfl
@[simp] theorem Group.wrM_pc (g : Group) (m : BitVec 4) (v : Word64) : (g.wrM m v).pc = g.pc := rfl
@[simp] theorem Group.wrM_cla (g : Group) (m : BitVec 4) (v : Word64) : (g.wrM m v).cla = g.cla := rfl
@[simp] theorem Group.wrM_cend (g : Group) (m : BitVec 4) (v : Word64) : (g.wrM m v).cend = g.cend := rfl
@[simp] theorem Group.wrM_seta (g : Group) (m : BitVec 4) (v : Word64) : (g.wrM m v).seta = g.seta := rfl
@[simp] theorem Group.wrM_setb (g : Group) (m : BitVec 4) (v : Word64) : (g.wrM m v).setb = g.setb := rfl
@[simp] theorem Group.wrM_yld (g : Group) (m : BitVec 4) (v : Word64) : (g.wrM m v).yld = g.yld := rfl
@[simp] theorem Group.wrM_V (g : Group) (m : BitVec 4) (v : Word64) : (g.wrM m v).V = g.V := rfl
@[simp] theorem Group.wrM_Q (g : Group) (m : BitVec 4) (v : Word64) : (g.wrM m v).Q = g.Q := rfl
@[simp] theorem Group.wrM_fl (g : Group) (m : BitVec 4) (v : Word64) : (g.wrM m v).fl = g.fl := rfl
@[simp] theorem Group.wrM_S (g : Group) (m : BitVec 4) (v : Word64) : (g.wrM m v).S = g.S := rfl
@[simp] theorem Group.wrM_K (g : Group) (m : BitVec 4) (v : Word64) : (g.wrM m v).K = g.K := rfl
@[simp] theorem Group.wrM_F (g : Group) (m : BitVec 4) (v : Word64) : (g.wrM m v).F = g.F := rfl
@[simp] theorem Group.wrM_bv (g : Group) (m : BitVec 4) (v : Word64) : (g.wrM m v).bv = g.bv := rfl
@[simp] theorem Group.wrM_bs (g : Group) (m : BitVec 4) (v : Word64) : (g.wrM m v).bs = g.bs := rfl
@[simp] theorem Group.wrM_nbv (g : Group) (m : BitVec 4) (v : Word64) : (g.wrM m v).nbv = g.nbv := rfl
@[simp] theorem Group.wrM_nbs (g : Group) (m : BitVec 4) (v : Word64) : (g.wrM m v).nbs = g.nbs := rfl
@[simp] theorem Group.wrM_exm (g : Group) (m : BitVec 4) (v : Word64) : (g.wrM m v).exm = g.exm := rfl
@[simp] theorem Group.wrM_pth (g : Group) (m : BitVec 4) (v : Word64) : (g.wrM m v).pth = g.pth := rfl
@[simp] theorem Group.wrM_live (g : Group) (m : BitVec 4) (v : Word64) : (g.wrM m v).live = g.live := rfl
@[simp] theorem Group.wrM_hlp (g : Group) (m : BitVec 4) (v : Word64) : (g.wrM m v).hlp = g.hlp := rfl
@[simp] theorem Group.wrM_J (g : Group) (m : BitVec 4) (v : Word64) : (g.wrM m v).J = g.J := rfl
@[simp] theorem Group.wrM_holds (g : Group) (m : BitVec 4) (v : Word64) : (g.wrM m v).holds = g.holds := rfl
@[simp] theorem Group.wrM_conts (g : Group) (m : BitVec 4) (v : Word64) : (g.wrM m v).conts = g.conts := rfl
@[simp] theorem Group.wrM_reenter (g : Group) (m : BitVec 4) (v : Word64) : (g.wrM m v).reenter = g.reenter := rfl
@[simp] theorem Group.wrM_brd (g : Group) (m : BitVec 4) (v : Word64) : (g.wrM m v).brd = g.brd := rfl
@[simp] theorem Group.wrM_ih (g : Group) (m : BitVec 4) (v : Word64) : (g.wrM m v).ih = g.ih := rfl
@[simp] theorem Group.wrM_fcla (g : Group) (m : BitVec 4) (v : Word64) : (g.wrM m v).fcla = g.fcla := rfl
@[simp] theorem Group.wrM_fres (g : Group) (m : BitVec 4) (v : Word64) : (g.wrM m v).fres = g.fres := rfl
@[simp] theorem Group.wrM_fcau (g : Group) (m : BitVec 4) (v : Word64) : (g.wrM m v).fcau = g.fcau := rfl
@[simp] theorem Group.wrM_fln (g : Group) (m : BitVec 4) (v : Word64) : (g.wrM m v).fln = g.fln := rfl
@[simp] theorem Group.wrM_fex (g : Group) (m : BitVec 4) (v : Word64) : (g.wrM m v).fex = g.fex := rfl
@[simp] theorem Group.wrM_fbv (g : Group) (m : BitVec 4) (v : Word64) : (g.wrM m v).fbv = g.fbv := rfl
@[simp] theorem Group.wrM_fbs (g : Group) (m : BitVec 4) (v : Word64) : (g.wrM m v).fbs = g.fbs := rfl
@[simp] theorem Group.wrM_foff (g : Group) (m : BitVec 4) (v : Word64) : (g.wrM m v).foff = g.foff := rfl
@[simp] theorem Group.wrM_frec (g : Group) (m : BitVec 4) (v : Word64) : (g.wrM m v).frec = g.frec := rfl
@[simp] theorem Group.wrM_forg (g : Group) (m : BitVec 4) (v : Word64) : (g.wrM m v).forg = g.forg := rfl
@[simp] theorem Group.wrM_cychL (g : Group) (m : BitVec 4) (v : Word64) : (g.wrM m v).cychL = g.cychL := rfl
@[simp] theorem Group.wrM_age (g : Group) (m : BitVec 4) (v : Word64) : (g.wrM m v).age = g.age := rfl
@[simp] theorem Group.wrM_waited (g : Group) (m : BitVec 4) (v : Word64) : (g.wrM m v).waited = g.waited := rfl
@[simp] theorem Group.wrM_yielding (g : Group) (m : BitVec 4) (v : Word64) : (g.wrM m v).yielding = g.yielding := rfl
@[simp] theorem Group.wrM_yieldTo (g : Group) (m : BitVec 4) (v : Word64) : (g.wrM m v).yieldTo = g.yieldTo := rfl
@[simp] theorem Group.wrM_park (g : Group) (m : BitVec 4) (v : Word64) : (g.wrM m v).park = g.park := rfl
@[simp] theorem Group.wrM_afresh (g : Group) (m : BitVec 4) (v : Word64) : (g.wrM m v).afresh = g.afresh := rfl
@[simp] theorem Group.wrM_sfq (g : Group) (m : BitVec 4) (v : Word64) : (g.wrM m v).sfq = g.sfq := rfl
@[simp] theorem Group.wrM_spill (g : Group) (m : BitVec 4) (v : Word64) : (g.wrM m v).spill = g.spill := rfl
@[simp] theorem Group.wrM_spillTags (g : Group) (m : BitVec 4) (v : Word64) : (g.wrM m v).spillTags = g.spillTags := rfl
@[simp] theorem Group.wrM_owed (g : Group) (m : BitVec 4) (v : Word64) : (g.wrM m v).owed = g.owed := rfl
@[simp] theorem Group.wrM_dfaults (g : Group) (m : BitVec 4) (v : Word64) : (g.wrM m v).dfaults = g.dfaults := rfl
@[simp] theorem Group.wrM_nSpawn (g : Group) (m : BitVec 4) (v : Word64) : (g.wrM m v).nSpawn = g.nSpawn := rfl
@[simp] theorem Group.wrM_nAlloc (g : Group) (m : BitVec 4) (v : Word64) : (g.wrM m v).nAlloc = g.nAlloc := rfl
@[simp] theorem Group.wrM_nDefer (g : Group) (m : BitVec 4) (v : Word64) : (g.wrM m v).nDefer = g.nDefer := rfl
@[simp] theorem Group.wrM_nIssued (g : Group) (m : BitVec 4) (v : Word64) : (g.wrM m v).nIssued = g.nIssued := rfl
@[simp] theorem Group.wrM_readFrom (g : Group) (m : BitVec 4) (v : Word64) : (g.wrM m v).readFrom = g.readFrom := rfl
@[simp] theorem Group.wrM_ties (g : Group) (m : BitVec 4) (v : Word64) : (g.wrM m v).ties = g.ties := rfl
@[simp] theorem Group.wrM_sigw (g : Group) (m : BitVec 4) (v : Word64) : (g.wrM m v).sigw = g.sigw := rfl
@[simp] theorem Group.wrM_traps (g : Group) (m : BitVec 4) (v : Word64) : (g.wrM m v).traps = g.traps := rfl
@[simp] theorem Group.wrK_cx (g : Group) (m : BitVec 4) (v : BitVec 256) : (g.wrK m v).cx = g.cx := rfl
@[simp] theorem Group.wrK_grid (g : Group) (m : BitVec 4) (v : BitVec 256) : (g.wrK m v).grid = g.grid := rfl
@[simp] theorem Group.wrK_block (g : Group) (m : BitVec 4) (v : BitVec 256) : (g.wrK m v).block = g.block := rfl
@[simp] theorem Group.wrK_gidx (g : Group) (m : BitVec 4) (v : BitVec 256) : (g.wrK m v).gidx = g.gidx := rfl
@[simp] theorem Group.wrK_outrider (g : Group) (m : BitVec 4) (v : BitVec 256) : (g.wrK m v).outrider = g.outrider := rfl
@[simp] theorem Group.wrK_width (g : Group) (m : BitVec 4) (v : BitVec 256) : (g.wrK m v).width = g.width := rfl
@[simp] theorem Group.wrK_nregs (g : Group) (m : BitVec 4) (v : BitVec 256) : (g.wrK m v).nregs = g.nregs := rfl
@[simp] theorem Group.wrK_sblk (g : Group) (m : BitVec 4) (v : BitVec 256) : (g.wrK m v).sblk = g.sblk := rfl
@[simp] theorem Group.wrK_spillBytes (g : Group) (m : BitVec 4) (v : BitVec 256) : (g.wrK m v).spillBytes = g.spillBytes := rfl
@[simp] theorem Group.wrK_core (g : Group) (m : BitVec 4) (v : BitVec 256) : (g.wrK m v).core = g.core := rfl
@[simp] theorem Group.wrK_slice (g : Group) (m : BitVec 4) (v : BitVec 256) : (g.wrK m v).slice = g.slice := rfl
@[simp] theorem Group.wrK_pipe (g : Group) (m : BitVec 4) (v : BitVec 256) : (g.wrK m v).pipe = g.pipe := rfl
@[simp] theorem Group.wrK_prio (g : Group) (m : BitVec 4) (v : BitVec 256) : (g.wrK m v).prio = g.prio := rfl
@[simp] theorem Group.wrK_img (g : Group) (m : BitVec 4) (v : BitVec 256) : (g.wrK m v).img = g.img := rfl
@[simp] theorem Group.wrK_hoff (g : Group) (m : BitVec 4) (v : BitVec 256) : (g.wrK m v).hoff = g.hoff := rfl
@[simp] theorem Group.wrK_codeEnd (g : Group) (m : BitVec 4) (v : BitVec 256) : (g.wrK m v).codeEnd = g.codeEnd := rfl
@[simp] theorem Group.wrK_status (g : Group) (m : BitVec 4) (v : BitVec 256) : (g.wrK m v).status = g.status := rfl
@[simp] theorem Group.wrK_saved (g : Group) (m : BitVec 4) (v : BitVec 256) : (g.wrK m v).saved = g.saved := rfl
@[simp] theorem Group.wrK_pc (g : Group) (m : BitVec 4) (v : BitVec 256) : (g.wrK m v).pc = g.pc := rfl
@[simp] theorem Group.wrK_cla (g : Group) (m : BitVec 4) (v : BitVec 256) : (g.wrK m v).cla = g.cla := rfl
@[simp] theorem Group.wrK_cend (g : Group) (m : BitVec 4) (v : BitVec 256) : (g.wrK m v).cend = g.cend := rfl
@[simp] theorem Group.wrK_seta (g : Group) (m : BitVec 4) (v : BitVec 256) : (g.wrK m v).seta = g.seta := rfl
@[simp] theorem Group.wrK_setb (g : Group) (m : BitVec 4) (v : BitVec 256) : (g.wrK m v).setb = g.setb := rfl
@[simp] theorem Group.wrK_yld (g : Group) (m : BitVec 4) (v : BitVec 256) : (g.wrK m v).yld = g.yld := rfl
@[simp] theorem Group.wrK_V (g : Group) (m : BitVec 4) (v : BitVec 256) : (g.wrK m v).V = g.V := rfl
@[simp] theorem Group.wrK_Q (g : Group) (m : BitVec 4) (v : BitVec 256) : (g.wrK m v).Q = g.Q := rfl
@[simp] theorem Group.wrK_fl (g : Group) (m : BitVec 4) (v : BitVec 256) : (g.wrK m v).fl = g.fl := rfl
@[simp] theorem Group.wrK_S (g : Group) (m : BitVec 4) (v : BitVec 256) : (g.wrK m v).S = g.S := rfl
@[simp] theorem Group.wrK_M (g : Group) (m : BitVec 4) (v : BitVec 256) : (g.wrK m v).M = g.M := rfl
@[simp] theorem Group.wrK_F (g : Group) (m : BitVec 4) (v : BitVec 256) : (g.wrK m v).F = g.F := rfl
@[simp] theorem Group.wrK_bv (g : Group) (m : BitVec 4) (v : BitVec 256) : (g.wrK m v).bv = g.bv := rfl
@[simp] theorem Group.wrK_bs (g : Group) (m : BitVec 4) (v : BitVec 256) : (g.wrK m v).bs = g.bs := rfl
@[simp] theorem Group.wrK_nbv (g : Group) (m : BitVec 4) (v : BitVec 256) : (g.wrK m v).nbv = g.nbv := rfl
@[simp] theorem Group.wrK_nbs (g : Group) (m : BitVec 4) (v : BitVec 256) : (g.wrK m v).nbs = g.nbs := rfl
@[simp] theorem Group.wrK_exm (g : Group) (m : BitVec 4) (v : BitVec 256) : (g.wrK m v).exm = g.exm := rfl
@[simp] theorem Group.wrK_pth (g : Group) (m : BitVec 4) (v : BitVec 256) : (g.wrK m v).pth = g.pth := rfl
@[simp] theorem Group.wrK_live (g : Group) (m : BitVec 4) (v : BitVec 256) : (g.wrK m v).live = g.live := rfl
@[simp] theorem Group.wrK_hlp (g : Group) (m : BitVec 4) (v : BitVec 256) : (g.wrK m v).hlp = g.hlp := rfl
@[simp] theorem Group.wrK_J (g : Group) (m : BitVec 4) (v : BitVec 256) : (g.wrK m v).J = g.J := rfl
@[simp] theorem Group.wrK_holds (g : Group) (m : BitVec 4) (v : BitVec 256) : (g.wrK m v).holds = g.holds := rfl
@[simp] theorem Group.wrK_conts (g : Group) (m : BitVec 4) (v : BitVec 256) : (g.wrK m v).conts = g.conts := rfl
@[simp] theorem Group.wrK_reenter (g : Group) (m : BitVec 4) (v : BitVec 256) : (g.wrK m v).reenter = g.reenter := rfl
@[simp] theorem Group.wrK_brd (g : Group) (m : BitVec 4) (v : BitVec 256) : (g.wrK m v).brd = g.brd := rfl
@[simp] theorem Group.wrK_ih (g : Group) (m : BitVec 4) (v : BitVec 256) : (g.wrK m v).ih = g.ih := rfl
@[simp] theorem Group.wrK_fcla (g : Group) (m : BitVec 4) (v : BitVec 256) : (g.wrK m v).fcla = g.fcla := rfl
@[simp] theorem Group.wrK_fres (g : Group) (m : BitVec 4) (v : BitVec 256) : (g.wrK m v).fres = g.fres := rfl
@[simp] theorem Group.wrK_fcau (g : Group) (m : BitVec 4) (v : BitVec 256) : (g.wrK m v).fcau = g.fcau := rfl
@[simp] theorem Group.wrK_fln (g : Group) (m : BitVec 4) (v : BitVec 256) : (g.wrK m v).fln = g.fln := rfl
@[simp] theorem Group.wrK_fex (g : Group) (m : BitVec 4) (v : BitVec 256) : (g.wrK m v).fex = g.fex := rfl
@[simp] theorem Group.wrK_fbv (g : Group) (m : BitVec 4) (v : BitVec 256) : (g.wrK m v).fbv = g.fbv := rfl
@[simp] theorem Group.wrK_fbs (g : Group) (m : BitVec 4) (v : BitVec 256) : (g.wrK m v).fbs = g.fbs := rfl
@[simp] theorem Group.wrK_foff (g : Group) (m : BitVec 4) (v : BitVec 256) : (g.wrK m v).foff = g.foff := rfl
@[simp] theorem Group.wrK_frec (g : Group) (m : BitVec 4) (v : BitVec 256) : (g.wrK m v).frec = g.frec := rfl
@[simp] theorem Group.wrK_forg (g : Group) (m : BitVec 4) (v : BitVec 256) : (g.wrK m v).forg = g.forg := rfl
@[simp] theorem Group.wrK_cychL (g : Group) (m : BitVec 4) (v : BitVec 256) : (g.wrK m v).cychL = g.cychL := rfl
@[simp] theorem Group.wrK_age (g : Group) (m : BitVec 4) (v : BitVec 256) : (g.wrK m v).age = g.age := rfl
@[simp] theorem Group.wrK_waited (g : Group) (m : BitVec 4) (v : BitVec 256) : (g.wrK m v).waited = g.waited := rfl
@[simp] theorem Group.wrK_yielding (g : Group) (m : BitVec 4) (v : BitVec 256) : (g.wrK m v).yielding = g.yielding := rfl
@[simp] theorem Group.wrK_yieldTo (g : Group) (m : BitVec 4) (v : BitVec 256) : (g.wrK m v).yieldTo = g.yieldTo := rfl
@[simp] theorem Group.wrK_park (g : Group) (m : BitVec 4) (v : BitVec 256) : (g.wrK m v).park = g.park := rfl
@[simp] theorem Group.wrK_afresh (g : Group) (m : BitVec 4) (v : BitVec 256) : (g.wrK m v).afresh = g.afresh := rfl
@[simp] theorem Group.wrK_sfq (g : Group) (m : BitVec 4) (v : BitVec 256) : (g.wrK m v).sfq = g.sfq := rfl
@[simp] theorem Group.wrK_spill (g : Group) (m : BitVec 4) (v : BitVec 256) : (g.wrK m v).spill = g.spill := rfl
@[simp] theorem Group.wrK_spillTags (g : Group) (m : BitVec 4) (v : BitVec 256) : (g.wrK m v).spillTags = g.spillTags := rfl
@[simp] theorem Group.wrK_owed (g : Group) (m : BitVec 4) (v : BitVec 256) : (g.wrK m v).owed = g.owed := rfl
@[simp] theorem Group.wrK_dfaults (g : Group) (m : BitVec 4) (v : BitVec 256) : (g.wrK m v).dfaults = g.dfaults := rfl
@[simp] theorem Group.wrK_nSpawn (g : Group) (m : BitVec 4) (v : BitVec 256) : (g.wrK m v).nSpawn = g.nSpawn := rfl
@[simp] theorem Group.wrK_nAlloc (g : Group) (m : BitVec 4) (v : BitVec 256) : (g.wrK m v).nAlloc = g.nAlloc := rfl
@[simp] theorem Group.wrK_nDefer (g : Group) (m : BitVec 4) (v : BitVec 256) : (g.wrK m v).nDefer = g.nDefer := rfl
@[simp] theorem Group.wrK_nIssued (g : Group) (m : BitVec 4) (v : BitVec 256) : (g.wrK m v).nIssued = g.nIssued := rfl
@[simp] theorem Group.wrK_readFrom (g : Group) (m : BitVec 4) (v : BitVec 256) : (g.wrK m v).readFrom = g.readFrom := rfl
@[simp] theorem Group.wrK_ties (g : Group) (m : BitVec 4) (v : BitVec 256) : (g.wrK m v).ties = g.ties := rfl
@[simp] theorem Group.wrK_sigw (g : Group) (m : BitVec 4) (v : BitVec 256) : (g.wrK m v).sigw = g.sigw := rfl
@[simp] theorem Group.wrK_traps (g : Group) (m : BitVec 4) (v : BitVec 256) : (g.wrK m v).traps = g.traps := rfl
@[simp] theorem Group.vset_cx (g : Group) (n l : Nat) (v : Word) : (g.vset n l v).cx = g.cx := rfl
@[simp] theorem Group.vset_grid (g : Group) (n l : Nat) (v : Word) : (g.vset n l v).grid = g.grid := rfl
@[simp] theorem Group.vset_block (g : Group) (n l : Nat) (v : Word) : (g.vset n l v).block = g.block := rfl
@[simp] theorem Group.vset_gidx (g : Group) (n l : Nat) (v : Word) : (g.vset n l v).gidx = g.gidx := rfl
@[simp] theorem Group.vset_outrider (g : Group) (n l : Nat) (v : Word) : (g.vset n l v).outrider = g.outrider := rfl
@[simp] theorem Group.vset_width (g : Group) (n l : Nat) (v : Word) : (g.vset n l v).width = g.width := rfl
@[simp] theorem Group.vset_nregs (g : Group) (n l : Nat) (v : Word) : (g.vset n l v).nregs = g.nregs := rfl
@[simp] theorem Group.vset_sblk (g : Group) (n l : Nat) (v : Word) : (g.vset n l v).sblk = g.sblk := rfl
@[simp] theorem Group.vset_spillBytes (g : Group) (n l : Nat) (v : Word) : (g.vset n l v).spillBytes = g.spillBytes := rfl
@[simp] theorem Group.vset_core (g : Group) (n l : Nat) (v : Word) : (g.vset n l v).core = g.core := rfl
@[simp] theorem Group.vset_slice (g : Group) (n l : Nat) (v : Word) : (g.vset n l v).slice = g.slice := rfl
@[simp] theorem Group.vset_pipe (g : Group) (n l : Nat) (v : Word) : (g.vset n l v).pipe = g.pipe := rfl
@[simp] theorem Group.vset_prio (g : Group) (n l : Nat) (v : Word) : (g.vset n l v).prio = g.prio := rfl
@[simp] theorem Group.vset_img (g : Group) (n l : Nat) (v : Word) : (g.vset n l v).img = g.img := rfl
@[simp] theorem Group.vset_hoff (g : Group) (n l : Nat) (v : Word) : (g.vset n l v).hoff = g.hoff := rfl
@[simp] theorem Group.vset_codeEnd (g : Group) (n l : Nat) (v : Word) : (g.vset n l v).codeEnd = g.codeEnd := rfl
@[simp] theorem Group.vset_status (g : Group) (n l : Nat) (v : Word) : (g.vset n l v).status = g.status := rfl
@[simp] theorem Group.vset_saved (g : Group) (n l : Nat) (v : Word) : (g.vset n l v).saved = g.saved := rfl
@[simp] theorem Group.vset_pc (g : Group) (n l : Nat) (v : Word) : (g.vset n l v).pc = g.pc := rfl
@[simp] theorem Group.vset_cla (g : Group) (n l : Nat) (v : Word) : (g.vset n l v).cla = g.cla := rfl
@[simp] theorem Group.vset_cend (g : Group) (n l : Nat) (v : Word) : (g.vset n l v).cend = g.cend := rfl
@[simp] theorem Group.vset_seta (g : Group) (n l : Nat) (v : Word) : (g.vset n l v).seta = g.seta := rfl
@[simp] theorem Group.vset_setb (g : Group) (n l : Nat) (v : Word) : (g.vset n l v).setb = g.setb := rfl
@[simp] theorem Group.vset_yld (g : Group) (n l : Nat) (v : Word) : (g.vset n l v).yld = g.yld := rfl
@[simp] theorem Group.vset_Q (g : Group) (n l : Nat) (v : Word) : (g.vset n l v).Q = g.Q := rfl
@[simp] theorem Group.vset_fl (g : Group) (n l : Nat) (v : Word) : (g.vset n l v).fl = g.fl := rfl
@[simp] theorem Group.vset_S (g : Group) (n l : Nat) (v : Word) : (g.vset n l v).S = g.S := rfl
@[simp] theorem Group.vset_M (g : Group) (n l : Nat) (v : Word) : (g.vset n l v).M = g.M := rfl
@[simp] theorem Group.vset_K (g : Group) (n l : Nat) (v : Word) : (g.vset n l v).K = g.K := rfl
@[simp] theorem Group.vset_F (g : Group) (n l : Nat) (v : Word) : (g.vset n l v).F = g.F := rfl
@[simp] theorem Group.vset_bv (g : Group) (n l : Nat) (v : Word) : (g.vset n l v).bv = g.bv := rfl
@[simp] theorem Group.vset_bs (g : Group) (n l : Nat) (v : Word) : (g.vset n l v).bs = g.bs := rfl
@[simp] theorem Group.vset_nbv (g : Group) (n l : Nat) (v : Word) : (g.vset n l v).nbv = g.nbv := rfl
@[simp] theorem Group.vset_nbs (g : Group) (n l : Nat) (v : Word) : (g.vset n l v).nbs = g.nbs := rfl
@[simp] theorem Group.vset_exm (g : Group) (n l : Nat) (v : Word) : (g.vset n l v).exm = g.exm := rfl
@[simp] theorem Group.vset_pth (g : Group) (n l : Nat) (v : Word) : (g.vset n l v).pth = g.pth := rfl
@[simp] theorem Group.vset_live (g : Group) (n l : Nat) (v : Word) : (g.vset n l v).live = g.live := rfl
@[simp] theorem Group.vset_hlp (g : Group) (n l : Nat) (v : Word) : (g.vset n l v).hlp = g.hlp := rfl
@[simp] theorem Group.vset_J (g : Group) (n l : Nat) (v : Word) : (g.vset n l v).J = g.J := rfl
@[simp] theorem Group.vset_holds (g : Group) (n l : Nat) (v : Word) : (g.vset n l v).holds = g.holds := rfl
@[simp] theorem Group.vset_conts (g : Group) (n l : Nat) (v : Word) : (g.vset n l v).conts = g.conts := rfl
@[simp] theorem Group.vset_reenter (g : Group) (n l : Nat) (v : Word) : (g.vset n l v).reenter = g.reenter := rfl
@[simp] theorem Group.vset_brd (g : Group) (n l : Nat) (v : Word) : (g.vset n l v).brd = g.brd := rfl
@[simp] theorem Group.vset_ih (g : Group) (n l : Nat) (v : Word) : (g.vset n l v).ih = g.ih := rfl
@[simp] theorem Group.vset_fcla (g : Group) (n l : Nat) (v : Word) : (g.vset n l v).fcla = g.fcla := rfl
@[simp] theorem Group.vset_fres (g : Group) (n l : Nat) (v : Word) : (g.vset n l v).fres = g.fres := rfl
@[simp] theorem Group.vset_fcau (g : Group) (n l : Nat) (v : Word) : (g.vset n l v).fcau = g.fcau := rfl
@[simp] theorem Group.vset_fln (g : Group) (n l : Nat) (v : Word) : (g.vset n l v).fln = g.fln := rfl
@[simp] theorem Group.vset_fex (g : Group) (n l : Nat) (v : Word) : (g.vset n l v).fex = g.fex := rfl
@[simp] theorem Group.vset_fbv (g : Group) (n l : Nat) (v : Word) : (g.vset n l v).fbv = g.fbv := rfl
@[simp] theorem Group.vset_fbs (g : Group) (n l : Nat) (v : Word) : (g.vset n l v).fbs = g.fbs := rfl
@[simp] theorem Group.vset_foff (g : Group) (n l : Nat) (v : Word) : (g.vset n l v).foff = g.foff := rfl
@[simp] theorem Group.vset_frec (g : Group) (n l : Nat) (v : Word) : (g.vset n l v).frec = g.frec := rfl
@[simp] theorem Group.vset_forg (g : Group) (n l : Nat) (v : Word) : (g.vset n l v).forg = g.forg := rfl
@[simp] theorem Group.vset_cychL (g : Group) (n l : Nat) (v : Word) : (g.vset n l v).cychL = g.cychL := rfl
@[simp] theorem Group.vset_age (g : Group) (n l : Nat) (v : Word) : (g.vset n l v).age = g.age := rfl
@[simp] theorem Group.vset_waited (g : Group) (n l : Nat) (v : Word) : (g.vset n l v).waited = g.waited := rfl
@[simp] theorem Group.vset_yielding (g : Group) (n l : Nat) (v : Word) : (g.vset n l v).yielding = g.yielding := rfl
@[simp] theorem Group.vset_yieldTo (g : Group) (n l : Nat) (v : Word) : (g.vset n l v).yieldTo = g.yieldTo := rfl
@[simp] theorem Group.vset_park (g : Group) (n l : Nat) (v : Word) : (g.vset n l v).park = g.park := rfl
@[simp] theorem Group.vset_afresh (g : Group) (n l : Nat) (v : Word) : (g.vset n l v).afresh = g.afresh := rfl
@[simp] theorem Group.vset_sfq (g : Group) (n l : Nat) (v : Word) : (g.vset n l v).sfq = g.sfq := rfl
@[simp] theorem Group.vset_spill (g : Group) (n l : Nat) (v : Word) : (g.vset n l v).spill = g.spill := rfl
@[simp] theorem Group.vset_spillTags (g : Group) (n l : Nat) (v : Word) : (g.vset n l v).spillTags = g.spillTags := rfl
@[simp] theorem Group.vset_owed (g : Group) (n l : Nat) (v : Word) : (g.vset n l v).owed = g.owed := rfl
@[simp] theorem Group.vset_dfaults (g : Group) (n l : Nat) (v : Word) : (g.vset n l v).dfaults = g.dfaults := rfl
@[simp] theorem Group.vset_nSpawn (g : Group) (n l : Nat) (v : Word) : (g.vset n l v).nSpawn = g.nSpawn := rfl
@[simp] theorem Group.vset_nAlloc (g : Group) (n l : Nat) (v : Word) : (g.vset n l v).nAlloc = g.nAlloc := rfl
@[simp] theorem Group.vset_nDefer (g : Group) (n l : Nat) (v : Word) : (g.vset n l v).nDefer = g.nDefer := rfl
@[simp] theorem Group.vset_nIssued (g : Group) (n l : Nat) (v : Word) : (g.vset n l v).nIssued = g.nIssued := rfl
@[simp] theorem Group.vset_readFrom (g : Group) (n l : Nat) (v : Word) : (g.vset n l v).readFrom = g.readFrom := rfl
@[simp] theorem Group.vset_ties (g : Group) (n l : Nat) (v : Word) : (g.vset n l v).ties = g.ties := rfl
@[simp] theorem Group.vset_sigw (g : Group) (n l : Nat) (v : Word) : (g.vset n l v).sigw = g.sigw := rfl
@[simp] theorem Group.vset_traps (g : Group) (n l : Nat) (v : Word) : (g.vset n l v).traps = g.traps := rfl
@[simp] theorem Group.setFlags_cx (g : Group) (l : Nat) (f : BitVec 5) : (g.setFlags l f).cx = g.cx := rfl
@[simp] theorem Group.setFlags_grid (g : Group) (l : Nat) (f : BitVec 5) : (g.setFlags l f).grid = g.grid := rfl
@[simp] theorem Group.setFlags_block (g : Group) (l : Nat) (f : BitVec 5) : (g.setFlags l f).block = g.block := rfl
@[simp] theorem Group.setFlags_gidx (g : Group) (l : Nat) (f : BitVec 5) : (g.setFlags l f).gidx = g.gidx := rfl
@[simp] theorem Group.setFlags_outrider (g : Group) (l : Nat) (f : BitVec 5) : (g.setFlags l f).outrider = g.outrider := rfl
@[simp] theorem Group.setFlags_width (g : Group) (l : Nat) (f : BitVec 5) : (g.setFlags l f).width = g.width := rfl
@[simp] theorem Group.setFlags_nregs (g : Group) (l : Nat) (f : BitVec 5) : (g.setFlags l f).nregs = g.nregs := rfl
@[simp] theorem Group.setFlags_sblk (g : Group) (l : Nat) (f : BitVec 5) : (g.setFlags l f).sblk = g.sblk := rfl
@[simp] theorem Group.setFlags_spillBytes (g : Group) (l : Nat) (f : BitVec 5) : (g.setFlags l f).spillBytes = g.spillBytes := rfl
@[simp] theorem Group.setFlags_core (g : Group) (l : Nat) (f : BitVec 5) : (g.setFlags l f).core = g.core := rfl
@[simp] theorem Group.setFlags_slice (g : Group) (l : Nat) (f : BitVec 5) : (g.setFlags l f).slice = g.slice := rfl
@[simp] theorem Group.setFlags_pipe (g : Group) (l : Nat) (f : BitVec 5) : (g.setFlags l f).pipe = g.pipe := rfl
@[simp] theorem Group.setFlags_prio (g : Group) (l : Nat) (f : BitVec 5) : (g.setFlags l f).prio = g.prio := rfl
@[simp] theorem Group.setFlags_img (g : Group) (l : Nat) (f : BitVec 5) : (g.setFlags l f).img = g.img := rfl
@[simp] theorem Group.setFlags_hoff (g : Group) (l : Nat) (f : BitVec 5) : (g.setFlags l f).hoff = g.hoff := rfl
@[simp] theorem Group.setFlags_codeEnd (g : Group) (l : Nat) (f : BitVec 5) : (g.setFlags l f).codeEnd = g.codeEnd := rfl
@[simp] theorem Group.setFlags_status (g : Group) (l : Nat) (f : BitVec 5) : (g.setFlags l f).status = g.status := rfl
@[simp] theorem Group.setFlags_saved (g : Group) (l : Nat) (f : BitVec 5) : (g.setFlags l f).saved = g.saved := rfl
@[simp] theorem Group.setFlags_pc (g : Group) (l : Nat) (f : BitVec 5) : (g.setFlags l f).pc = g.pc := rfl
@[simp] theorem Group.setFlags_cla (g : Group) (l : Nat) (f : BitVec 5) : (g.setFlags l f).cla = g.cla := rfl
@[simp] theorem Group.setFlags_cend (g : Group) (l : Nat) (f : BitVec 5) : (g.setFlags l f).cend = g.cend := rfl
@[simp] theorem Group.setFlags_seta (g : Group) (l : Nat) (f : BitVec 5) : (g.setFlags l f).seta = g.seta := rfl
@[simp] theorem Group.setFlags_setb (g : Group) (l : Nat) (f : BitVec 5) : (g.setFlags l f).setb = g.setb := rfl
@[simp] theorem Group.setFlags_yld (g : Group) (l : Nat) (f : BitVec 5) : (g.setFlags l f).yld = g.yld := rfl
@[simp] theorem Group.setFlags_V (g : Group) (l : Nat) (f : BitVec 5) : (g.setFlags l f).V = g.V := rfl
@[simp] theorem Group.setFlags_Q (g : Group) (l : Nat) (f : BitVec 5) : (g.setFlags l f).Q = g.Q := rfl
@[simp] theorem Group.setFlags_S (g : Group) (l : Nat) (f : BitVec 5) : (g.setFlags l f).S = g.S := rfl
@[simp] theorem Group.setFlags_M (g : Group) (l : Nat) (f : BitVec 5) : (g.setFlags l f).M = g.M := rfl
@[simp] theorem Group.setFlags_K (g : Group) (l : Nat) (f : BitVec 5) : (g.setFlags l f).K = g.K := rfl
@[simp] theorem Group.setFlags_F (g : Group) (l : Nat) (f : BitVec 5) : (g.setFlags l f).F = g.F := rfl
@[simp] theorem Group.setFlags_bv (g : Group) (l : Nat) (f : BitVec 5) : (g.setFlags l f).bv = g.bv := rfl
@[simp] theorem Group.setFlags_bs (g : Group) (l : Nat) (f : BitVec 5) : (g.setFlags l f).bs = g.bs := rfl
@[simp] theorem Group.setFlags_nbv (g : Group) (l : Nat) (f : BitVec 5) : (g.setFlags l f).nbv = g.nbv := rfl
@[simp] theorem Group.setFlags_nbs (g : Group) (l : Nat) (f : BitVec 5) : (g.setFlags l f).nbs = g.nbs := rfl
@[simp] theorem Group.setFlags_exm (g : Group) (l : Nat) (f : BitVec 5) : (g.setFlags l f).exm = g.exm := rfl
@[simp] theorem Group.setFlags_pth (g : Group) (l : Nat) (f : BitVec 5) : (g.setFlags l f).pth = g.pth := rfl
@[simp] theorem Group.setFlags_live (g : Group) (l : Nat) (f : BitVec 5) : (g.setFlags l f).live = g.live := rfl
@[simp] theorem Group.setFlags_hlp (g : Group) (l : Nat) (f : BitVec 5) : (g.setFlags l f).hlp = g.hlp := rfl
@[simp] theorem Group.setFlags_J (g : Group) (l : Nat) (f : BitVec 5) : (g.setFlags l f).J = g.J := rfl
@[simp] theorem Group.setFlags_holds (g : Group) (l : Nat) (f : BitVec 5) : (g.setFlags l f).holds = g.holds := rfl
@[simp] theorem Group.setFlags_conts (g : Group) (l : Nat) (f : BitVec 5) : (g.setFlags l f).conts = g.conts := rfl
@[simp] theorem Group.setFlags_reenter (g : Group) (l : Nat) (f : BitVec 5) : (g.setFlags l f).reenter = g.reenter := rfl
@[simp] theorem Group.setFlags_brd (g : Group) (l : Nat) (f : BitVec 5) : (g.setFlags l f).brd = g.brd := rfl
@[simp] theorem Group.setFlags_ih (g : Group) (l : Nat) (f : BitVec 5) : (g.setFlags l f).ih = g.ih := rfl
@[simp] theorem Group.setFlags_fcla (g : Group) (l : Nat) (f : BitVec 5) : (g.setFlags l f).fcla = g.fcla := rfl
@[simp] theorem Group.setFlags_fres (g : Group) (l : Nat) (f : BitVec 5) : (g.setFlags l f).fres = g.fres := rfl
@[simp] theorem Group.setFlags_fcau (g : Group) (l : Nat) (f : BitVec 5) : (g.setFlags l f).fcau = g.fcau := rfl
@[simp] theorem Group.setFlags_fln (g : Group) (l : Nat) (f : BitVec 5) : (g.setFlags l f).fln = g.fln := rfl
@[simp] theorem Group.setFlags_fex (g : Group) (l : Nat) (f : BitVec 5) : (g.setFlags l f).fex = g.fex := rfl
@[simp] theorem Group.setFlags_fbv (g : Group) (l : Nat) (f : BitVec 5) : (g.setFlags l f).fbv = g.fbv := rfl
@[simp] theorem Group.setFlags_fbs (g : Group) (l : Nat) (f : BitVec 5) : (g.setFlags l f).fbs = g.fbs := rfl
@[simp] theorem Group.setFlags_foff (g : Group) (l : Nat) (f : BitVec 5) : (g.setFlags l f).foff = g.foff := rfl
@[simp] theorem Group.setFlags_frec (g : Group) (l : Nat) (f : BitVec 5) : (g.setFlags l f).frec = g.frec := rfl
@[simp] theorem Group.setFlags_forg (g : Group) (l : Nat) (f : BitVec 5) : (g.setFlags l f).forg = g.forg := rfl
@[simp] theorem Group.setFlags_cychL (g : Group) (l : Nat) (f : BitVec 5) : (g.setFlags l f).cychL = g.cychL := rfl
@[simp] theorem Group.setFlags_age (g : Group) (l : Nat) (f : BitVec 5) : (g.setFlags l f).age = g.age := rfl
@[simp] theorem Group.setFlags_waited (g : Group) (l : Nat) (f : BitVec 5) : (g.setFlags l f).waited = g.waited := rfl
@[simp] theorem Group.setFlags_yielding (g : Group) (l : Nat) (f : BitVec 5) : (g.setFlags l f).yielding = g.yielding := rfl
@[simp] theorem Group.setFlags_yieldTo (g : Group) (l : Nat) (f : BitVec 5) : (g.setFlags l f).yieldTo = g.yieldTo := rfl
@[simp] theorem Group.setFlags_park (g : Group) (l : Nat) (f : BitVec 5) : (g.setFlags l f).park = g.park := rfl
@[simp] theorem Group.setFlags_afresh (g : Group) (l : Nat) (f : BitVec 5) : (g.setFlags l f).afresh = g.afresh := rfl
@[simp] theorem Group.setFlags_sfq (g : Group) (l : Nat) (f : BitVec 5) : (g.setFlags l f).sfq = g.sfq := rfl
@[simp] theorem Group.setFlags_spill (g : Group) (l : Nat) (f : BitVec 5) : (g.setFlags l f).spill = g.spill := rfl
@[simp] theorem Group.setFlags_spillTags (g : Group) (l : Nat) (f : BitVec 5) : (g.setFlags l f).spillTags = g.spillTags := rfl
@[simp] theorem Group.setFlags_owed (g : Group) (l : Nat) (f : BitVec 5) : (g.setFlags l f).owed = g.owed := rfl
@[simp] theorem Group.setFlags_dfaults (g : Group) (l : Nat) (f : BitVec 5) : (g.setFlags l f).dfaults = g.dfaults := rfl
@[simp] theorem Group.setFlags_nSpawn (g : Group) (l : Nat) (f : BitVec 5) : (g.setFlags l f).nSpawn = g.nSpawn := rfl
@[simp] theorem Group.setFlags_nAlloc (g : Group) (l : Nat) (f : BitVec 5) : (g.setFlags l f).nAlloc = g.nAlloc := rfl
@[simp] theorem Group.setFlags_nDefer (g : Group) (l : Nat) (f : BitVec 5) : (g.setFlags l f).nDefer = g.nDefer := rfl
@[simp] theorem Group.setFlags_nIssued (g : Group) (l : Nat) (f : BitVec 5) : (g.setFlags l f).nIssued = g.nIssued := rfl
@[simp] theorem Group.setFlags_readFrom (g : Group) (l : Nat) (f : BitVec 5) : (g.setFlags l f).readFrom = g.readFrom := rfl
@[simp] theorem Group.setFlags_ties (g : Group) (l : Nat) (f : BitVec 5) : (g.setFlags l f).ties = g.ties := rfl
@[simp] theorem Group.setFlags_sigw (g : Group) (l : Nat) (f : BitVec 5) : (g.setFlags l f).sigw = g.sigw := rfl
@[simp] theorem Group.setFlags_traps (g : Group) (l : Nat) (f : BitVec 5) : (g.setFlags l f).traps = g.traps := rfl
@[simp] theorem Group.push_cx (g : Group) (m : Lanes) (f : Nat → QEntry) : (g.push m f).cx = g.cx := rfl
@[simp] theorem Group.push_grid (g : Group) (m : Lanes) (f : Nat → QEntry) : (g.push m f).grid = g.grid := rfl
@[simp] theorem Group.push_block (g : Group) (m : Lanes) (f : Nat → QEntry) : (g.push m f).block = g.block := rfl
@[simp] theorem Group.push_gidx (g : Group) (m : Lanes) (f : Nat → QEntry) : (g.push m f).gidx = g.gidx := rfl
@[simp] theorem Group.push_outrider (g : Group) (m : Lanes) (f : Nat → QEntry) : (g.push m f).outrider = g.outrider := rfl
@[simp] theorem Group.push_width (g : Group) (m : Lanes) (f : Nat → QEntry) : (g.push m f).width = g.width := rfl
@[simp] theorem Group.push_nregs (g : Group) (m : Lanes) (f : Nat → QEntry) : (g.push m f).nregs = g.nregs := rfl
@[simp] theorem Group.push_sblk (g : Group) (m : Lanes) (f : Nat → QEntry) : (g.push m f).sblk = g.sblk := rfl
@[simp] theorem Group.push_spillBytes (g : Group) (m : Lanes) (f : Nat → QEntry) : (g.push m f).spillBytes = g.spillBytes := rfl
@[simp] theorem Group.push_core (g : Group) (m : Lanes) (f : Nat → QEntry) : (g.push m f).core = g.core := rfl
@[simp] theorem Group.push_slice (g : Group) (m : Lanes) (f : Nat → QEntry) : (g.push m f).slice = g.slice := rfl
@[simp] theorem Group.push_pipe (g : Group) (m : Lanes) (f : Nat → QEntry) : (g.push m f).pipe = g.pipe := rfl
@[simp] theorem Group.push_prio (g : Group) (m : Lanes) (f : Nat → QEntry) : (g.push m f).prio = g.prio := rfl
@[simp] theorem Group.push_img (g : Group) (m : Lanes) (f : Nat → QEntry) : (g.push m f).img = g.img := rfl
@[simp] theorem Group.push_hoff (g : Group) (m : Lanes) (f : Nat → QEntry) : (g.push m f).hoff = g.hoff := rfl
@[simp] theorem Group.push_codeEnd (g : Group) (m : Lanes) (f : Nat → QEntry) : (g.push m f).codeEnd = g.codeEnd := rfl
@[simp] theorem Group.push_status (g : Group) (m : Lanes) (f : Nat → QEntry) : (g.push m f).status = g.status := rfl
@[simp] theorem Group.push_saved (g : Group) (m : Lanes) (f : Nat → QEntry) : (g.push m f).saved = g.saved := rfl
@[simp] theorem Group.push_pc (g : Group) (m : Lanes) (f : Nat → QEntry) : (g.push m f).pc = g.pc := rfl
@[simp] theorem Group.push_cla (g : Group) (m : Lanes) (f : Nat → QEntry) : (g.push m f).cla = g.cla := rfl
@[simp] theorem Group.push_cend (g : Group) (m : Lanes) (f : Nat → QEntry) : (g.push m f).cend = g.cend := rfl
@[simp] theorem Group.push_seta (g : Group) (m : Lanes) (f : Nat → QEntry) : (g.push m f).seta = g.seta := rfl
@[simp] theorem Group.push_setb (g : Group) (m : Lanes) (f : Nat → QEntry) : (g.push m f).setb = g.setb := rfl
@[simp] theorem Group.push_yld (g : Group) (m : Lanes) (f : Nat → QEntry) : (g.push m f).yld = g.yld := rfl
@[simp] theorem Group.push_V (g : Group) (m : Lanes) (f : Nat → QEntry) : (g.push m f).V = g.V := rfl
@[simp] theorem Group.push_fl (g : Group) (m : Lanes) (f : Nat → QEntry) : (g.push m f).fl = g.fl := rfl
@[simp] theorem Group.push_S (g : Group) (m : Lanes) (f : Nat → QEntry) : (g.push m f).S = g.S := rfl
@[simp] theorem Group.push_M (g : Group) (m : Lanes) (f : Nat → QEntry) : (g.push m f).M = g.M := rfl
@[simp] theorem Group.push_K (g : Group) (m : Lanes) (f : Nat → QEntry) : (g.push m f).K = g.K := rfl
@[simp] theorem Group.push_F (g : Group) (m : Lanes) (f : Nat → QEntry) : (g.push m f).F = g.F := rfl
@[simp] theorem Group.push_bv (g : Group) (m : Lanes) (f : Nat → QEntry) : (g.push m f).bv = g.bv := rfl
@[simp] theorem Group.push_bs (g : Group) (m : Lanes) (f : Nat → QEntry) : (g.push m f).bs = g.bs := rfl
@[simp] theorem Group.push_nbv (g : Group) (m : Lanes) (f : Nat → QEntry) : (g.push m f).nbv = g.nbv := rfl
@[simp] theorem Group.push_nbs (g : Group) (m : Lanes) (f : Nat → QEntry) : (g.push m f).nbs = g.nbs := rfl
@[simp] theorem Group.push_exm (g : Group) (m : Lanes) (f : Nat → QEntry) : (g.push m f).exm = g.exm := rfl
@[simp] theorem Group.push_pth (g : Group) (m : Lanes) (f : Nat → QEntry) : (g.push m f).pth = g.pth := rfl
@[simp] theorem Group.push_live (g : Group) (m : Lanes) (f : Nat → QEntry) : (g.push m f).live = g.live := rfl
@[simp] theorem Group.push_hlp (g : Group) (m : Lanes) (f : Nat → QEntry) : (g.push m f).hlp = g.hlp := rfl
@[simp] theorem Group.push_J (g : Group) (m : Lanes) (f : Nat → QEntry) : (g.push m f).J = g.J := rfl
@[simp] theorem Group.push_holds (g : Group) (m : Lanes) (f : Nat → QEntry) : (g.push m f).holds = g.holds := rfl
@[simp] theorem Group.push_conts (g : Group) (m : Lanes) (f : Nat → QEntry) : (g.push m f).conts = g.conts := rfl
@[simp] theorem Group.push_reenter (g : Group) (m : Lanes) (f : Nat → QEntry) : (g.push m f).reenter = g.reenter := rfl
@[simp] theorem Group.push_brd (g : Group) (m : Lanes) (f : Nat → QEntry) : (g.push m f).brd = g.brd := rfl
@[simp] theorem Group.push_ih (g : Group) (m : Lanes) (f : Nat → QEntry) : (g.push m f).ih = g.ih := rfl
@[simp] theorem Group.push_fcla (g : Group) (m : Lanes) (f : Nat → QEntry) : (g.push m f).fcla = g.fcla := rfl
@[simp] theorem Group.push_fres (g : Group) (m : Lanes) (f : Nat → QEntry) : (g.push m f).fres = g.fres := rfl
@[simp] theorem Group.push_fcau (g : Group) (m : Lanes) (f : Nat → QEntry) : (g.push m f).fcau = g.fcau := rfl
@[simp] theorem Group.push_fln (g : Group) (m : Lanes) (f : Nat → QEntry) : (g.push m f).fln = g.fln := rfl
@[simp] theorem Group.push_fex (g : Group) (m : Lanes) (f : Nat → QEntry) : (g.push m f).fex = g.fex := rfl
@[simp] theorem Group.push_fbv (g : Group) (m : Lanes) (f : Nat → QEntry) : (g.push m f).fbv = g.fbv := rfl
@[simp] theorem Group.push_fbs (g : Group) (m : Lanes) (f : Nat → QEntry) : (g.push m f).fbs = g.fbs := rfl
@[simp] theorem Group.push_foff (g : Group) (m : Lanes) (f : Nat → QEntry) : (g.push m f).foff = g.foff := rfl
@[simp] theorem Group.push_frec (g : Group) (m : Lanes) (f : Nat → QEntry) : (g.push m f).frec = g.frec := rfl
@[simp] theorem Group.push_forg (g : Group) (m : Lanes) (f : Nat → QEntry) : (g.push m f).forg = g.forg := rfl
@[simp] theorem Group.push_cychL (g : Group) (m : Lanes) (f : Nat → QEntry) : (g.push m f).cychL = g.cychL := rfl
@[simp] theorem Group.push_age (g : Group) (m : Lanes) (f : Nat → QEntry) : (g.push m f).age = g.age := rfl
@[simp] theorem Group.push_waited (g : Group) (m : Lanes) (f : Nat → QEntry) : (g.push m f).waited = g.waited := rfl
@[simp] theorem Group.push_yielding (g : Group) (m : Lanes) (f : Nat → QEntry) : (g.push m f).yielding = g.yielding := rfl
@[simp] theorem Group.push_yieldTo (g : Group) (m : Lanes) (f : Nat → QEntry) : (g.push m f).yieldTo = g.yieldTo := rfl
@[simp] theorem Group.push_park (g : Group) (m : Lanes) (f : Nat → QEntry) : (g.push m f).park = g.park := rfl
@[simp] theorem Group.push_afresh (g : Group) (m : Lanes) (f : Nat → QEntry) : (g.push m f).afresh = g.afresh := rfl
@[simp] theorem Group.push_sfq (g : Group) (m : Lanes) (f : Nat → QEntry) : (g.push m f).sfq = g.sfq := rfl
@[simp] theorem Group.push_spill (g : Group) (m : Lanes) (f : Nat → QEntry) : (g.push m f).spill = g.spill := rfl
@[simp] theorem Group.push_spillTags (g : Group) (m : Lanes) (f : Nat → QEntry) : (g.push m f).spillTags = g.spillTags := rfl
@[simp] theorem Group.push_owed (g : Group) (m : Lanes) (f : Nat → QEntry) : (g.push m f).owed = g.owed := rfl
@[simp] theorem Group.push_dfaults (g : Group) (m : Lanes) (f : Nat → QEntry) : (g.push m f).dfaults = g.dfaults := rfl
@[simp] theorem Group.push_nSpawn (g : Group) (m : Lanes) (f : Nat → QEntry) : (g.push m f).nSpawn = g.nSpawn := rfl
@[simp] theorem Group.push_nAlloc (g : Group) (m : Lanes) (f : Nat → QEntry) : (g.push m f).nAlloc = g.nAlloc := rfl
@[simp] theorem Group.push_nDefer (g : Group) (m : Lanes) (f : Nat → QEntry) : (g.push m f).nDefer = g.nDefer := rfl
@[simp] theorem Group.push_nIssued (g : Group) (m : Lanes) (f : Nat → QEntry) : (g.push m f).nIssued = g.nIssued := rfl
@[simp] theorem Group.push_readFrom (g : Group) (m : Lanes) (f : Nat → QEntry) : (g.push m f).readFrom = g.readFrom := rfl
@[simp] theorem Group.push_ties (g : Group) (m : Lanes) (f : Nat → QEntry) : (g.push m f).ties = g.ties := rfl
@[simp] theorem Group.push_sigw (g : Group) (m : Lanes) (f : Nat → QEntry) : (g.push m f).sigw = g.sigw := rfl
@[simp] theorem Group.push_traps (g : Group) (m : Lanes) (f : Nat → QEntry) : (g.push m f).traps = g.traps := rfl

theorem Group.counted_eq (g : Group) : g.counted = { g with nIssued := if g.ih then g.nIssued else g.nIssued + 1 } := by
  cases g; simp only [Group.counted]; split <;> simp_all

end Sys2Proof.Machine
end

