-- ==== Sys2Proof/Laws/Issue.lean ====
section
/-! SUPPORT. What issuing an instruction comes to: its operands' cause, its own cause, or its effect. -/
namespace Sys2Proof.Machine

/-- Everything `issue` can do. -/
theorem issue_cases (s : State) (u : Group → Uses) (own : Group → Option Trap) (eff : State → Group → State) :
    (s.group? s.cur = none ∧ issue s u own eff = .next s) ∨
    ∃ g, s.group? s.cur = some g ∧
      ((∃ c, checkUses s s.cur g (u g) = some c ∧ issue s u own eff = .next (takeTrap s s.cur g { cause := c })) ∨
       (checkUses s s.cur g (u g) = none ∧ ∃ t, own g = some t ∧ issue s u own eff = .next (takeTrap s s.cur g t)) ∨
       (checkUses s s.cur g (u g) = none ∧ own g = none ∧ issue s u own eff = .next (eff s g))) := by
  unfold issue
  cases hg : s.group? s.cur with
  | none => exact .inl ⟨rfl, rfl⟩
  | some g =>
    refine .inr ⟨g, rfl, ?_⟩
    cases hc : checkUses s s.cur g (u g) with
    | some c => exact .inl ⟨c, rfl, by simp [hc]⟩
    | none =>
      cases ho : own g with
      | some t => exact .inr (.inl ⟨rfl, t, rfl, by simp [hc, ho]⟩)
      | none => exact .inr (.inr ⟨rfl, rfl, by simp [hc, ho]⟩)

/-- An instruction whose operands and own checks raise nothing has its effect. -/
theorem issue_effect {s : State} {g : Group} {u : Group → Uses} {own : Group → Option Trap}
    {eff : State → Group → State} (hg : s.group? s.cur = some g) (hu : checkUses s s.cur g (u g) = none)
    (ho : own g = none) : issue s u own eff = .next (eff s g) := by
  simp [issue, hg, hu, ho]

/-- An instruction that raises a cause of its own takes it. -/
theorem issue_own {s : State} {g : Group} {u : Group → Uses} {own : Group → Option Trap}
    {eff : State → Group → State} {t : Trap} (hg : s.group? s.cur = some g) (hu : checkUses s s.cur g (u g) = none)
    (ho : own g = some t) : issue s u own eff = .next (takeTrap s s.cur g t) := by
  simp [issue, hg, hu, ho]

/-- An instruction whose operands raise a cause takes it. -/
theorem issue_operand {s : State} {g : Group} {u : Group → Uses} {own : Group → Option Trap}
    {eff : State → Group → State} {c : Cause} (hg : s.group? s.cur = some g)
    (hu : checkUses s s.cur g (u g) = some c) : issue s u own eff = .next (takeTrap s s.cur g { cause := c }) := by
  simp [issue, hg, hu]

/-- `issue` goes on to a next state, whatever it finds. -/
theorem issue_next (s : State) (u : Group → Uses) (own : Group → Option Trap) (eff : State → Group → State) :
    ∃ t, issue s u own eff = .next t := by
  obtain ⟨-, h⟩ | ⟨g, -, ⟨c, -, h⟩ | ⟨-, t, -, h⟩ | ⟨-, -, h⟩⟩ := issue_cases s u own eff <;> exact ⟨_, h⟩

theorem issueG_effect {s : State} {g : Group} {u : Uses} {f : Group → Group} (hg : s.group? s.cur = some g)
    (hu : checkUses s s.cur g u = none) : issueG s u f = .next (s.setGroup s.cur (f g)) :=
  issue_effect hg hu rfl

/-- A transfer that stands last in its clause issues as any instruction does (R66). -/
theorem issueT_last {s : State} {g : Group} {u : Uses} {own : Group → Option Trap} {eff : State → Group → State}
    (hg : s.group? s.cur = some g) (hl : g.pc + 4 = g.cend) : issueT s u own eff = issue s (fun _ => u) own eff := by
  simp [issueT, hg, hl]

/-- A transfer that does not stand last in its clause raises ILLEGAL_CLAUSE (R66). -/
theorem issueT_early {s : State} {g : Group} {u : Uses} {own : Group → Option Trap} {eff : State → Group → State}
    (hg : s.group? s.cur = some g) (hl : g.pc + 4 ≠ g.cend) :
    issueT s u own eff = .next (takeTrap s s.cur g { cause := cIllegalClause }) := by
  simp [issueT, hg, hl]

theorem issueT_next (s : State) (u : Uses) (own : Group → Option Trap) (eff : State → Group → State) :
    ∃ t, issueT s u own eff = .next t := by
  cases hg : s.group? s.cur with
  | none => exact ⟨s, by simp [issueT, hg]⟩
  | some g =>
    by_cases hl : g.pc + 4 = g.cend
    · rw [issueT_last hg hl]; exact issue_next ..
    · exact ⟨_, issueT_early hg hl⟩

theorem scalar3_effect {s : State} {g : Group} {d a b : BitVec 7} {lit : Option Word} {f : Word → Word → Word → Word}
    (hg : s.group? s.cur = some g)
    (hu : checkUses s s.cur g { sc := (if lit.isSome then [d, a] else [d, a, b]).map (·.toNat) } = none) :
    scalar3 d a b lit f s =
      .next (s.setGroup s.cur ((g.wrS d (f (g.rdS d) (g.rdS a) (g.rdB b lit))).adv (litWords lit))) :=
  issueG_effect hg hu

theorem scalar1_effect {s : State} {g : Group} {d a : BitVec 7} {f : Word → Word} (hg : s.group? s.cur = some g)
    (hu : checkUses s s.cur g { sc := [d.toNat, a.toNat] } = none) :
    scalar1 d a f s = .next (s.setGroup s.cur ((g.wrS d (f (g.rdS a))).adv 1)) :=
  issueG_effect hg hu

theorem maskOp_effect {s : State} {g : Group} {d : BitVec 4} {ms : List (BitVec 4)} {f : Group → Word64}
    (hg : s.group? s.cur = some g) (hu : checkUses s s.cur g { msk := d :: ms } = none) :
    maskOp d ms f s = .next (s.setGroup s.cur ((g.wrM d (f g)).adv 1)) :=
  issueG_effect hg hu

theorem vec1_effect {s : State} {g : Group} {d a : BitVec 7} {m : Option Mod} {op : Word → Word × FFlags}
    (hg : s.group? s.cur = some g) (hu : checkUses s s.cur g (vuses d [(a, (modOf m).swzA)]) = none) :
    vec1 d a m op s = .next (s.setGroup s.cur
      ((g.result d (fun l => op (g.src a (modOf m).swzA l))).adv (modWords m))) :=
  issueG_effect hg hu

theorem vec2_effect {s : State} {g : Group} {d a b : BitVec 7} {m : Option Mod} {op : Word → Word → Word × FFlags}
    (hg : s.group? s.cur = some g)
    (hu : checkUses s s.cur g (vuses d [(a, (modOf m).swzA), (b, (modOf m).swzB)]) = none) :
    vec2 d a b m op s = .next (s.setGroup s.cur
      ((g.result d (fun l => op (g.src a (modOf m).swzA l) (g.src b (modOf m).swzB l))).adv (modWords m))) :=
  issueG_effect hg hu

theorem vec3_effect {s : State} {g : Group} {d a b : BitVec 7} {x : Mod} {op : Word → Word → Word → Word × FFlags}
    (hg : s.group? s.cur = some g)
    (hu : checkUses s s.cur g (vuses d [(a, x.swzA), (b, x.swzB), (x.codeC, x.swzC)]) = none) :
    vec3 d a b x op s = .next (s.setGroup s.cur
      ((g.result d (fun l => op (g.src a x.swzA l) (g.src b x.swzB l) (g.src x.codeC x.swzC l))).adv 2)) :=
  issueG_effect hg hu

theorem vecI_effect {s : State} {g : Group} {d a : BitVec 7} {op : Word → Word} (hg : s.group? s.cur = some g)
    (hu : checkUses s s.cur g (vuses d [(a, 0)]) = none) :
    vecI d a op s = .next (s.setGroup s.cur ((g.result d (fun l => (op (g.src a 0 l), 0))).adv 1)) :=
  issueG_effect hg hu

end Sys2Proof.Machine
end

