-- ==== Sys2Proof/Laws/Memory.lean ====
section
/-! SUPPORT. The operations on memory keep the canonical form of every byte storage, and reset has it. -/
namespace Sys2Proof.Claims
open Sys2Proof.Machine

/-- A package reset leaves memory canonical. -/
theorem canonical_reset : MemoryCanonical State.reset where
  phys := rfl
  host := rfl
  dirty := rfl
  share := rfl
  keyTag := rfl
  blocks := fun _ h => nomatch h
  spills := fun _ h => nomatch h

/-- Every entry of an updated collection is an old one or the changed entry. -/
theorem mem_mput {α : Type} {m : List (Nat × α)} {k : Nat} {v : α} {e : Nat × α} (h : e ∈ mput m k v) :
    e ∈ m ∨ e = (k, v) := by
  induction m with
  | nil => exact .inr (List.mem_singleton.mp h)
  | cons x r ih =>
    simp only [mput] at h
    split at h
    · exact (List.mem_cons.mp h).elim .inr (fun h => .inl (.tail _ h))
    · split at h
      · exact (List.mem_cons.mp h).elim .inr .inl
      · exact (List.mem_cons.mp h).elim (fun h => .inl (h ▸ .head _))
          (fun h => (ih h).elim (fun h => .inl (.tail _ h)) .inr)

theorem mem_of_mget {α : Type} {m : List (Nat × α)} {k : Nat} {v : α} (h : mget m k = some v) : (k, v) ∈ m := by
  induction m with
  | nil => exact nomatch h
  | cons x r ih =>
    simp only [mget] at h
    split at h
    · next he => cases h; exact he ▸ .head _
    · exact .tail _ (ih h)

theorem mem_mupd {α : Type} {m : List (Nat × α)} {k : Nat} {f : α → α} {e : Nat × α} (h : e ∈ mupd m k f) :
    e ∈ m ∨ ∃ v, (k, v) ∈ m ∧ e = (k, f v) := by
  unfold mupd at h
  cases hv : mget m k with
  | none => rw [hv] at h; exact .inl h
  | some v =>
    rw [hv] at h
    exact (mem_mput h).imp_right (fun he => ⟨v, mem_of_mget hv, he⟩)

/-- Two states that store the same bytes are canonical together. -/
theorem MemoryCanonical.of_eq {s t : State} (h : MemoryCanonical s) (hm : t.mem = s.mem) (hb : t.k.blocks = s.k.blocks)
    (hg : t.k.groups = s.k.groups) : MemoryCanonical t where
  phys := hm ▸ h.phys
  host := hm ▸ h.host
  dirty := hm ▸ h.dirty
  share := hm ▸ h.share
  keyTag := hm ▸ h.keyTag
  blocks := hb ▸ h.blocks
  spills := hg ▸ h.spills

theorem MemoryCanonical.setBr {s : State} (h : MemoryCanonical s) (b : BrandUnit) : MemoryCanonical { s with br := b } :=
  { h with }

/-- Groups changed without their spill stacks. -/
theorem MemoryCanonical.updGroup {s : State} (h : MemoryCanonical s) (id : Nat) {f : Group → Group}
    (hf : ∀ g, Memory.wf g.spill = true → Memory.wf (f g).spill = true) : MemoryCanonical (s.updGroup id f) :=
  { h with
    spills := fun e he => by
      obtain h1 | ⟨v, hv, rfl⟩ := mem_mupd he
      · exact h.spills e h1
      · exact hf v (h.spills _ hv) }

theorem MemoryCanonical.setGroup {s : State} (h : MemoryCanonical s) (id : Nat) {g : Group}
    (hg : Memory.wf g.spill = true) : MemoryCanonical (s.setGroup id g) :=
  { h with
    spills := fun e he => by
      obtain h1 | rfl := mem_mput he
      · exact h.spills e h1
      · exact hg }

/-- A byte of device memory written. -/
theorem putPhys_wf {m : MemUnit} (k a : Nat) (b : Byte) (hp : Memory.wf m.phys = true) (ht : Sparse.wf 0 m.keyTag = true) :
    Memory.wf (m.putPhys k a b).phys = true ∧ Sparse.wf 0 (m.putPhys k a b).keyTag = true := by
  refine ⟨Memory.wf_put _ _ _ ?_, Sparse.wf_sset _ _ _ _ ht⟩
  split
  · exact hp
  · exact Memory.wf_putBytes _ _ _ hp

/-- A byte of host memory written by the device. -/
theorem putHost_wf {m : MemUnit} (cx a : Nat) (b : Byte) (hd : Memory.wf m.dirty = true) :
    Memory.wf (m.putHost cx a b).dirty = true := by
  refine Memory.wf_put _ _ _ ?_
  split
  · exact hd
  · exact Memory.wf_putBytes _ _ _ hd

/-- A dirty sector written back. -/
theorem writeBack_wf {m : MemUnit} (sec : Nat) (hh : Memory.wf m.host = true) (hd : Memory.wf m.dirty = true) :
    Memory.wf (m.writeBack sec).host = true ∧ Memory.wf (m.writeBack sec).dirty = true := by
  unfold MemUnit.writeBack
  split
  · dsimp only
    generalize List.replicate 64 (0 : Byte) = z, Memory.bytes m.dirty (sec * 64) 64 = w
    exact ⟨Memory.wf_putBytes w m.host (sec * 64) hh, Memory.wf_putBytes z m.dirty (sec * 64) hd⟩
  · exact ⟨hh, hd⟩

/-- What a write back leaves alone. -/
theorem writeBack_frame (m : MemUnit) (sec : Nat) : (m.writeBack sec).phys = m.phys ∧
    (m.writeBack sec).keyTag = m.keyTag ∧ (m.writeBack sec).share = m.share := by
  unfold MemUnit.writeBack
  split <;> exact ⟨rfl, rfl, rfl⟩

/-- The byte storages of a memory unit in canonical form. -/
structure UnitCanonical (m : MemUnit) : Prop where
  phys : Memory.wf m.phys = true
  host : Memory.wf m.host = true
  dirty : Memory.wf m.dirty = true
  share : Memory.wf m.share = true
  keyTag : Sparse.wf 0 m.keyTag = true

theorem MemoryCanonical.unit {s : State} (h : MemoryCanonical s) : UnitCanonical s.mem :=
  ⟨h.phys, h.host, h.dirty, h.share, h.keyTag⟩

theorem MemoryCanonical.setMem {s : State} (h : MemoryCanonical s) {m : MemUnit} (hm : UnitCanonical m) :
    MemoryCanonical { s with mem := m } :=
  { h with phys := hm.phys, host := hm.host, dirty := hm.dirty, share := hm.share, keyTag := hm.keyTag }

theorem UnitCanonical.putPhys {m : MemUnit} (h : UnitCanonical m) (k a : Nat) (b : Byte) : UnitCanonical (m.putPhys k a b) :=
  { h with phys := (putPhys_wf k a b h.phys h.keyTag).1, keyTag := (putPhys_wf k a b h.phys h.keyTag).2 }

theorem UnitCanonical.putHost {m : MemUnit} (h : UnitCanonical m) (cx a : Nat) (b : Byte) : UnitCanonical (m.putHost cx a b) :=
  { h with dirty := putHost_wf cx a b h.dirty }

theorem UnitCanonical.writeBack {m : MemUnit} (h : UnitCanonical m) (sec : Nat) : UnitCanonical (m.writeBack sec) := by
  obtain ⟨hp, hk, hs⟩ := writeBack_frame m sec
  obtain ⟨hh, hd⟩ := writeBack_wf sec h.host h.dirty
  exact ⟨hp ▸ h.phys, hh, hd, hs ▸ h.share, hk ▸ h.keyTag⟩

theorem UnitCanonical.writeBackAll {m : MemUnit} (h : UnitCanonical m) (cx : Nat) : UnitCanonical (m.writeBackAll cx) := by
  unfold MemUnit.writeBackAll
  generalize m.dirtyCtx.filter _ = l
  induction l generalizing m with
  | nil => exact h
  | cons e r ih => exact ih (h.writeBack e.1)

/-- A byte written anywhere keeps the form. -/
theorem MemoryCanonical.writeRaw {s : State} (h : MemoryCanonical s) (cx : Nat) (l : Loc) (b : Byte) :
    MemoryCanonical (writeRaw s cx l b) := by
  unfold Machine.writeRaw
  split
  · exact h.setMem (h.unit.putPhys _ _ _)
  · exact h.setMem (h.unit.putHost _ _ _)
  · exact { h with
      blocks := fun e he => by
        obtain h1 | ⟨v, hv, rfl⟩ := mem_mupd he
        · exact h.blocks e h1
        · exact Memory.wf_put _ _ _ (h.blocks _ hv) }
  · exact { h with share := Memory.wf_put _ _ _ h.share }
  · exact h.updGroup _ (fun g hg => Memory.wf_put _ _ _ hg)
  · exact h

theorem MemoryCanonical.setTag {s : State} (h : MemoryCanonical s) (l : Loc) (v : Bool) : MemoryCanonical (setTag s l v) := by
  unfold Machine.setTag
  split
  · exact { h with }
  · exact { h with }
  · exact h.updGroup _ (fun g hg => hg)
  · exact h
  · exact h
  · exact h

theorem MemoryCanonical.writeAt {s : State} (h : MemoryCanonical s) (cx : Nat) (l : Loc) (b : Byte) :
    MemoryCanonical (writeAt s cx l b) := (h.writeRaw cx l b).setTag l false

theorem MemoryCanonical.foldl {α : Type} (f : State → α → State) (hf : ∀ s a, MemoryCanonical s → MemoryCanonical (f s a))
    (l : List α) {s : State} (h : MemoryCanonical s) : MemoryCanonical (l.foldl f s) := by
  induction l generalizing s with
  | nil => exact h
  | cons a r ih => exact ih (hf s a h)

/-- A line copied into a cell keeps the form. -/
theorem MemoryCanonical.materialise {s : State} (h : MemoryCanonical s) (cx b : Nat) (line : Loc) (pool : Nat)
    (pg : List (Loc × Byte)) : MemoryCanonical (materialise s cx b line pool pg) := by
  unfold Machine.materialise
  refine MemoryCanonical.setBr ?_ _
  exact MemoryCanonical.foldl _ (fun t i ht => ht.writeAt _ _ _) _ { h with }

theorem MemoryCanonical.writePlace {s t : State} {l : Loc} (h : MemoryCanonical s) (cx b : Nat) (p : PByte)
    (ht : writePlace s cx b p = some (t, l)) : MemoryCanonical t := by
  have hd : MemoryCanonical (dropReservation s cx b p.loc.line) := h.of_eq rfl rfl rfl
  unfold Machine.writePlace at ht
  split at ht
  · split at ht
    · simp only [Option.some.injEq, Prod.mk.injEq] at ht
      exact ht.1 ▸ hd
    · split at ht
      · simp only [Option.some.injEq, Prod.mk.injEq] at ht
        exact ht.1 ▸ hd.materialise _ _ _ _ _
      · exact nomatch ht
  · simp only [Option.some.injEq, Prod.mk.injEq] at ht
    exact ht.1 ▸ h

/-- A write under a brand keeps the form. -/
theorem MemoryCanonical.writeByte {s : State} (h : MemoryCanonical s) (cx b : Nat) (e : PByte × Byte × Byte) :
    MemoryCanonical (writeByte s cx b e) := by
  unfold Machine.writeByte
  split
  · next hw => exact (h.writePlace cx b e.1 hw).writeAt _ _ _
  · exact h

theorem MemoryCanonical.writeBytes {s : State} (h : MemoryCanonical s) (cx b : Nat) (es : List (PByte × Byte × Byte)) :
    MemoryCanonical (writeBytes s cx b es) :=
  MemoryCanonical.foldl _ (fun _ _ ht => ht.writeByte cx b _) es h

/-- Waking the WAITs of a write changes no memory. -/
theorem MemoryCanonical.wakeWaits {s : State} (h : MemoryCanonical s) (ls : List Loc) : MemoryCanonical (wakeWaits s ls) := by
  unfold Machine.wakeWaits
  split
  · exact h
  · exact h.of_eq rfl rfl rfl

/-- A write of an agent keeps the form. -/
theorem MemoryCanonical.writeOut {s : State} (h : MemoryCanonical s) (cx b : Nat) (es : List (PByte × Byte × Byte)) :
    MemoryCanonical (writeOut s cx b es) := (h.writeBytes cx b es).wakeWaits _

theorem MemoryCanonical.doRelease {s : State} (h : MemoryCanonical s) (cx sc : Nat) : MemoryCanonical (doRelease s cx sc) := by
  unfold Machine.doRelease
  split
  · exact h.setMem (h.unit.writeBackAll cx)
  · exact h

end Sys2Proof.Claims
end

