-- ==== Sys2Proof/Laws/PerInstr.lean ====
section
/-! SUPPORT. A family of statements about every instruction as syntax: the first word of an encoding tells its length
(R70, R71, R88, R378). -/
namespace Sys2Proof.Laws.EncodeLength

/-- How many words follow first word `w` of instruction `i`. -/
def more (i : Instr) (w : Word) : Nat := bif reinInstr i then (reinExt w).toNat else extWords w

/-- An instruction with words has as many as its first word says. -/
def Statement (i : Instr) : Prop :=
  match encode i with
  | [] => True
  | w :: r => r.length = more i w

/-- SR3 and VR3: bit 21 asks for a second word. -/
theorem ext3 (t : BitVec 3) (op : BitVec 7) (x : BitVec 1) (d a b : BitVec 7) (h : t = 0#3 ∨ t = 2#3) :
    extWords (word3 t op x d a b) = bif x.getLsbD 0 then 1 else 0 := by
  rcases h with h | h <;> subst h <;> cases hx : x.getLsbD 0 <;>
    simp [-BitVec.extractLsb'_toNat, extWords, hx, - BitVec.getLsbD_eq_getElem]

theorem len3 {α : Type} (o : Option α) (t : BitVec 3) (op d a b : BitVec 7) (h : t = 0#3 ∨ t = 2#3) :
    o.toList.length = extWords (word3 t op (bit1 o.isSome) d a b) := by
  rw [ext3 _ _ _ _ _ _ h]
  cases o <;> simp [bit1]

theorem len3m (o : Option Mod) (op d a b : BitVec 7) :
    (o.map encodeMod).toList.length = extWords (word3 2#3 op (bit1 o.isSome) d a b) := by
  rw [ext3 _ _ _ _ _ _ (Or.inr rfl)]
  cases o <;> simp [bit1]

theorem len3n (t : BitVec 3) (op d a b : BitVec 7) (h : t = 0#3 ∨ t = 2#3) :
    ([] : List Word).length = extWords (word3 t op 0#1 d a b) := (ext3 t op 0#1 d a b h).symm

theorem len3x (e : Word) (op d a b : BitVec 7) : [e].length = extWords (word3 2#3 op 1#1 d a b) :=
  (ext3 2#3 op 1#1 d a b (Or.inr rfl)).symm

theorem lenI (t : BitVec 3) (op : BitVec 5) (r : BitVec 7) (i : BitVec 17) (h : t = 1#3 ∨ t = 3#3 ∨ t = 5#3) :
    ([] : List Word).length = extWords (wordI t op r i) := by
  rcases h with h | h | h <;> subst h <;> simp [-BitVec.extractLsb'_toNat, extWords]

theorem lenA (t : BitVec 3) (op : BitVec 5) (d a : BitVec 7) (i : BitVec 10) (h : t = 1#3 ∨ t = 3#3) :
    ([] : List Word).length = extWords (wordA t op d a i) := by
  rcases h with h | h <;> subst h <;> simp [-BitVec.extractLsb'_toNat, extWords]

theorem lenM (e : Word) (op : BitVec 5) (k : BitVec 4) (d x : BitVec 7) (m : BitVec 6) :
    [e].length = extWords (wordM op k d x m) := by
  simp [-BitVec.extractLsb'_toNat, extWords]

theorem lenE (r : List Word) (op : BitVec 7) (x : BitVec 1) (z : BitVec 3) (k : BitVec 4) (s t : BitVec 7)
    (h : r.length = if [1, 0x23, 0x24, 0x25, 0x30, 0x31].contains op.toNat then 1 else 0) :
    r.length = extWords (wordE op x z k s t) := by
  rw [h]
  simp only [extWords, wordE_t, wordE_op]
  rfl

theorem lenR (r : List Word) (op a b : BitVec 5) (i : BitVec 17) (h : r.length = ([3, 10, 11, 12, 13].contains op.toNat).toNat) :
    r.length = (reinExt (wordR op a b i)).toNat := by
  rw [h, reinExt, wordR_op]

theorem smov (d : BitVec 7) (b : BitVec 7) (lit : Option Word) : Statement (.smov d b lit) := len3 _ _ _ _ _ _ (Or.inl rfl)
theorem sadd (d : BitVec 7) (a : BitVec 7) (b : BitVec 7) (lit : Option Word) : Statement (.sadd d a b lit) := len3 _ _ _ _ _ _ (Or.inl rfl)
theorem ssub (d : BitVec 7) (a : BitVec 7) (b : BitVec 7) (lit : Option Word) : Statement (.ssub d a b lit) := len3 _ _ _ _ _ _ (Or.inl rfl)
theorem smul (d : BitVec 7) (a : BitVec 7) (b : BitVec 7) (lit : Option Word) : Statement (.smul d a b lit) := len3 _ _ _ _ _ _ (Or.inl rfl)
theorem smulh (d : BitVec 7) (a : BitVec 7) (b : BitVec 7) (lit : Option Word) : Statement (.smulh d a b lit) := len3 _ _ _ _ _ _ (Or.inl rfl)
theorem smulhu (d : BitVec 7) (a : BitVec 7) (b : BitVec 7) (lit : Option Word) : Statement (.smulhu d a b lit) := len3 _ _ _ _ _ _ (Or.inl rfl)
theorem sdivu (d : BitVec 7) (a : BitVec 7) (b : BitVec 7) (lit : Option Word) : Statement (.sdivu d a b lit) := len3 _ _ _ _ _ _ (Or.inl rfl)
theorem sremu (d : BitVec 7) (a : BitVec 7) (b : BitVec 7) (lit : Option Word) : Statement (.sremu d a b lit) := len3 _ _ _ _ _ _ (Or.inl rfl)
theorem sand (d : BitVec 7) (a : BitVec 7) (b : BitVec 7) (lit : Option Word) : Statement (.sand d a b lit) := len3 _ _ _ _ _ _ (Or.inl rfl)
theorem sor (d : BitVec 7) (a : BitVec 7) (b : BitVec 7) (lit : Option Word) : Statement (.sor d a b lit) := len3 _ _ _ _ _ _ (Or.inl rfl)
theorem sxor (d : BitVec 7) (a : BitVec 7) (b : BitVec 7) (lit : Option Word) : Statement (.sxor d a b lit) := len3 _ _ _ _ _ _ (Or.inl rfl)
theorem snot (d : BitVec 7) (a : BitVec 7) : Statement (.snot d a) := len3n _ _ _ _ _ (Or.inl rfl)
theorem sshl (d : BitVec 7) (a : BitVec 7) (b : BitVec 7) (lit : Option Word) : Statement (.sshl d a b lit) := len3 _ _ _ _ _ _ (Or.inl rfl)
theorem sshr (d : BitVec 7) (a : BitVec 7) (b : BitVec 7) (lit : Option Word) : Statement (.sshr d a b lit) := len3 _ _ _ _ _ _ (Or.inl rfl)
theorem ssar (d : BitVec 7) (a : BitVec 7) (b : BitVec 7) (lit : Option Word) : Statement (.ssar d a b lit) := len3 _ _ _ _ _ _ (Or.inl rfl)
theorem sclz (d : BitVec 7) (a : BitVec 7) : Statement (.sclz d a) := len3n _ _ _ _ _ (Or.inl rfl)
theorem smin (d : BitVec 7) (a : BitVec 7) (b : BitVec 7) (lit : Option Word) : Statement (.smin d a b lit) := len3 _ _ _ _ _ _ (Or.inl rfl)
theorem smax (d : BitVec 7) (a : BitVec 7) (b : BitVec 7) (lit : Option Word) : Statement (.smax d a b lit) := len3 _ _ _ _ _ _ (Or.inl rfl)
theorem sminu (d : BitVec 7) (a : BitVec 7) (b : BitVec 7) (lit : Option Word) : Statement (.sminu d a b lit) := len3 _ _ _ _ _ _ (Or.inl rfl)
theorem smaxu (d : BitVec 7) (a : BitVec 7) (b : BitVec 7) (lit : Option Word) : Statement (.smaxu d a b lit) := len3 _ _ _ _ _ _ (Or.inl rfl)
theorem ssel (d : BitVec 7) (a : BitVec 7) (b : BitVec 7) (lit : Option Word) : Statement (.ssel d a b lit) := len3 _ _ _ _ _ _ (Or.inl rfl)
theorem spopc (d : BitVec 7) (a : BitVec 7) : Statement (.spopc d a) := len3n _ _ _ _ _ (Or.inl rfl)
theorem sbfx (d : BitVec 7) (a : BitVec 7) (b : BitVec 7) (lit : Option Word) : Statement (.sbfx d a b lit) := len3 _ _ _ _ _ _ (Or.inl rfl)
theorem sbfi (d : BitVec 7) (a : BitVec 7) (b : BitVec 7) (lit : Option Word) : Statement (.sbfi d a b lit) := len3 _ _ _ _ _ _ (Or.inl rfl)
theorem scmp (c : BitVec 3) (d : BitVec 7) (a : BitVec 7) (b : BitVec 7) (lit : Option Word) : Statement (.scmp c d a b lit) := len3 _ _ _ _ _ _ (Or.inl rfl)
theorem smovi (d : BitVec 7) (i : BitVec 17) : Statement (.smovi d i) := lenI _ _ _ _ (Or.inl rfl)
theorem slui (d : BitVec 7) (i : BitVec 17) : Statement (.slui d i) := lenI _ _ _ _ (Or.inl rfl)
theorem saddi (d : BitVec 7) (a : BitVec 7) (i : BitVec 10) : Statement (.saddi d a i) := lenA _ _ _ _ _ (Or.inl rfl)
theorem sandi (d : BitVec 7) (a : BitVec 7) (i : BitVec 10) : Statement (.sandi d a i) := lenA _ _ _ _ _ (Or.inl rfl)
theorem sori (d : BitVec 7) (a : BitVec 7) (i : BitVec 10) : Statement (.sori d a i) := lenA _ _ _ _ _ (Or.inl rfl)
theorem sxori (d : BitVec 7) (a : BitVec 7) (i : BitVec 10) : Statement (.sxori d a i) := lenA _ _ _ _ _ (Or.inl rfl)
theorem scmpi (c : BitVec 3) (d : BitVec 7) (a : BitVec 7) (i : BitVec 10) : Statement (.scmpi c d a i) := lenA _ _ _ _ _ (Or.inl rfl)
theorem mmov (d : BitVec 4) (a : BitVec 4) : Statement (.mmov d a) := len3n _ _ _ _ _ (Or.inl rfl)
theorem mand (d : BitVec 4) (a : BitVec 4) (b : BitVec 4) : Statement (.mand d a b) := len3n _ _ _ _ _ (Or.inl rfl)
theorem mor (d : BitVec 4) (a : BitVec 4) (b : BitVec 4) : Statement (.mor d a b) := len3n _ _ _ _ _ (Or.inl rfl)
theorem mxor (d : BitVec 4) (a : BitVec 4) (b : BitVec 4) : Statement (.mxor d a b) := len3n _ _ _ _ _ (Or.inl rfl)
theorem mnot (d : BitVec 4) (a : BitVec 4) : Statement (.mnot d a) := len3n _ _ _ _ _ (Or.inl rfl)
theorem mpopc (d : BitVec 7) (a : BitVec 4) : Statement (.mpopc d a) := len3n _ _ _ _ _ (Or.inl rfl)
theorem mffs (d : BitVec 7) (a : BitVec 4) : Statement (.mffs d a) := len3n _ _ _ _ _ (Or.inl rfl)
theorem mtos (d : BitVec 7) (a : BitVec 4) : Statement (.mtos d a) := len3n _ _ _ _ _ (Or.inl rfl)
theorem mfroms (d : BitVec 4) (a : BitVec 7) (b : BitVec 7) : Statement (.mfroms d a b) := len3n _ _ _ _ _ (Or.inl rfl)
theorem exmrd (d : BitVec 4) : Statement (.exmrd d) := len3n _ _ _ _ _ (Or.inl rfl)
theorem exmwr (a : BitVec 4) : Statement (.exmwr a) := len3n _ _ _ _ _ (Or.inl rfl)
theorem srd (d : BitVec 7) (n : BitVec 7) : Statement (.srd d n) := len3n _ _ _ _ _ (Or.inl rfl)
theorem swr (n : BitVec 7) (a : BitVec 7) : Statement (.swr n a) := len3n _ _ _ _ _ (Or.inl rfl)
theorem bra (o : BitVec 17) : Statement (.bra o) := lenI _ _ _ _ (Or.inr (Or.inr rfl))
theorem brc (r : BitVec 7) (o : BitVec 17) : Statement (.brc r o) := lenI _ _ _ _ (Or.inr (Or.inr rfl))
theorem brcZ (r : BitVec 7) (o : BitVec 17) : Statement (.brcZ r o) := lenI _ _ _ _ (Or.inr (Or.inr rfl))
theorem brv (j : BitVec 3) (m : BitVec 4) (o : BitVec 17) : Statement (.brv j m o) := lenI _ _ _ _ (Or.inr (Or.inr rfl))
theorem join (j : BitVec 3) : Statement (.join j) := lenI _ _ _ _ (Or.inr (Or.inr rfl))
theorem call (r : BitVec 7) (o : BitVec 17) : Statement (.call r o) := lenI _ _ _ _ (Or.inr (Or.inr rfl))
theorem ret (r : BitVec 7) : Statement (.ret r) := lenI _ _ _ _ (Or.inr (Or.inr rfl))
theorem winV (n : BitVec 17) : Statement (.winV n) := lenI _ _ _ _ (Or.inr (Or.inr rfl))
theorem winS (n : BitVec 17) : Statement (.winS n) := lenI _ _ _ _ (Or.inr (Or.inr rfl))
theorem syncf (f : BitVec 12) : Statement (.syncf f) := lenI _ _ _ _ (Or.inr (Or.inr rfl))
theorem yieldW : Statement .yieldW := lenI 5#3 9#5 0#7 0#17 (Or.inr (Or.inr rfl))
theorem exit : Statement .exit := lenI 5#3 10#5 0#7 0#17 (Or.inr (Or.inr rfl))
theorem nop : Statement .nop := lenI 5#3 11#5 0#7 0#17 (Or.inr (Or.inr rfl))
theorem brk (c : BitVec 16) : Statement (.brk c) := lenI _ _ _ _ (Or.inr (Or.inr rfl))
theorem trap (c : BitVec 16) : Statement (.trap c) := lenI _ _ _ _ (Or.inr (Or.inr rfl))
theorem rft : Statement .rft := lenI 5#3 14#5 0#7 0#17 (Or.inr (Or.inr rfl))
theorem vmov (d : BitVec 7) (a : BitVec 7) (m : Option Mod) : Statement (.vmov d a m) := len3m _ _ _ _ _
theorem vbcast (d : BitVec 7) (a : BitVec 7) : Statement (.vbcast d a) := len3n _ _ _ _ _ (Or.inr rfl)
theorem vlane (d : BitVec 7) : Statement (.vlane d) := len3n _ _ _ _ _ (Or.inr rfl)
theorem vadd (d : BitVec 7) (a : BitVec 7) (b : BitVec 7) (m : Option Mod) : Statement (.vadd d a b m) := len3m _ _ _ _ _
theorem vsub (d : BitVec 7) (a : BitVec 7) (b : BitVec 7) (m : Option Mod) : Statement (.vsub d a b m) := len3m _ _ _ _ _
theorem vadds (d : BitVec 7) (a : BitVec 7) (b : BitVec 7) (m : Option Mod) : Statement (.vadds d a b m) := len3m _ _ _ _ _
theorem vsubs (d : BitVec 7) (a : BitVec 7) (b : BitVec 7) (m : Option Mod) : Statement (.vsubs d a b m) := len3m _ _ _ _ _
theorem vmul (d : BitVec 7) (a : BitVec 7) (b : BitVec 7) (m : Option Mod) : Statement (.vmul d a b m) := len3m _ _ _ _ _
theorem vmulh (d : BitVec 7) (a : BitVec 7) (b : BitVec 7) (m : Option Mod) : Statement (.vmulh d a b m) := len3m _ _ _ _ _
theorem vmulhu (d : BitVec 7) (a : BitVec 7) (b : BitVec 7) (m : Option Mod) : Statement (.vmulhu d a b m) := len3m _ _ _ _ _
theorem vmad (d : BitVec 7) (a : BitVec 7) (b : BitVec 7) (m : Mod) : Statement (.vmad d a b m) := len3x _ _ _ _ _
theorem vabs (d : BitVec 7) (a : BitVec 7) (m : Option Mod) : Statement (.vabs d a m) := len3m _ _ _ _ _
theorem vneg (d : BitVec 7) (a : BitVec 7) (m : Option Mod) : Statement (.vneg d a m) := len3m _ _ _ _ _
theorem vmin (d : BitVec 7) (a : BitVec 7) (b : BitVec 7) (m : Option Mod) : Statement (.vmin d a b m) := len3m _ _ _ _ _
theorem vmax (d : BitVec 7) (a : BitVec 7) (b : BitVec 7) (m : Option Mod) : Statement (.vmax d a b m) := len3m _ _ _ _ _
theorem vminu (d : BitVec 7) (a : BitVec 7) (b : BitVec 7) (m : Option Mod) : Statement (.vminu d a b m) := len3m _ _ _ _ _
theorem vmaxu (d : BitVec 7) (a : BitVec 7) (b : BitVec 7) (m : Option Mod) : Statement (.vmaxu d a b m) := len3m _ _ _ _ _
theorem vand (d : BitVec 7) (a : BitVec 7) (b : BitVec 7) (m : Option Mod) : Statement (.vand d a b m) := len3m _ _ _ _ _
theorem vor (d : BitVec 7) (a : BitVec 7) (b : BitVec 7) (m : Option Mod) : Statement (.vor d a b m) := len3m _ _ _ _ _
theorem vxor (d : BitVec 7) (a : BitVec 7) (b : BitVec 7) (m : Option Mod) : Statement (.vxor d a b m) := len3m _ _ _ _ _
theorem vnot (d : BitVec 7) (a : BitVec 7) (m : Option Mod) : Statement (.vnot d a m) := len3m _ _ _ _ _
theorem vshl (d : BitVec 7) (a : BitVec 7) (b : BitVec 7) (m : Option Mod) : Statement (.vshl d a b m) := len3m _ _ _ _ _
theorem vshr (d : BitVec 7) (a : BitVec 7) (b : BitVec 7) (m : Option Mod) : Statement (.vshr d a b m) := len3m _ _ _ _ _
theorem vsar (d : BitVec 7) (a : BitVec 7) (b : BitVec 7) (m : Option Mod) : Statement (.vsar d a b m) := len3m _ _ _ _ _
theorem vbfx (d : BitVec 7) (a : BitVec 7) (b : BitVec 7) (m : Option Mod) : Statement (.vbfx d a b m) := len3m _ _ _ _ _
theorem vbfi (d : BitVec 7) (a : BitVec 7) (b : BitVec 7) (m : Mod) : Statement (.vbfi d a b m) := len3x _ _ _ _ _
theorem vclz (d : BitVec 7) (a : BitVec 7) (m : Option Mod) : Statement (.vclz d a m) := len3m _ _ _ _ _
theorem vpopc (d : BitVec 7) (a : BitVec 7) (m : Option Mod) : Statement (.vpopc d a m) := len3m _ _ _ _ _
theorem vlea (sr : BitVec 2) (d : BitVec 7) (a : BitVec 7) (b : BitVec 7) (m : Option Mod) : Statement (.vlea sr d a b m) := len3m _ _ _ _ _
theorem vcmp (c : BitVec 3) (q : BitVec 4) (a : BitVec 7) (b : BitVec 7) (m : Option Mod) : Statement (.vcmp c q a b m) := len3m _ _ _ _ _
theorem vsel (d : BitVec 7) (a : BitVec 7) (b : BitVec 7) (m : Mod) : Statement (.vsel d a b m) := len3x _ _ _ _ _
theorem fadd (f : BitVec 2) (d : BitVec 7) (a : BitVec 7) (b : BitVec 7) (m : Option Mod) : Statement (.fadd f d a b m) := len3m _ _ _ _ _
theorem fsub (f : BitVec 2) (d : BitVec 7) (a : BitVec 7) (b : BitVec 7) (m : Option Mod) : Statement (.fsub f d a b m) := len3m _ _ _ _ _
theorem fmul (f : BitVec 2) (d : BitVec 7) (a : BitVec 7) (b : BitVec 7) (m : Option Mod) : Statement (.fmul f d a b m) := len3m _ _ _ _ _
theorem ffma (f : BitVec 2) (d : BitVec 7) (a : BitVec 7) (b : BitVec 7) (m : Mod) : Statement (.ffma f d a b m) := len3x _ _ _ _ _
theorem fmin (f : BitVec 2) (d : BitVec 7) (a : BitVec 7) (b : BitVec 7) (m : Option Mod) : Statement (.fmin f d a b m) := len3m _ _ _ _ _
theorem fmax (f : BitVec 2) (d : BitVec 7) (a : BitVec 7) (b : BitVec 7) (m : Option Mod) : Statement (.fmax f d a b m) := len3m _ _ _ _ _
theorem fdiv (f : BitVec 2) (d : BitVec 7) (a : BitVec 7) (b : BitVec 7) (m : Option Mod) : Statement (.fdiv f d a b m) := len3m _ _ _ _ _
theorem fscale (f : BitVec 2) (d : BitVec 7) (a : BitVec 7) (b : BitVec 7) (m : Option Mod) : Statement (.fscale f d a b m) := len3m _ _ _ _ _
theorem fcmp (c : BitVec 3) (q : BitVec 4) (a : BitVec 7) (b : BitVec 7) (m : Option Mod) : Statement (.fcmp c q a b m) := len3m _ _ _ _ _
theorem fabs (d : BitVec 7) (a : BitVec 7) (f : BitVec 2) (m : Option Mod) : Statement (.fabs d a f m) := len3m _ _ _ _ _
theorem fneg (d : BitVec 7) (a : BitVec 7) (f : BitVec 2) (m : Option Mod) : Statement (.fneg d a f m) := len3m _ _ _ _ _
theorem fclass (d : BitVec 7) (a : BitVec 7) (f : BitVec 2) (m : Option Mod) : Statement (.fclass d a f m) := len3m _ _ _ _ _
theorem frnd (d : BitVec 7) (a : BitVec 7) (f : BitVec 2) (m : Option Mod) : Statement (.frnd d a f m) := len3m _ _ _ _ _
theorem fsqrt (d : BitVec 7) (a : BitVec 7) (f : BitVec 2) (m : Option Mod) : Statement (.fsqrt d a f m) := len3m _ _ _ _ _
theorem frcp (d : BitVec 7) (a : BitVec 7) (sr : Bool) (f : BitVec 2) (m : Option Mod) : Statement (.frcp d a sr f m) := len3m _ _ _ _ _
theorem frsq (d : BitVec 7) (a : BitVec 7) (sr : Bool) (f : BitVec 2) (m : Option Mod) : Statement (.frsq d a sr f m) := len3m _ _ _ _ _
theorem fexp2 (d : BitVec 7) (a : BitVec 7) (sr : Bool) (f : BitVec 2) (m : Option Mod) : Statement (.fexp2 d a sr f m) := len3m _ _ _ _ _
theorem flog2 (d : BitVec 7) (a : BitVec 7) (sr : Bool) (f : BitVec 2) (m : Option Mod) : Statement (.flog2 d a sr f m) := len3m _ _ _ _ _
theorem fsin (d : BitVec 7) (a : BitVec 7) (sr : Bool) (f : BitVec 2) (m : Option Mod) : Statement (.fsin d a sr f m) := len3m _ _ _ _ _
theorem fcos (d : BitVec 7) (a : BitVec 7) (sr : Bool) (f : BitVec 2) (m : Option Mod) : Statement (.fcos d a sr f m) := len3m _ _ _ _ _
theorem ftanh (d : BitVec 7) (a : BitVec 7) (sr : Bool) (f : BitVec 2) (m : Option Mod) : Statement (.ftanh d a sr f m) := len3m _ _ _ _ _
theorem cvtff (d : BitVec 7) (a : BitVec 7) (y : BitVec 3) (z : BitVec 3) (m : Option Mod) : Statement (.cvtff d a y z m) := len3m _ _ _ _ _
theorem cvtfi (d : BitVec 7) (a : BitVec 7) (u : Bool) (y : BitVec 3) (z : BitVec 3) (m : Option Mod) : Statement (.cvtfi d a u y z m) := len3m _ _ _ _ _
theorem cvtif (d : BitVec 7) (a : BitVec 7) (u : Bool) (y : BitVec 3) (z : BitVec 3) (m : Option Mod) : Statement (.cvtif d a u y z m) := len3m _ _ _ _ _
theorem vflg (d : BitVec 7) (a : BitVec 7) (w : Bool) : Statement (.vflg d a w) := len3n _ _ _ _ _ (Or.inr rfl)
theorem pack8 (f : BitVec 2) (d : BitVec 7) (a : BitVec 7) (b : BitVec 7) (m : Option Mod) : Statement (.pack8 f d a b m) := len3m _ _ _ _ _
theorem unpk8 (y : BitVec 2) (d : BitVec 7) (a : BitVec 7) (f : Bool) (m : Option Mod) : Statement (.unpk8 y d a f m) := len3m _ _ _ _ _
theorem perm (d : BitVec 7) (a : BitVec 7) (b : BitVec 7) (m : Option Mod) : Statement (.perm d a b m) := len3m _ _ _ _ _
theorem qswz (d : BitVec 7) (a : BitVec 7) (sr : BitVec 3) (m : Option Mod) : Statement (.qswz d a sr m) := len3m _ _ _ _ _
theorem matchKeys (d : BitVec 4) (a : BitVec 7) (m : Option Mod) : Statement (.matchKeys d a m) := len3m _ _ _ _ _
theorem scan (d : BitVec 7) (a : BitVec 7) (e : Bool) (t : BitVec 2) (o : BitVec 3) (m : Option Mod) : Statement (.scan d a e t o m) := len3m _ _ _ _ _
theorem red (d : BitVec 7) (a : BitVec 7) (t : BitVec 2) (o : BitVec 3) (m : Option Mod) : Statement (.red d a t o m) := len3m _ _ _ _ _
theorem vmovi (d : BitVec 7) (i : BitVec 17) : Statement (.vmovi d i) := lenI _ _ _ _ (Or.inr (Or.inl rfl))
theorem vaddVri (d : BitVec 7) (a : BitVec 7) (i : BitVec 10) : Statement (.vaddVri d a i) := lenA _ _ _ _ _ (Or.inr rfl)
theorem vmulVri (d : BitVec 7) (a : BitVec 7) (i : BitVec 10) : Statement (.vmulVri d a i) := lenA _ _ _ _ _ (Or.inr rfl)
theorem vandVri (d : BitVec 7) (a : BitVec 7) (i : BitVec 10) : Statement (.vandVri d a i) := lenA _ _ _ _ _ (Or.inr rfl)
theorem vorVri (d : BitVec 7) (a : BitVec 7) (i : BitVec 10) : Statement (.vorVri d a i) := lenA _ _ _ _ _ (Or.inr rfl)
theorem vxorVri (d : BitVec 7) (a : BitVec 7) (i : BitVec 10) : Statement (.vxorVri d a i) := lenA _ _ _ _ _ (Or.inr rfl)
theorem vshlVri (d : BitVec 7) (a : BitVec 7) (i : BitVec 10) : Statement (.vshlVri d a i) := lenA _ _ _ _ _ (Or.inr rfl)
theorem vshrVri (d : BitVec 7) (a : BitVec 7) (i : BitVec 10) : Statement (.vshrVri d a i) := lenA _ _ _ _ _ (Or.inr rfl)
theorem vsarVri (d : BitVec 7) (a : BitVec 7) (i : BitVec 10) : Statement (.vsarVri d a i) := lenA _ _ _ _ _ (Or.inr rfl)
theorem vminVri (d : BitVec 7) (a : BitVec 7) (i : BitVec 10) : Statement (.vminVri d a i) := lenA _ _ _ _ _ (Or.inr rfl)
theorem vmaxVri (d : BitVec 7) (a : BitVec 7) (i : BitVec 10) : Statement (.vmaxVri d a i) := lenA _ _ _ _ _ (Or.inr rfl)
theorem vminuVri (d : BitVec 7) (a : BitVec 7) (i : BitVec 10) : Statement (.vminuVri d a i) := lenA _ _ _ _ _ (Or.inr rfl)
theorem vmaxuVri (d : BitVec 7) (a : BitVec 7) (i : BitVec 10) : Statement (.vmaxuVri d a i) := lenA _ _ _ _ _ (Or.inr rfl)
theorem vcmpVri (c : BitVec 3) (q : BitVec 4) (a : BitVec 7) (i : BitVec 10) : Statement (.vcmpVri c q a i) := lenA _ _ _ _ _ (Or.inr rfl)
theorem topki (d : BitVec 7) (a : BitVec 7) (k : BitVec 3) (i : BitVec 7) : Statement (.topki d a k i) := lenA _ _ _ _ _ (Or.inr rfl)
theorem ld (w : MemWord) : Statement (.ld w) := lenM _ _ _ _ _ _
theorem st (w : MemWord) : Statement (.st w) := lenM _ _ _ _ _ _
theorem ldu (w : MemWord) : Statement (.ldu w) := lenM _ _ _ _ _ _
theorem spl (w : MemWord) : Statement (.spl w) := lenM _ _ _ _ _ _
theorem fil (w : MemWord) : Statement (.fil w) := lenM _ _ _ _ _ _
theorem qst (w : MemWord) : Statement (.qst w) := lenM _ _ _ _ _ _
theorem ldq (w : MemWord) : Statement (.ldq w) := lenM _ _ _ _ _ _
theorem qrekey (w : MemWord) : Statement (.qrekey w) := lenM _ _ _ _ _ _
theorem xcopy (w : MemWord) : Statement (.xcopy w) := lenM _ _ _ _ _ _
theorem xgath (w : MemWord) : Statement (.xgath w) := lenM _ _ _ _ _ _
theorem kld (w : MemWord) : Statement (.kld w) := lenM _ _ _ _ _ _
theorem kmov (w : MemWord) : Statement (.kmov w) := lenM _ _ _ _ _ _
theorem knarrow (w : MemWord) : Statement (.knarrow w) := lenM _ _ _ _ _ _
theorem kview (w : MemWord) : Statement (.kview w) := lenM _ _ _ _ _ _
theorem kperm (w : MemWord) : Statement (.kperm w) := lenM _ _ _ _ _ _
theorem kfield (w : MemWord) : Statement (.kfield w) := lenM _ _ _ _ _ _
theorem kfieldW (w : MemWord) : Statement (.kfieldW w) := lenM _ _ _ _ _ _
theorem drainst (w : MemWord) : Statement (.drainst w) := lenM _ _ _ _ _ _
theorem probe (w : MemWord) : Statement (.probe w) := lenM _ _ _ _ _ _
theorem atom (w : MemWord) : Statement (.atom w) := lenM _ _ _ _ _ _
theorem cas (w : MemWord) : Statement (.cas w) := lenM _ _ _ _ _ _
theorem fence (w : MemWord) : Statement (.fence w) := lenM _ _ _ _ _ _
theorem ldb (w : MemWord) : Statement (.ldb w) := lenM _ _ _ _ _ _
theorem mzero (z : BitVec 3) : Statement (.mzero z) := lenE _ _ _ _ _ _ _ rfl
theorem mloop (e : Bool) (z : BitVec 3) (k : BitVec 4) (sr : BitVec 7) (x : LoopExt) : Statement (.mloop e z k sr x) := lenE _ _ _ _ _ _ _ rfl
theorem mgrow (z : BitVec 3) (sr : BitVec 7) : Statement (.mgrow z sr) := lenE _ _ _ _ _ _ _ rfl
theorem msnap (e : Bool) (z : BitVec 3) (k : BitVec 4) : Statement (.msnap e z k) := lenE _ _ _ _ _ _ _ rfl
theorem mout (e : Bool) (z : BitVec 3) (k : BitVec 4) : Statement (.mout e z k) := lenE _ _ _ _ _ _ _ rfl
theorem mpri (z : BitVec 3) (p : BitVec 3) : Statement (.mpri z p) := lenE _ _ _ _ _ _ _ rfl
theorem mrel (z : BitVec 3) : Statement (.mrel z) := lenE _ _ _ _ _ _ _ rfl
theorem bndNew (sr : BitVec 7) : Statement (.bndNew sr) := lenE _ _ _ _ _ _ _ rfl
theorem bndFork (sr : BitVec 7) (t : BitVec 7) : Statement (.bndFork sr t) := lenE _ _ _ _ _ _ _ rfl
theorem bndSet (t : BitVec 7) : Statement (.bndSet t) := lenE _ _ _ _ _ _ _ rfl
theorem bndRet (t : BitVec 7) : Statement (.bndRet t) := lenE _ _ _ _ _ _ _ rfl
theorem bndMrg (t : BitVec 7) : Statement (.bndMrg t) := lenE _ _ _ _ _ _ _ rfl
theorem bar : Statement .bar := lenE [] 32#7 0#1 0#3 0#4 0#7 0#7 rfl
theorem barl (sr : BitVec 7) : Statement (.barl sr) := lenE _ _ _ _ _ _ _ rfl
theorem barg : Statement .barg := lenE [] 34#7 0#1 0#3 0#4 0#7 0#7 rfl
theorem sigAdd (k : BitVec 4) (t : BitVec 7) (ord : BitVec 4) : Statement (.sigAdd k t ord) := lenE _ _ _ _ _ _ _ rfl
theorem sigSet (k : BitVec 4) (t : BitVec 7) (ord : BitVec 4) : Statement (.sigSet k t ord) := lenE _ _ _ _ _ _ _ rfl
theorem sigWait (k : BitVec 4) (t : BitVec 7) (ord : BitVec 4) (c : BitVec 2) : Statement (.sigWait k t ord c) := lenE _ _ _ _ _ _ _ rfl
theorem spawn (sr : BitVec 7) (t : BitVec 7) (pw : BitVec 4) (eoff : BitVec 24) : Statement (.spawn sr t pw eoff) := lenE _ _ _ _ _ _ _ rfl
theorem padClose (sr : BitVec 7) (eoff : BitVec 24) : Statement (.padClose sr eoff) := lenE _ _ _ _ _ _ _ rfl
theorem halt : Statement .halt := lenR [] 0 0 0 0 rfl
theorem chunk (n : BitVec 8) : Statement (.chunk n) := lenR _ _ _ _ _ rfl
theorem nextW : Statement .nextW := lenR [] 2#5 0#5 0#5 0#17 rfl
theorem setg (a : BitVec 5) (lit : Word) : Statement (.setg a lit) := lenR _ _ _ _ _ rfl
theorem setgHi (a : BitVec 5) (lit : Word) : Statement (.setgHi a lit) := lenR _ _ _ _ _ rfl
theorem addg (a : BitVec 5) (b : BitVec 5) (i : BitVec 17) : Statement (.addg a b i) := lenR _ _ _ _ _ rfl
theorem loop (a : BitVec 5) (i : BitVec 17) : Statement (.loop a i) := lenR _ _ _ _ _ rfl
theorem brz (a : BitVec 5) (i : BitVec 17) : Statement (.brz a i) := lenR _ _ _ _ _ rfl
theorem brnz (a : BitVec 5) (i : BitVec 17) : Statement (.brnz a i) := lenR _ _ _ _ _ rfl
theorem waits (a : BitVec 5) (e : BitVec 4) (c : BitVec 2) : Statement (.waits a e c) := lenR _ _ _ _ _ rfl
theorem sigs (a : BitVec 5) (e : BitVec 4) (set : Bool) (irq : Bool) (c : BitVec 5) (sys : Bool) : Statement (.sigs a e set irq c sys) := lenR _ _ _ _ _ rfl
theorem xmit (a : BitVec 5) (b : BitVec 5) (e : BitVec 4) (c : BitVec 15) : Statement (.xmit a b e c) := lenR _ _ _ _ _ rfl
theorem xmitA (a : BitVec 5) (b : BitVec 5) (e : BitVec 4) (last : Bool) (c : BitVec 15) : Statement (.xmitA a b e last c) := lenR _ _ _ _ _ rfl
theorem stow (a : BitVec 5) (b : BitVec 5) (e : BitVec 4) (c : BitVec 15) : Statement (.stow a b e c) := lenR _ _ _ _ _ rfl
theorem stowA (a : BitVec 5) (b : BitVec 5) (d : BitVec 5) (c : BitVec 15) : Statement (.stowA a b d c) := lenR _ _ _ _ _ rfl
theorem fold (a : BitVec 5) (b : BitVec 5) (e : BitVec 4) (op : BitVec 4) (ty : BitVec 4) (c : BitVec 15) : Statement (.fold a b e op ty c) := lenR _ _ _ _ _ rfl
theorem foldf (a : BitVec 5) (b : BitVec 5) (e : BitVec 4) (f : BitVec 4) (op : BitVec 4) (ty : BitVec 4) (c : BitVec 15) : Statement (.foldf a b e f op ty c) := lenR _ _ _ _ _ rfl
theorem create : Statement .create := trivial
theorem key : Statement .key := trivial
theorem preempt : Statement .preempt := trivial
theorem resume : Statement .resume := trivial
theorem destroy : Statement .destroy := trivial
theorem pool : Statement .pool := trivial
theorem quota : Statement .quota := trivial
theorem saveComplete : Statement .saveComplete := trivial
theorem uncorrectableError (addr : Nat) (cx : Nat) : Statement (.uncorrectableError addr cx) := trivial
theorem registerWrite (off : Nat) (v : BitVec 64) : Statement (.registerWrite off v) := trivial
theorem qtailWrite (q : Nat) (v : Word) : Statement (.qtailWrite q v) := trivial
theorem queueEnable (q : Nat) (v : Word) : Statement (.queueEnable q v) := trivial
theorem queueDisable (q : Nat) (v : Word) : Statement (.queueDisable q v) := trivial
theorem cheadWrite (q : Nat) (v : Word) : Statement (.cheadWrite q v) := trivial
theorem faultQueueEnable (v : Word) : Statement (.faultQueueEnable v) := trivial
theorem faultQueueDisable (v : Word) : Statement (.faultQueueDisable v) := trivial
theorem fqheadWrite (v : Word) : Statement (.fqheadWrite v) := trivial
theorem tqarbWrite (c : Nat) (v : Word) : Statement (.tqarbWrite c v) := trivial
theorem dmsplitWrite (v : Word) : Statement (.dmsplitWrite v) := trivial
theorem dmsplitComplete : Statement .dmsplitComplete := trivial
theorem resetPackage (idx : Nat) (force : Bool) : Statement (.resetPackage idx force) := trivial
theorem resetDie (idx : Nat) (force : Bool) : Statement (.resetDie idx force) := trivial
theorem resetCluster (idx : Nat) (force : Bool) : Statement (.resetCluster idx force) := trivial
theorem resetCore (idx : Nat) (force : Bool) : Statement (.resetCore idx force) := trivial
theorem resetVectorPipes (idx : Nat) (force : Bool) : Statement (.resetVectorPipes idx force) := trivial
theorem resetMatrixEngine (idx : Nat) (force : Bool) : Statement (.resetMatrixEngine idx force) := trivial
theorem resetCopyEngine (idx : Nat) (force : Bool) : Statement (.resetCopyEngine idx force) := trivial
theorem resetGatherEngine (idx : Nat) (force : Bool) : Statement (.resetGatherEngine idx force) := trivial
theorem resetOutrider (idx : Nat) (force : Bool) : Statement (.resetOutrider idx force) := trivial
theorem resetCommandSequencer (idx : Nat) (force : Bool) : Statement (.resetCommandSequencer idx force) := trivial
theorem resetRein (idx : Nat) (force : Bool) : Statement (.resetRein idx force) := trivial
theorem resetManagementBlock (idx : Nat) (force : Bool) : Statement (.resetManagementBlock idx force) := trivial
theorem resetComplete : Statement .resetComplete := trivial
theorem slotAbort (n : Nat) (sl : Nat) : Statement (.slotAbort n sl) := trivial
theorem slotGo (n : Nat) (sl : Nat) : Statement (.slotGo n sl) := trivial
theorem slotStep (n : Nat) (sl : Nat) (v : Bool) : Statement (.slotStep n sl v) := trivial
theorem slgdatWrite (n : Nat) (sl : Nat) (v : BitVec 64) : Statement (.slgdatWrite n sl v) := trivial
theorem nopPacket (die : Nat) : Statement (.nopPacket die) := trivial
theorem launch (die : Nat) : Statement (.launch die) := trivial
theorem node (die : Nat) : Statement (.node die) := trivial
theorem signal (die : Nat) : Statement (.signal die) := trivial
theorem wait (die : Nat) : Statement (.wait die) := trivial
theorem phase (die : Nat) : Statement (.phase die) := trivial
theorem rein (die : Nat) : Statement (.rein die) := trivial
theorem replay (die : Nat) : Statement (.replay die) := trivial
theorem inval (die : Nat) : Statement (.inval die) := trivial
theorem invalComplete (p : Nat) : Statement (.invalComplete p) := trivial
theorem phaseSteps (q : Nat) : Statement (.phaseSteps q) := trivial
theorem queueHoldRelease (q : Nat) : Statement (.queueHoldRelease q) := trivial
theorem indirectSizeTaken (q : Nat) : Statement (.indirectSizeTaken q) := trivial
theorem packetComplete (p : Nat) : Statement (.packetComplete p) := trivial
theorem patchBankSwitch (die : Nat) : Statement (.patchBankSwitch die) := trivial
theorem blockPlace (g : Nat) : Statement (.blockPlace g) := trivial
theorem gridComplete (g : Nat) : Statement (.gridComplete g) := trivial
theorem paddockTimerLapse (nd : Nat) : Statement (.paddockTimerLapse nd) := trivial
theorem arrivalInterrupt (n : Nat) : Statement (.arrivalInterrupt n) := trivial
theorem outriderRunStart (c : Nat) : Statement (.outriderRunStart c) := trivial
theorem continuationReentry (c : Nat) : Statement (.continuationReentry c) := trivial
theorem weightedTileChoice (co : Nat) : Statement (.weightedTileChoice co) := trivial
theorem clauseStart (co : Nat) (p : Nat) : Statement (.clauseStart co p) := trivial
theorem stallRelease (g : Nat) : Statement (.stallRelease g) := trivial
theorem operationComplete (op : Nat) : Statement (.operationComplete op) := trivial
theorem faultRecordWrite : Statement .faultRecordWrite := trivial
theorem storePerformed (st : Nat) : Statement (.storePerformed st) := trivial
theorem writeProtectReport (g : Nat) : Statement (.writeProtectReport g) := trivial
theorem barrierComplete (lv : Nat) (b : Nat) : Statement (.barrierComplete lv b) := trivial
theorem sigWaitResume (g : Nat) : Statement (.sigWaitResume g) := trivial
theorem ownershipGrant (ln : Nat) : Statement (.ownershipGrant ln) := trivial
theorem lineComplete (ln : Nat) : Statement (.lineComplete ln) := trivial
theorem brandFree (cx : Nat) (b : Nat) : Statement (.brandFree cx b) := trivial
theorem brandMergeApply (cx : Nat) (b : Nat) : Statement (.brandMergeApply cx b) := trivial
theorem kStep (co : Nat) : Statement (.kStep co) := trivial
theorem moutReadout (op : Nat) : Statement (.moutReadout op) := trivial
theorem leaveGrant (die : Nat) : Statement (.leaveGrant die) := trivial
theorem powerSample (mw : Nat) (dies : List Nat) : Statement (.powerSample mw dies) := trivial
theorem limiterWindow : Statement .limiterWindow := trivial
theorem frameSend (n : Nat) : Statement (.frameSend n) := trivial
theorem dataFrameReceive (n : Nat) (f : Frame) : Statement (.dataFrameReceive n f) := trivial
theorem runHeaderReceive (n : Nat) (f : Frame) : Statement (.runHeaderReceive n f) := trivial
theorem roundMarkerReceive (n : Nat) (f : Frame) : Statement (.roundMarkerReceive n f) := trivial
theorem idleFrameReceive (n : Nat) (f : Frame) : Statement (.idleFrameReceive n f) := trivial
theorem memoryServiceRequest (n : Nat) (f : Frame) : Statement (.memoryServiceRequest n f) := trivial
theorem memoryServiceResponse (n : Nat) (f : Frame) : Statement (.memoryServiceResponse n f) := trivial
theorem memoryServiceData (n : Nat) (f : Frame) : Statement (.memoryServiceData n f) := trivial
theorem frameResend (n : Nat) : Statement (.frameResend n) := trivial
theorem reinSlotLoad (p : Nat) : Statement (.reinSlotLoad p) := trivial
theorem reinSlotRestore (n : Nat) : Statement (.reinSlotRestore n) := trivial
theorem slotChoose (n : Nat) : Statement (.slotChoose n) := trivial
theorem chunkComplete (n : Nat) : Statement (.chunkComplete n) := trivial
theorem boundaryRunLimit (n : Nat) : Statement (.boundaryRunLimit n) := trivial
theorem bringUp : Statement .bringUp := trivial
theorem telemetryFastRecord (temp : Nat) : Statement (.telemetryFastRecord temp) := trivial
theorem telemetryFullRecord (temp : Nat) (hbm : List Nat) : Statement (.telemetryFullRecord temp hbm) := trivial
theorem sensorRead (id : Nat) : Statement (.sensorRead id) := trivial
theorem spdmMeasurements (slot : Nat) (index : Nat) : Statement (.spdmMeasurements slot index) := trivial
theorem firmwareTransfer (up : Update) : Statement (.firmwareTransfer up) := trivial
theorem activateFirmware : Statement .activateFirmware := trivial
theorem crcFailure (n : Nat) (f : Frame) : Statement (.crcFailure n f) := trivial
theorem allowanceReturn (n : Nat) (sl : Nat) (e : Nat) (fl : Nat) : Statement (.allowanceReturn n sl e fl) := trivial
theorem hostPortAccess (h : HostAccess) : Statement (.hostPortAccess h) := trivial
theorem correctedError (ext : Bool) : Statement (.correctedError ext) := trivial

end Sys2Proof.Laws.EncodeLength
end

