-- ==== Sys2Proof/Tests/Slice0.lean ====
section
/-! SUPPORT. Tests: words decoded as the manual writes them, ill-formed terms refused, single steps, and a witness for the
hypotheses of every statement. -/
set_option maxRecDepth 100000
set_option Elab.async false

namespace Sys2Proof.Tests
open Sys2Proof.Machine Sys2Proof.Claims

/-- Fields placed as the manual places them: scalar and mask words (R80, R81, R182). -/
theorem test_decode_scalar1 : ∀ e ∈ [
    ([0x00084043], Instr.smov 0x21 0x43 none),
    ([0x00485943], .sadd 0x21 0x32 0x43 none),
    ([0x00885943], .ssub 0x21 0x32 0x43 none),
    ([0x00C85943], .smul 0x21 0x32 0x43 none),
    ([0x01085943], .smulh 0x21 0x32 0x43 none),
    ([0x01485943], .smulhu 0x21 0x32 0x43 none),
    ([0x01885943], .sdivu 0x21 0x32 0x43 none),
    ([0x01C85943], .sremu 0x21 0x32 0x43 none),
    ([0x02085943], .sand 0x21 0x32 0x43 none),
    ([0x02485943], .sor 0x21 0x32 0x43 none),
    ([0x02885943], .sxor 0x21 0x32 0x43 none),
    ([0x02C85900], .snot 0x21 0x32),
    ([0x03085943], .sshl 0x21 0x32 0x43 none),
    ([0x03485943], .sshr 0x21 0x32 0x43 none),
    ([0x03885943], .ssar 0x21 0x32 0x43 none),
    ([0x03C85900], .sclz 0x21 0x32),
    ([0x04085943], .smin 0x21 0x32 0x43 none),
    ([0x04485943], .smax 0x21 0x32 0x43 none),
    ([0x04885943], .sminu 0x21 0x32 0x43 none),
    ([0x04C85943], .smaxu 0x21 0x32 0x43 none),
    ([0x05085943], .ssel 0x21 0x32 0x43 none),
    ([0x05485900], .spopc 0x21 0x32),
    ([0x05885943], .sbfx 0x21 0x32 0x43 none),
    ([0x05C85943], .sbfi 0x21 0x32 0x43 none)],
    (decodeClause e.1).toOption = some e.2 := by decide +kernel

/-- Fields placed as the manual places them: scalar and mask words (R80, R81, R182). -/
theorem test_decode_scalar2 : ∀ e ∈ [
    ([0x07485943], Instr.scmp 0x5 0x21 0x32 0x43 none),
    ([0x2043ABCD], .smovi 0x21 0x1abcd),
    ([0x2143ABCD], .slui 0x21 0x1abcd),
    ([0x2242C955], .saddi 0x21 0x32 0x155),
    ([0x2342C955], .sandi 0x21 0x32 0x155),
    ([0x2442C955], .sori 0x21 0x32 0x155),
    ([0x2542C955], .sxori 0x21 0x32 0x155),
    ([0x2D42C955], .scmpi 0x5 0x21 0x32 0x155),
    ([0x0800C500], .mmov 0x3 0xa),
    ([0x0840C50C], .mand 0x3 0xa 0xc),
    ([0x0880C50C], .mor 0x3 0xa 0xc),
    ([0x08C0C50C], .mxor 0x3 0xa 0xc),
    ([0x0900C500], .mnot 0x3 0xa),
    ([0x09484500], .mpopc 0x21 0xa),
    ([0x09884500], .mffs 0x21 0xa),
    ([0x09C84500], .mtos 0x21 0xa),
    ([0x0A00D943], .mfroms 0x3 0x32 0x43),
    ([0x0A40C000], .exmrd 0x3),
    ([0x0A800500], .exmwr 0xa),
    ([0x0AC85200], .srd 0x21 0x24),
    ([0x0B099900], .swr 0x26 0x32),
    ([0x00685900, 0xDEADBEEF], .sadd 0x21 0x32 0 (some 0xDEADBEEF))],
    (decodeClause e.1).toOption = some e.2 := by decide +kernel

/-- Fields placed as the manual places them: control words (R87). -/
theorem test_decode_control : ∀ e ∈ [
    ([0xA0012345], Instr.bra 0x12345),
    ([0xA18B2345], .brc 0x45 0x12345),
    ([0xA28B2345], .brcZ 0x45 0x12345),
    ([0xA3732345], .brv 0x3 0x9 0x12345),
    ([0xA4C00000], .join 0x6),
    ([0xA58B2345], .call 0x45 0x12345),
    ([0xA68A0000], .ret 0x45),
    ([0xA700001D], .winV 0x1d),
    ([0xA7020007], .winS 0x7),
    ([0xA8000A5C], .syncf 0xa5c),
    ([0xA9000000], .yieldW),
    ([0xAA000000], .exit),
    ([0xAB000000], .nop),
    ([0xAC00BEEF], .brk 0xbeef),
    ([0xAD00CAFE], .trap 0xcafe),
    ([0xAE000000], .rft)],
    (decodeClause e.1).toOption = some e.2 := by decide +kernel

/-- Fields placed as the manual places them: vector words (R82, R83). -/
theorem test_decode_vector1 : ∀ e ∈ [
    ([0x40085900], Instr.vmov 0x21 0x32 none),
    ([0x40485900], .vbcast 0x21 0x32),
    ([0x40884000], .vlane 0x21),
    ([0x40C85943], .vadd 0x21 0x32 0x43 none),
    ([0x41085943], .vsub 0x21 0x32 0x43 none),
    ([0x41485943], .vadds 0x21 0x32 0x43 none),
    ([0x41885943], .vsubs 0x21 0x32 0x43 none),
    ([0x41C85943], .vmul 0x21 0x32 0x43 none),
    ([0x42085943], .vmulh 0x21 0x32 0x43 none),
    ([0x42485943], .vmulhu 0x21 0x32 0x43 none),
    ([0x42C85900], .vabs 0x21 0x32 none),
    ([0x43085900], .vneg 0x21 0x32 none),
    ([0x43485943], .vmin 0x21 0x32 0x43 none),
    ([0x43885943], .vmax 0x21 0x32 0x43 none),
    ([0x43C85943], .vminu 0x21 0x32 0x43 none),
    ([0x44085943], .vmaxu 0x21 0x32 0x43 none),
    ([0x44485943], .vand 0x21 0x32 0x43 none),
    ([0x44885943], .vor 0x21 0x32 0x43 none),
    ([0x44C85943], .vxor 0x21 0x32 0x43 none),
    ([0x45085900], .vnot 0x21 0x32 none),
    ([0x45485943], .vshl 0x21 0x32 0x43 none),
    ([0x45885943], .vshr 0x21 0x32 0x43 none),
    ([0x45C85943], .vsar 0x21 0x32 0x43 none),
    ([0x46085943], .vbfx 0x21 0x32 0x43 none)],
    (decodeClause e.1).toOption = some e.2 := by decide +kernel

/-- Fields placed as the manual places them: vector words (R82, R83). -/
theorem test_decode_vector2 : ∀ e ∈ [
    ([0x46885900], Instr.vclz 0x21 0x32 none),
    ([0x46C85900], .vpopc 0x21 0x32 none),
    ([0x47885943], .vlea 0x2 0x21 0x32 0x43 none),
    ([0x48165943], .vcmp 0x5 0x9 0x32 0x43 none),
    ([0x49485943], .fadd 0x1 0x21 0x32 0x43 none),
    ([0x4A485943], .fsub 0x1 0x21 0x32 0x43 none),
    ([0x4B485943], .fmul 0x1 0x21 0x32 0x43 none),
    ([0x4D485943], .fmin 0x1 0x21 0x32 0x43 none),
    ([0x4E485943], .fmax 0x1 0x21 0x32 0x43 none),
    ([0x4F485943], .fdiv 0x1 0x21 0x32 0x43 none),
    ([0x50485943], .fscale 0x1 0x21 0x32 0x43 none),
    ([0x51165943], .fcmp 0x5 0x9 0x32 0x43 none),
    ([0x52085902], .fabs 0x21 0x32 0x2 none),
    ([0x52485901], .fneg 0x21 0x32 0x1 none),
    ([0x52885901], .fclass 0x21 0x32 0x1 none),
    ([0x52C85901], .frnd 0x21 0x32 0x1 none),
    ([0x53085901], .fsqrt 0x21 0x32 0x1 none),
    ([0x53485906], .frcp 0x21 0x32 true 0x2 none),
    ([0x53885905], .frsq 0x21 0x32 true 0x1 none),
    ([0x53C85905], .fexp2 0x21 0x32 true 0x1 none),
    ([0x54085905], .flog2 0x21 0x32 true 0x1 none),
    ([0x54485905], .fsin 0x21 0x32 true 0x1 none),
    ([0x54885905], .fcos 0x21 0x32 true 0x1 none),
    ([0x54C85905], .ftanh 0x21 0x32 true 0x1 none)],
    (decodeClause e.1).toOption = some e.2 := by decide +kernel

/-- Fields placed as the manual places them: vector words (R82, R83). -/
theorem test_decode_vector3 : ∀ e ∈ [
    ([0x5508590C], Instr.cvtff 0x21 0x32 0x1 0x4 none),
    ([0x5548595A], .cvtfi 0x21 0x32 true 0x3 0x2 none),
    ([0x5588595A], .cvtif 0x21 0x32 true 0x3 0x2 none),
    ([0x55C85901], .vflg 0x21 0x32 true),
    ([0x56885943], .pack8 0x2 0x21 0x32 0x43 none),
    ([0x57C85901], .unpk8 0x3 0x21 0x32 true none),
    ([0x58085943], .perm 0x21 0x32 0x43 none),
    ([0x58485906], .qswz 0x21 0x32 0x6 none),
    ([0x58825900], .matchKeys 0x9 0x32 none),
    ([0x58C8592B], .scan 0x21 0x32 true 0x1 0x3 none),
    ([0x5908590B], .red 0x21 0x32 0x1 0x3 none),
    ([0x42A85943, 0x0AAC58C4], .vmad 0x21 0x32 0x43 { rnd := 5, swzC := 0x15, swzB := 0x22, swzA := 0x31, codeC := 0x44 }),
    ([0x46685943, 0x0AAC58C4], .vbfi 0x21 0x32 0x43 { rnd := 5, swzC := 0x15, swzB := 0x22, swzA := 0x31, codeC := 0x44 }),
    ([0x48685943, 0x0004588B], .vsel 0x21 0x32 0x43 { rnd := 0, swzC := 0, swzB := 0x22, swzA := 0x31, codeC := 0x0B }),
    ([0x4C685943, 0x0AAC58C4], .ffma 1 0x21 0x32 0x43 { rnd := 5, swzC := 0x15, swzB := 0x22, swzA := 0x31, codeC := 0x44 }),
    ([0x40E85943, 0x0A045880], .vadd 0x21 0x32 0x43 (some { rnd := 5, swzC := 0, swzB := 0x22, swzA := 0x31, codeC := 0 }))],
    (decodeClause e.1).toOption = some e.2 := by decide +kernel

/-- Fields placed as the manual places them: vector words with an immediate (R84). -/
theorem test_decode_vectorImmediate : ∀ e ∈ [
    ([0x6043ABCD], Instr.vmovi 0x21 0x1abcd),
    ([0x6142C955], .vaddVri 0x21 0x32 0x155),
    ([0x6242C955], .vmulVri 0x21 0x32 0x155),
    ([0x6342C955], .vandVri 0x21 0x32 0x155),
    ([0x6442C955], .vorVri 0x21 0x32 0x155),
    ([0x6542C955], .vxorVri 0x21 0x32 0x155),
    ([0x6642C815], .vshlVri 0x21 0x32 0x15),
    ([0x6742C815], .vshrVri 0x21 0x32 0x15),
    ([0x6842C815], .vsarVri 0x21 0x32 0x15),
    ([0x6942C955], .vminVri 0x21 0x32 0x155),
    ([0x6A42C955], .vmaxVri 0x21 0x32 0x155),
    ([0x6B42C955], .vminuVri 0x21 0x32 0x155),
    ([0x6C42C955], .vmaxuVri 0x21 0x32 0x155),
    ([0x6DB2C955], .vcmpVri 0x5 0x9 0x32 0x155),
    ([0x6EA0C9C3], .topki 0x50 0x32 0x3 0x43)],
    (decodeClause e.1).toOption = some e.2 := by decide +kernel

/-- Fields placed as the manual places them: engine words (R88, R89). -/
theorem test_decode_engine : ∀ e ∈ [
    ([0xC0080000], Instr.mzero 0x2),
    ([0xC0880380], .mgrow 0x2 0x7),
    ([0xC0E98000], .msnap true 0x2 0x6),
    ([0xC1298000], .mout true 0x2 0x6),
    ([0xC1480005], .mpri 0x2 0x5),
    ([0xC1880000], .mrel 0x2),
    ([0xC4000500], .bndNew 0xa),
    ([0xC440058A], .bndFork 0xb 0xa),
    ([0xC480000B], .bndSet 0xb),
    ([0xC4C0000A], .bndRet 0xa),
    ([0xC500000B], .bndMrg 0xb),
    ([0xC8000000], .bar),
    ([0xC8400200], .barl 0x4),
    ([0xC8800000], .barg),
    ([0xC0694380, 0x007FDC86], .mloop true 2 5 7 { anchor := 0x3FE, anc := true, two := true, planes := 9, kb := 6 }),
    ([0xC8C14009, 0x90000000], .sigAdd 5 9 9),
    ([0xC9014009, 0x60000000], .sigSet 5 9 6),
    ([0xC9414009, 0x30000002], .sigWait 5 9 3 2),
    ([0xCC0004A5, 0x07FFFFF0], .spawn 9 0x25 7 0xFFFFF0),
    ([0xCC400480, 0x00FFFFF0], .padClose 9 0xFFFFF0)],
    (decodeClause e.1).toOption = some e.2 := by decide +kernel

/-- Fields placed as the manual places them: rein words (R378-R387). -/
theorem test_decode_rein : ∀ e ∈ [
    ([0x00000000], Instr.halt),
    ([0x080000C8], .chunk 0xc8),
    ([0x10000000], .nextW),
    ([0x20E3FFFF], .addg 0x3 0x11 0x1ffff),
    ([0x28C1FFF0], .loop 0x3 0x1fff0),
    ([0x30C00005], .brz 0x3 0x5),
    ([0x38C00005], .brnz 0x3 0x5),
    ([0x41813000], .waits 0x6 0x9 0x2),
    ([0x49813D60], .sigs 0x6 0x9 true true 0x15 true),
    ([0x1A400000, 0x80000001], .setg 9 0x80000001),
    ([0x1A400001, 0x80000001], .setgHi 9 0x80000001),
    ([0x5262A000, 0x00004000], .xmit 9 17 5 0x4000),
    ([0x5262A180, 0x00000000], .xmitA 9 17 5 true 0),
    ([0x5A62A000, 0x00004000], .stow 9 17 5 0x4000),
    ([0x5A620115, 0x00000123], .stowA 9 17 21 0x123),
    ([0x6262A000, 0x24000123], .fold 9 17 5 2 4 0x123),
    ([0x6A62AC00, 0x13000123], .foldf 9 17 5 6 1 3 0x123)],
    decodeReinWords e.1 = some e.2 := by decide +kernel

/-- Fields placed as the manual places them: memory words and their extension words (R85, R71). -/
theorem test_decode_memory : ∀ e ∈ [
    ([0x8054AC75, 0x32FFFFF4], Instr.ld { k := 5, data := 0x25, index := 0x31, mod := 0x35, ord := 3, pol := 2, off := 0xfffff4 }),
    ([0x8154AC56, 0x84000010], .st { k := 5, data := 0x25, index := 0x31, mod := 0x16, ord := 8, pol := 4, off := 0x10 }),
    ([0x8254A023, 0x51000010], .ldu { k := 5, data := 0x25, index := 0x0, mod := 0x23, ord := 5, pol := 1, off := 0x10 }),
    ([0x8304A022, 0x00000040], .spl { k := 0, data := 0x25, index := 0x0, mod := 0x22, ord := 0, pol := 0, off := 0x40 }),
    ([0x84500010, 0x00000040], .fil { k := 5, data := 0x0, index := 0x0, mod := 0x10, ord := 0, pol := 0, off := 0x40 }),
    ([0x8554AC76, 0x03000010], .qst { k := 5, data := 0x25, index := 0x31, mod := 0x36, ord := 0, pol := 3, off := 0x10 }),
    ([0x8654AC75, 0x03000010], .ldq { k := 5, data := 0x25, index := 0x31, mod := 0x35, ord := 0, pol := 3, off := 0x10 }),
    ([0x87514C60, 0x00000000], .qrekey { k := 5, data := 0xa, index := 0x31, mod := 0x20, ord := 0, pol := 0, off := 0x0 }),
    ([0x88514C70, 0x00FFFFFE], .xcopy { k := 5, data := 0xa, index := 0x31, mod := 0x30, ord := 0, pol := 0, off := 0xfffffe }),
    ([0x89514C60, 0x00000000], .xgath { k := 5, data := 0xa, index := 0x31, mod := 0x20, ord := 0, pol := 0, off := 0x0 }),
    ([0x8A500000, 0x000000FF], .kld { k := 5, data := 0x0, index := 0x0, mod := 0x0, ord := 0, pol := 0, off := 0xff }),
    ([0x8B514000, 0x00000000], .kmov { k := 5, data := 0xa, index := 0x0, mod := 0x0, ord := 0, pol := 0, off := 0x0 }),
    ([0x8C514C40, 0x00000000], .knarrow { k := 5, data := 0xa, index := 0x31, mod := 0x0, ord := 0, pol := 0, off := 0x0 }),
    ([0x8D514C40, 0x00000000], .kview { k := 5, data := 0xa, index := 0x31, mod := 0x0, ord := 0, pol := 0, off := 0x0 }),
    ([0x8E514000, 0x00000005], .kperm { k := 5, data := 0xa, index := 0x0, mod := 0x0, ord := 0, pol := 0, off := 0x5 }),
    ([0x8F54A000, 0x00000013], .kfield { k := 5, data := 0x25, index := 0x0, mod := 0x0, ord := 0, pol := 0, off := 0x13 }),
    ([0x8F54A001, 0x00000010], .kfieldW { k := 5, data := 0x25, index := 0x0, mod := 0x1, ord := 0, pol := 0, off := 0x10 }),
    ([0x90000000, 0x00000000], .drainst { k := 0, data := 0x0, index := 0x0, mod := 0x0, ord := 0, pol := 0, off := 0x0 }),
    ([0x91514C78, 0x02000010], .probe { k := 5, data := 0xa, index := 0x31, mod := 0x38, ord := 0, pol := 2, off := 0x10 }),
    ([0x9254AC79, 0xF2000010], .atom { k := 5, data := 0x25, index := 0x31, mod := 0x39, ord := 15, pol := 2, off := 0x10 }),
    ([0x9354AC78, 0xB2000010], .cas { k := 5, data := 0x25, index := 0x31, mod := 0x38, ord := 11, pol := 2, off := 0x10 }),
    ([0x94000000, 0xE0000000], .fence { k := 0, data := 0x0, index := 0x0, mod := 0x0, ord := 14, pol := 0, off := 0x0 }),
    ([0x9554AC63, 0x21000010], .ldb { k := 5, data := 0x25, index := 0x31, mod := 0x23, ord := 2, pol := 1, off := 0x10 })],
    (decodeClause e.1).toOption = some e.2 := by decide +kernel
/-! Ill-formed terms, one for each check of `wellFormed`. -/

theorem smoke_scalar_refused : ∀ i ∈ [Instr.mtos 0x7F 1, .srd 1 0x0D, .srd 1 0x19, .srd 1 0x1B, .srd 1 0x2B, .swr 0x11 1,
    .swr 0x27 1, .winV 30, .winS 8], wellFormed i = false := by decide +kernel

/-- A destination 0x01 to 0x0F, a swizzle that R77 does not list, and a swizzle or code of an operand that is not read. -/
theorem smoke_vector_refused : ∀ i ∈ [Instr.vmov 0x0F 0x10 none, .vbcast 1 0, .vlane 0x0F, .vadd 1 0x10 0x10 none,
    .vadd 0x20 0x10 0x10 (some { rnd := 0, swzC := 0, swzB := 0, swzA := 0x26, codeC := 0 }),
    .vadd 0x20 0x10 0x10 (some { rnd := 0, swzC := 0, swzB := 0x32, swzA := 0, codeC := 0 }),
    .vadd 0x20 0x10 0x10 (some { rnd := 0, swzC := 1, swzB := 0, swzA := 0, codeC := 0 }),
    .vadd 0x20 0x10 0x10 (some { rnd := 0, swzC := 0, swzB := 0, swzA := 0, codeC := 0x20 }),
    .vmov 0x20 0x10 (some { rnd := 0, swzC := 0, swzB := 1, swzA := 0, codeC := 0 }),
    .vmad 0x20 0x10 0x10 { rnd := 0, swzC := 0x26, swzB := 0, swzA := 0, codeC := 0x20 },
    .vmad 2 0x10 0x10 { rnd := 0, swzC := 0, swzB := 0, swzA := 0, codeC := 0x20 },
    .vcmp 0 1 0x10 0x10 (some { rnd := 0, swzC := 0, swzB := 0, swzA := 0x2F, codeC := 0 }),
    .vsel 0x20 0x10 0x10 { rnd := 0, swzC := 0, swzB := 0, swzA := 0, codeC := 0x10 },
    .vsel 0x20 0x10 0x10 { rnd := 0, swzC := 1, swzB := 0, swzA := 0, codeC := 1 },
    .fadd 3 0x20 0x10 0x10 none, .ffma 3 0x20 0x10 0x10 { rnd := 0, swzC := 0, swzB := 0, swzA := 0, codeC := 0x20 },
    .fabs 0x20 0x10 3 none, .frcp 0x20 0x10 false 3 none, .cvtff 0x20 0x10 5 0 none, .cvtff 0x20 0x10 0 5 none,
    .cvtff 0x20 0x10 1 1 none, .cvtfi 0x20 0x10 false 5 0 none, .cvtif 0x20 0x10 false 0 3 none, .vflg 1 0x10 false,
    .pack8 0 0 0x10 0x10 none, .unpk8 0 1 0x10 false none, .qswz 0x20 0x10 3 none,
    .matchKeys 1 0x10 (some { rnd := 0, swzC := 0, swzB := 1, swzA := 0, codeC := 0 }),
    .scan 0x20 0x10 false 3 0 none, .scan 0x20 0x10 false 0 6 none, .red 0x20 0x10 2 3 none], wellFormed i = false := by decide +kernel

theorem smoke_vectorImmediate_refused : ∀ i ∈ [Instr.vmovi 1 0, .vaddVri 0x0F 0x10 1, .vshlVri 0x20 0x10 32, .vsarVri 1 0x10 1,
    .topki 0x0F 0x10 0 0x10, .topki 0x71 0x10 7 0x10, .topki 0x7F 0x10 0 0x10], wellFormed i = false := by decide +kernel

/-- A destination in the queue for more than one word, an order or policy that the instruction does not take, and a field that
the row leaves zero. -/
theorem smoke_memory_refused :
    let w : MemWord := { k := 0, data := 0x20, index := 0, mod := 0, ord := 0, pol := 0, off := 0 }
    ∀ i ∈ [Instr.ld { w with data := 1 }, .ld { w with data := 0, mod := 1 }, .ld { w with ord := 6 }, .ld { w with pol := 5 },
      .st { w with data := 0, mod := 1 }, .st { w with ord := 5 }, .st { w with ord := 11 }, .st { w with pol := 5 },
      .ldu { w with mod := 0x10 }, .ldu { w with mod := 4 }, .ldu { w with index := 1 }, .ldu { w with data := 0x7D, mod := 3 }, .ldu { w with ord := 6 },
      .spl { w with ord := 1 }, .spl { w with pol := 1 }, .spl { w with index := 1 }, .spl { w with mod := 4 }, .spl { w with k := 1 },
      .spl { w with data := 0x0F }, .fil { w with mod := 0x10 }, .fil { w with mod := 0x11, data := 0 }, .qst { w with ord := 6 },
      .qst { w with pol := 5 }, .ldq { w with data := 2 }, .ldq { w with ord := 1 }, .qrekey { w with data := 0x10 },
      .qrekey { w with data := 1, mod := 0x10 }, .qrekey { w with data := 1, off := 4 }, .xcopy { w with data := 0x10 },
      .xcopy { w with data := 1, mod := 1 }, .xgath { w with data := 1, off := 1 }, .kld { w with data := 1 },
      .kld { w with data := 0, index := 1 }, .kld { w with data := 0, mod := 0x20 }, .kld { w with data := 0, off := 256 },
      .kmov { w with data := 0x10 }, .kmov { w with data := 1, index := 1 }, .kmov { w with data := 1, off := 1 },
      .knarrow { w with data := 1, index := 0x7F }, .kview { w with data := 1, index := 0x7D }, .kperm { w with data := 1, off := 6 },
      .kperm { w with data := 1, index := 1 }, .kfield { w with off := 20 }, .kfield { w with mod := 1 }, .kfieldW w,
      .kfieldW { w with mod := 1, off := 20 }, .drainst w, .drainst { w with data := 0, k := 1 }, .probe { w with data := 1, ord := 1 },
      .probe { w with data := 0x10 }, .probe { w with data := 1, mod := 1 }, .probe { w with data := 1, pol := 5 },
      .atom { w with data := 0 }, .atom { w with mod := 10 }, .atom { w with pol := 5 }, .cas { w with data := 0x7F },
      .cas { w with data := 0 }, .cas { w with mod := 1 }, .cas { w with pol := 5 }, .fence w, .fence { w with data := 0, pol := 1 },
      .fence { w with data := 0, off := 1 }, .ldb { w with mod := 0x10 }, .ldb { w with mod := 4 }, .ldb { w with data := 1 },
      .ldb { w with ord := 6 }, .ldb { w with pol := 5 }], wellFormed i = false := by decide +kernel

theorem smoke_engine_refused : ∀ i ∈ [Instr.sigAdd 0 0x7F 0, .sigAdd 0 1 1, .sigSet 0 0x7F 0, .sigSet 0 1 11, .sigWait 0 0x7F 0 0,
    .sigWait 0 1 6 0], wellFormed i = false := by decide +kernel

theorem smoke_rein_refused : ∀ i ∈ [Instr.chunk 1, .xmit 0 0 0 0, .xmit 0 0 0 0x4001, .xmitA 0 0 0 false 0, .stow 0 0 0 0,
    .stowA 0 0 0 0x4001, .fold 0 0 0 3 0 1, .fold 0 0 0 0 5 1, .fold 0 0 0 0 0 0, .foldf 0 0 0 0 3 0 1, .foldf 0 0 0 0 0 5 1, .sigs 0 0 false false 1 false],
    wellFormed i = false := by decide +kernel

/-- Words that are no instruction: the reserved class, unassigned opcodes, reserved bits set, a missing extension word (R69, R78). -/
theorem test_decode_refuses : ∀ ws ∈ [[0xE0000000], [0x0C000000], [0x27000000], [0x5BC00000], [0x6F000000], [0x96000000, 0],
    [0xAF000000], [0xC1C00000], [0xA0020000], [0xA8001000], [0xA8020000], [0x40010880], [0x40200000, 0x10000000], [0x80040000],
    [0x00600000]], (decodeClause ws).toOption = none := by decide +kernel

theorem test_decodeRein_refuses : ∀ ws ∈ [[0x70000000, 1], [0x00000001, 1], [0x08000001, 1], [0x08020004, 1], [0x10000001, 1], [0x18000002, 1], [0x28020000, 1], [0x40000001, 1], [0x48000001, 1], [0x50000001, 1], [0x58000011, 1], [0x60000100, 1], [0x68000001, 1]],
    (decodeReinWords ws).isNone = true := by decide +kernel

/-! A small device: context 1 is active, object 1 has one page, and one block of one group of 16 lanes runs on core 0. -/

/-- An image header with a handler at 256, and 4096 bytes of block memory and of spill stack (R131). -/
def header : Nat := setupHeader 16 + 4096 * 2 ^ 64 + 4096 * 2 ^ 96 + 256 * 2 ^ 256

def grid : Grid := { newGrid State.reset 9 1 0 0 setupLaunch header (1, 1, 1) false none with nextBlock := 1 }

def block : Block :=
  { grid := 2, cx := 1, b := 0, cores := [0], groups := [1], threads := 16, bmem := [], saved := false, tiles := [] }

/-- The record of 16 words of FP32 in block memory, with every right (R218, R222). -/
def blockRec : Rec := BitVec.ofNat 256 (0xFFFFFF + 15 * 2 ^ 64 + 64 * 2 ^ 104 + 31 * 2 ^ 230 + 2 ^ 235)

/-- The same 16 words in the page of object 1. -/
def pageRec : Rec := BitVec.ofNat 256 (1 + 15 * 2 ^ 64 + 64 * 2 ^ 104 + 31 * 2 ^ 230 + 2 ^ 235)

/-- The group within a clause of one word at 256; K1 names block memory, K2 the page. -/
def lanes : Group :=
  { Group.blank with
    cx := 1, grid := 2, block := 3, width := 16, nregs := 64, sblk := 1, spillBytes := 4096, img := setupImage, hoff := 256
    codeEnd := 324, status := .issuing, pc := 260, cla := 256, cend := 264, seta := 1, setb := 2
    Q := List.replicate 16 (List.replicate 16 { val := 0, pend := none })
    K := [(1, blockRec), (2, pageRec)], exm := 0xFFFF, pth := 0xFFFF, live := 0xFFFF }

/-- The device with `g` in step. -/
def running (g : Group) : State :=
  let s := setupTables State.reset
  { s with cur := 1, fresh := 100
           k := { s.k with grids := [(2, grid)], blocks := [(3, block)], groups := [(1, g)] } }

/-- Group `g` as the fixture has it may issue with the operands `u`. -/
theorem ready_of {g : Group} {u : Uses} (h : checkUses (running g) 1 g u = none) : Ready (running g) g u := ⟨rfl, h⟩

theorem flagRoom_of {g : Group} {sel : Bool} (h : (g.sideFlag sel).all (fun f => decide (g.count f < 63)) = true) :
    FlagRoom g sel := by
  intro f hf
  rw [hf] at h
  simpa using h

theorem fixture_rec : Rec.wf blockRec = true ∧ Rec.wf pageRec = true ∧ Rec.extent blockRec = 64 ∧ blockRec.special = true ∧
    pageRec.special = false := by decide +kernel

theorem fixture_canonical : (running lanes).mem.phys.wf = true ∧ (running lanes).mem.keyTag.wf 0 = true := by decide +kernel

/-! Witnesses: for every statement, a state and operands that meet its hypotheses, clause by clause. -/

theorem witness_scalarResultsOfR179 : Ready (running lanes) lanes { sc := [1, 2] } ∧ Ready (running lanes) lanes { sc := [127] } ∧
    Ready (running lanes) lanes (scalars 1 2 127 none) ∧ Ready (running lanes) lanes (scalars 1 2 0 (some 7)) ∧
    LeadingZeros 31 1 ∧ LeadingZeros 32 0 ∧ LeadingZeros 0 0xFFFFFFFF :=
  ⟨ready_of (by decide +kernel), ready_of (by decide +kernel), ready_of (by decide +kernel), ready_of (by decide +kernel),
    by decide, by decide, by decide⟩

theorem witness_scalarFieldAndImmediateResults : Ready (running lanes) lanes (scalars 1 2 3 none) ∧
    Ready (running lanes) lanes { sc := [1, 2] } ∧ IsExtract 0xFFFFFFF8 0x80 0x884 ∧ IsExtract 0 5 0 ∧ IsInsert 0xFFFF00FF 0 0x108 0xFFFFFFFF :=
  ⟨ready_of (by decide +kernel), ready_of (by decide +kernel), by decide, by decide, by decide⟩

theorem witness_maskInstructionResults : Ready (running lanes) lanes { msk := [1, 2, 15] } ∧
    Ready (running lanes) lanes { msk := [2], sc := [126, 127] } ∧ Ready (running lanes) lanes { msk := [] } ∧
    LowestSet 5 0x60 ∧ LowestSet 64 0 ∧ LowestSet 63 0x8000000000000000 :=
  ⟨ready_of (by decide +kernel), ready_of (by decide +kernel), ready_of (by decide +kernel), by decide, by decide, by decide⟩

theorem witness_groupRegisterFiles : lanes.sliceGone 15 = false ∧ (511 : Nat) < 512 := by decide +kernel

theorem witness_wordsFollowEachOther : lanes.yieldTo = none ∧ lanes.cend ≤ lanes.pc + 4 * 1 ∧
    ({ lanes with cend := 272 } : Group).pc + 4 * 2 < 272 := by decide +kernel

/-- An inner word, a last word, targets inside the image's code and at its end, and return offsets of each kind. -/
theorem witness_transfersGoToTheirTargets :
    ¬ Last { lanes with cend := 268 } ∧ Last lanes ∧ NothingHeld lanes ∧ Ready (running lanes) lanes {} ∧
    Ready (running lanes) lanes { sc := [5] } ∧ InCode lanes (branchTarget lanes 16) ∧ ¬ InCode lanes (branchTarget lanes 17) ∧
    ¬ InCode lanes (branchTarget lanes (-1)) ∧ (lanes.rdS 5).toNat % 4 = 0 ∧ ¬ InCode lanes (lanes.rdS 5).toNat ∧
    ((lanes.wrS 5 6).rdS 5).toNat % 4 ≠ 0 ∧ InCode lanes ((lanes.wrS 5 320).rdS 5).toNat :=
  ⟨by decide, by decide, by decide, ready_of (by decide +kernel), ready_of (by decide +kernel), by decide, by decide, by decide,
    by decide +kernel, by decide +kernel, by decide +kernel, by decide +kernel⟩

theorem witness_branchSplitsTheGroup : Last lanes ∧ Ready (running lanes) lanes { msk := [3] } ∧
    InCode lanes (branchTarget lanes 5) ∧ lanes.exm &&& lanes.rdM 3 = 0 ∧
    lanes.exm &&& ~~~ (lanes.wrM 3 0xFFFF).rdM 3 = 0 ∧
    setBits (lanes.exm &&& ~~~ (lanes.wrM 3 0xFFF).rdM 3) ≤ setBits (lanes.exm &&& (lanes.wrM 3 0xFFF).rdM 3) ∧
    ¬ setBits (lanes.exm &&& ~~~ (lanes.wrM 3 1).rdM 3) ≤ setBits (lanes.exm &&& (lanes.wrM 3 1).rdM 3) :=
  ⟨by decide, ready_of (by decide +kernel), by decide, by decide +kernel, by decide +kernel, by decide +kernel, by decide +kernel⟩

/-- A group whose BRV has ejected lanes 4 to 15 with join counter 2. -/
def split : Group :=
  { lanes with exm := 0xF, pth := 0xF, J := [(2, 1)], conts := [{ pc := 264, mask := 0xFFF0, j := 2, inHandler := false }] }

theorem witness_joinMergesOrReenters : Last split ∧ Ready (running split) split {} ∧ split.joinCount 0 = 0 ∧ split.joinCount 2 ≠ 0 ∧
    split.conts.find? (fun k => decide (k.j = 2)) = some { pc := 264, mask := 0xFFF0, j := 2, inHandler := false } ∧
    (let g := { split with reenter := split.conts.head?, status := .boundary }
     outriderFree (running g) 0 = true ∧ (running g).k.groups = [] ++ (1, g) :: [] ∧ Config.clusterOf g.core = 0 ∧
      ((running g).ctx g.cx).st = 1) :=
  ⟨by decide, ready_of (by decide +kernel), by decide, by decide, by decide, by decide +kernel⟩

theorem witness_windowsAndWaits : Ready (running lanes) lanes {} ∧ Last lanes ∧ 16 * (3#17).toNat < lanes.nregs ∧
    lanes.nregs ≤ 16 * (4#17).toNat ∧ (0#17).toNat < lanes.sblk ∧ lanes.sblk ≤ (1#17).toNat ∧
    (∀ k, k < 12 → (0xFFF#12).getLsbD k → lanes.count k = 0) ∧
    (11 < 12 ∧ (0x800#12).getLsbD 11 ∧ ({ lanes with F := [(11, 1)] } : Group).count 11 ≠ 0) :=
  ⟨ready_of (by decide +kernel), by decide, by decide, by decide, by decide, by decide, by decide +kernel, by decide +kernel⟩

theorem witness_specialRegisters : Ready (running lanes) lanes { sc := [5] } ∧ lanes.outrider = none ∧
    (running lanes).block? lanes.block = some block ∧ (running lanes).grid? lanes.grid = some grid ∧ grid.node = none ∧ grid.det = false ∧
    lanes.ih = false ∧ Ready (running { lanes with ih := true }) { lanes with ih := true } { sc := [5] } :=
  ⟨ready_of (by decide +kernel), rfl, rfl, rfl, rfl, by decide +kernel, rfl, ready_of (by decide +kernel)⟩

/-- EXIT of some lanes, of the last of a path with a continuation, of the last with lanes held at a JOIN, in a handler, and of
the whole group. -/
theorem witness_exitRemovesLanes :
    let here (g : Group) : Prop := (running g).group? (running g).cur = some g ∧ Last g ∧ g.dfaults = []
    (here { lanes with exm := 0xF } ∧ (0xFFFF#64 &&& ~~~ 0xF#64) ≠ 0) ∧
    (here split ∧ split.pth &&& ~~~ split.exm = 0 ∧ split.conts = split.conts.headD default :: []) ∧
    (let g := { split with conts := [], J := [], holds := [(7, { hp := 0xFFF0, ha := 0, after := 264 })] }
     here g ∧ (∀ i, i < 7 → (g.hold i).hp = 0) ∧ (g.hold 7).hp ≠ 0) ∧
    here { lanes with ih := true } ∧ (here lanes ∧ lanes.pth &&& ~~~ lanes.exm = 0 ∧ ∀ j, j < 8 → (lanes.hold j).hp = 0) := by
  decide +kernel

theorem witness_trapEntersTheHandler : lanes.ih = false ∧ handlerOf (running lanes) lanes ≠ 0 ∧ lanes.outrider = none ∧
    lanes.status ≠ .boundary ∧ Ready (running lanes) lanes {} ∧ Last lanes :=
  ⟨rfl, by decide +kernel, rfl, by decide, ready_of (by decide +kernel), by decide⟩

theorem witness_trapWithoutHandlerFaultsTheContext :
    ({ lanes with ih := true } : Group).ih = true ∧ ((running lanes).ctx 1).st = 1 ∧
    handlerOf (running { lanes with hoff := 0 }) { lanes with hoff := 0 } = 0 := by decide +kernel

/-- A group in its handler whose fault stood at the second word of the clause at 256, which is in memory. -/
def inHandler : Group := { lanes with ih := true, fcla := 256, fres := 264, pc := 320, cla := 316, cend := 324 }

/-- A clause of two words at 256 in the image of `running`. -/
def withCode (s : State) : State :=
  putDevice s (s.ctx 1).key (0x100000 + 256) ([0x1000FF00, 0x200000F0, 0x200000F0].flatMap bytesOfWord)

theorem witness_returnFromTheHandler :
    let s := withCode (running inHandler)
    (s.group? s.cur = some inHandler ∧ checkUses s s.cur inHandler {} = none ∧ Last inHandler) ∧ lanes.ih = false ∧
    (∀ c ∈ inHandler.conts, c.inHandler = false) ∧ inHandler.fcla.toNat % 4 = 0 ∧ inHandler.fres ≠ inHandler.fcla ∧
    ((clauseAt s inHandler 256).toOption.join.map (fun e => (e.2.1, e.2.2))) = some ([260, 264], 268) ∧ InCode inHandler 264 ∧ InCode inHandler 268 ∧
    InCode inHandler inHandler.fcla.toNat := by decide +kernel

theorem witness_breakpointParks : Ready (running lanes) lanes {} ∧ lanes.outrider = none := ⟨ready_of (by decide +kernel), rfl⟩

theorem witness_laneResultsAreDelivered : lanes.width ≤ 64 ∧ lanes.bv + (0x20#7).toNat < 0x210 ∧ (0x10 ≤ (0x20#7).toNat) ∧
    (∀ l, l < lanes.width → lanes.exm.getLsbD l ∧ lanes.sliceGone l = false) ∧
    ({ lanes with exm := 1 } : Group).exm.getLsbD 15 = false := by decide +kernel

/-- A modifier word with a lane swizzle, and a destination in the queue alone. -/
theorem witness_laneIntegerResults :
    let y : Mod := { rnd := 0, swzC := 0x01, swzB := 0x12, swzA := 0x20, codeC := 0x22 }
    Ready (running lanes) lanes (vuses 0x20 [(0x21, (modOf none).swzA)]) ∧
    Ready (running lanes) lanes (vuses 0 [(0x21, (modOf none).swzA), (0x0F, (modOf none).swzB)]) ∧
    Ready (running lanes) lanes (vuses 0x20 [(0x21, y.swzA), (0x10, y.swzB), (y.codeC, y.swzC)]) ∧
    LeadingZeros 0 0x80000000 ∧ IsExtract 0xFFFFFFFF 0x80000000 0xC1F ∧ IsInsert 0x12345678 0 0 0x12345678 :=
  ⟨ready_of (by decide +kernel), ready_of (by decide +kernel), ready_of (by decide +kernel), by decide, by decide, by decide⟩

theorem witness_laneImmediateResults : Ready (running lanes) lanes { vw := [0x20], sc := [5] } ∧
    Ready (running lanes) lanes { vw := [0x10] } ∧ Ready (running lanes) lanes (vuses 0x20 [(0x4F, 0)]) :=
  ⟨ready_of (by decide +kernel), ready_of (by decide +kernel), ready_of (by decide +kernel)⟩

theorem witness_comparesAndSelect :
    let y : Mod := { rnd := 0, swzC := 0, swzB := 0, swzA := 0, codeC := 3 }
    lanes.width ≤ 64 ∧ Ready (running lanes) lanes { all := true, vr := [(0x21, 0), (0x22, 0)], msk := [3] } ∧
    Ready (running lanes) lanes { all := true, vr := [(0x21, 0)], msk := [3] } ∧
    Ready (running lanes) lanes { all := true, vr := [(0x21, y.swzA), (0x22, y.swzB)], vw := [0x20], msk := [y.codeC.extractLsb' 0 4] } ∧
    (∀ l, l < 64 → (0xFFFF#64).getLsbD l = if l < lanes.width ∧ lanes.exm.getLsbD l then true else (lanes.rdM 3).getLsbD l) :=
  ⟨by decide, ready_of (by decide +kernel), ready_of (by decide +kernel), ready_of (by decide +kernel), by decide +kernel⟩

theorem witness_floatLaneResults :
    let y : Mod := { rnd := 3, swzC := 0, swzB := 0, swzA := 0, codeC := 0x23 }
    Ready (running lanes) lanes (vuses 0x20 [(0x21, 0), (0x22, 0)]) ∧ Ready (running lanes) lanes (vuses 0x20 [(0x21, 0)]) ∧
    Ready (running lanes) lanes (vuses 0x20 [(0x21, y.swzA), (0x22, y.swzB), (y.codeC, y.swzC)]) :=
  ⟨ready_of (by decide +kernel), ready_of (by decide +kernel), ready_of (by decide +kernel)⟩

theorem witness_floatSpecialValues : bf16 ∈ [fp32, fp16, bf16] ∧ (1 : Nat) ≠ 0 := by decide +kernel

theorem witness_conversionResults : Ready (running lanes) lanes (vuses 0x20 [(0x21, 0)]) ∧
    Ready (running lanes) lanes (vuses 0x10 [(0x21, 0), (0x22, 0)]) ∧ 0x10 ≤ (0x10#7).toNat :=
  ⟨ready_of (by decide +kernel), ready_of (by decide +kernel), by decide⟩

theorem witness_approximatedFunctionsIssue :
    (3, Instr.flog2 0x20 0x21 true 0 none) ∈ [(0, Instr.frcp 0x20 0x21 true 0 none), (1, .frsq 0x20 0x21 true 0 none),
      (2, .fexp2 0x20 0x21 true 0 none), (3, .flog2 0x20 0x21 true 0 none)] ∧
    Ready (running lanes) lanes (vuses 0x20 [(0x21, 0)]) ∧ FlagRoom lanes true ∧ FlagRoom lanes false ∧
    FlagRoom { lanes with F := [(2, 62)] } true ∧ Active lanes 15 :=
  ⟨by decide +kernel, ready_of (by decide +kernel), flagRoom_of (by decide), flagRoom_of (by decide), flagRoom_of (by decide), by decide⟩

theorem witness_crossLaneMoves : Ready (running lanes) lanes { all := true, vw := [0x20] } ∧
    Ready (running lanes) lanes { all := true, vr := [(0x21, 0)], vw := [0x20] } ∧
    Ready (running lanes) lanes (vuses 0x20 [(0x21, 0), (0x22, 0)]) ∧ (2#3).toNat < 3 ∧ 4 ≤ (4#3).toNat ∧ lanes.width ∈ [16, 32, 64] ∧
    Ready (running lanes) lanes { all := true, vr := [(0x21, 0)], msk := [3] } ∧ Active lanes 0 ∧
    (let wide : Group := { lanes with width := 64, exm := 0x8000000000000000 }
     wide.width ∈ [16, 32, 64] ∧ Active wide 63 ∧ Ready (running wide) wide { all := true, vr := [(0x21, 0)], msk := [3] }) :=
  ⟨ready_of (by decide +kernel), ready_of (by decide +kernel), ready_of (by decide +kernel), by decide, by decide, by decide,
    ready_of (by decide +kernel), by decide, by decide, by decide, ready_of (by decide +kernel)⟩

theorem witness_scanAndReduceResults : lanes.width = 2 ^ 4 ∧ 4 ≤ 4 ∧ 4 ≤ 6 ∧
    Ready (running lanes) lanes { all := true, vr := [(0x21, (modOf none).swzA)], vw := [0x20] } ∧
    (let g : Group := { lanes with hlp := 0xC000 }
     Active g 15 ∧ Takes g 15 = false ∧ Takes g 0 = true) ∧ (5#3).toNat < 6 :=
  ⟨by decide, by decide, by decide, ready_of (by decide +kernel), by decide, by decide⟩

/-- A list of eight pairs that ends at the last code; a pair that is better than none of the stored ones, and one that is
better than all. -/
theorem witness_topInsertion : lanes.width ≤ 64 ∧ 0x10 ≤ (0x20#7).toNat ∧ (0x20#7).toNat + 2 * (7#3).toNat + 1 ≤ 0x7F ∧
    lanes.bv + (0x20#7).toNat < 0x1F0 ∧
    Ready (running lanes) lanes { all := true, vr := [(0x40, 0), (0x41, 0)], vw := (List.range 16).map ((0x20#7).toNat + ·) } ∧
    Active lanes 3 ∧ lanes.sliceGone 3 = false ∧
    better (lanes.src 0x40 0 3) (lanes.src 0x41 0 3) (lanes.vget 16 3) (lanes.vget 17 3) = false ∧
    better 0x3F800000 2 0x3F400000 1 = true :=
  ⟨by decide, by decide, by decide, by decide, ready_of (by decide +kernel), by decide, by decide +kernel, by decide +kernel,
    by decide +kernel⟩

/-- The grid of the fixture with the page's record in slot 255 of its bindings. -/
def bound255 (s : State) : State := s.setGrid 2 { grid with binds := List.replicate 256 (pageRec, false) }

def mw : MemWord := { k := 1, data := 0x20, index := 0, mod := 0, ord := 0, pol := 0, off := 0 }

theorem witness_recordMovesAndFields :
    let r3 : Group := lanes.wrS 5 3
    (16, 230, 5) ∈ recordFields ∧ ({ mw with off := 16 } : MemWord).off.toNat = 16 ∧ Ready (running lanes) lanes { kr := [1, 2] } ∧
    bindingOf (bound255 (running lanes)) lanes (255#24).toNat = some pageRec ∧
    (bindingOf (running lanes) lanes (0#24).toNat).isNone = true ∧ Ready (running lanes) lanes { kr := [1], sc := [5] } ∧
    Rec.wf (lanes.rdK 1) = true ∧ Rec.wf (lanes.rdK 3) = false ∧ (∀ i, i < 5 → (r3.rdS 5).getLsbD i = true → (r3.rdK 1).getLsbD (230 + i) = true) ∧
    (r3.rdS 5).toNat < 2 ^ 5 ∧
    Rec.wf (BitVec.ofNat 256 ((r3.rdK 1).toNat - fieldOf (r3.rdK 1) 230 5 * 2 ^ 230 + (r3.rdS 5).toNat * 2 ^ 230)) = true ∧
    Ready (running r3) r3 { kr := [1], sc := [5] } ∧
    (let narrow : Group := lanes.wrK 1 (Rec.put blockRec 230 5 2)
     4 < 5 ∧ ((narrow.wrS 5 16).rdS 5).getLsbD 4 = true ∧ (narrow.rdK 1).getLsbD (230 + 4) = false) ∧
    2 ^ 5 ≤ ((lanes.wrS 5 32).rdS 5).toNat := by decide +kernel

theorem witness_derivedRecordsStayInside :
    let w : MemWord := { mw with k := 3, data := 1, index := 8 }
    let g := (lanes.wrS 9 4).wrS 8 12
    let src : Rec := g.rdK (w.data.extractLsb' 0 4)
    Ready (running g) g { kr := [3, 1], sc := [8, 9] } ∧ Ready (running g) g { kr := [3, 1], sc := [8, 9, 10, 11] } ∧
    Ready (running g) g { kr := [3, 1] } ∧ src = blockRec ∧ Rec.wf src = true ∧ src.lay ≠ 6 ∧
    ((0 : Nat) = if 1 < src.size 2 then 2 else if 1 < src.size 1 then 1 else 0) ∧ 12 + 4 ≤ src.size 0 ∧ src.size 0 < 13 + 4 ∧
    Rec.cut src 0 12 = some 48 ∧ src.base + 48 < 2 ^ 40 ∧ Rec.cut src (src.pinv 0) 8 = some 32 ∧ Rec.cut src (src.pinv 1) 0 = some 0 ∧
    8 + 8 ≤ src.size (src.pinv 0) ∧ 0 + 1 ≤ src.size (src.pinv 1) ∧
    (let row := layRow 1
     let s1 := rowBytes src.fmt (src.size (row.getD 0 0))
     s1 * (src.size (row.getD 1 0) * (src.size (row.getD 2 0) - 1) + src.size (row.getD 1 0)) ≤ src.extent ∧ s1 < 2 ^ 20 ∧
      src.size (row.getD 1 0) < 2 ^ 16 ∧ src.size (row.getD 2 0) ≤ 256) := by decide +kernel

/-- Records that each clause stops on, and lanes that pass the extent. -/
theorem witness_laneAccessChecks :
    Ready (running lanes) lanes (ldForm mw).uses ∧ Ready (running lanes) lanes (stForm mw).uses ∧
    Ready (running lanes) lanes (lduForm mw).uses ∧ Ready (running lanes) lanes (atomForm mw 1 2).uses ∧
    Ready (running lanes) lanes (atomForm mw 2 0).uses ∧ Rec.wf (lanes.rdK 3) = false ∧
    (Rec.wf (Rec.put blockRec 230 5 1) = true ∧ (Rec.put blockRec 230 5 1).getLsbD 231 = false) ∧
    (let d : Rec := Rec.put blockRec 220 5 0x18
     Rec.wf d = true ∧ isD d.fmt = true) ∧ (blockRec.getLsbD 232 = true ∧ isD blockRec.fmt = false) ∧
    (running lanes).brandLive 1 0 = true ∧ (running lanes).brandLive 1 7 = false ∧
    (let f := ldForm { mw with off := 64 }
     (f.lanes lanes).filter (fun l => (f.cap lanes blockRec l).elim true (fun _ => false)) = List.range 16) ∧
    ((1 : Int) % 4 ≠ 0 ∧ (60 : Int) + 4 * 1 ≤ blockRec.extent ∧ (blockRec.extent : Int) < 64 + 4 * 1 ∧ (-4 : Int) % 4 = 0 ∧ blockRec.bnd = 0 ∧
      (Rec.put blockRec 228 2 1).bnd = 1 ∧ (Rec.put blockRec 228 2 2).bnd = 2 ∧ 4 * 1 ≤ blockRec.extent) := by decide +kernel

/-- LD, ST and the rest of the lane accesses run on block memory, and on the page of object 1. -/
theorem accessRuns_of {g : Group} {f : LaneForm} (hu : checkUses (running g) 1 g f.uses = none)
    (ho : (f.trap (running g) 1 g).isNone = true) (hr : (g.sideFlag f.sel).all (fun k => decide (g.count k < 63)) = true)
    (hw : f.writes = true → g.reportsFull = false)
    (hm : (Rec.special (g.rdK f.form.k) ||
      ((f.lanes g).filterMap (f.cap g (g.rdK f.form.k))).all (fun a => (a.faults (translateChunks (running g) g.cx
        (Rec.obj (g.rdK f.form.k)) true (((f.lanes g).filterMap (f.cap g (g.rdK f.form.k))).flatMap LaneAcc.offs))).isEmpty)) = true) :
    AccessRuns (running g) g f ((f.lanes g).filterMap (f.cap g (g.rdK f.form.k))) where
  here := rfl
  operands := hu
  own := Option.isNone_iff_eq_none.mp ho
  room := flagRoom_of hr
  reports := hw
  captured := rfl
  mapped := by
    rw [Bool.or_eq_true, List.all_eq_true] at hm
    exact hm.imp_right (fun h a ha => List.isEmpty_iff.mp (h a ha))

theorem witness_loadsIssue : tieAt (running lanes) lanes false = none ∧
    (∃ as, AccessRuns (running lanes) lanes (ldForm { mw with k := 2, mod := 1 }) as) ∧ (∃ as, AccessRuns (running lanes) lanes (ldqForm mw) as) ∧
    (∃ as, AccessRuns (running lanes) lanes (ldbForm mw) as) ∧ (∃ as, AccessRuns (running lanes) lanes (lduForm mw) as) ∧ Active lanes 15 :=
  ⟨by decide +kernel,
    ⟨_, accessRuns_of (by decide +kernel) (by decide +kernel) (by decide +kernel) (by decide +kernel) (by decide +kernel)⟩,
    ⟨_, accessRuns_of (by decide +kernel) (by decide +kernel) (by decide +kernel) (by decide +kernel) (by decide +kernel)⟩,
    ⟨_, accessRuns_of (by decide +kernel) (by decide +kernel) (by decide +kernel) (by decide +kernel) (by decide +kernel)⟩,
    ⟨_, accessRuns_of (by decide +kernel) (by decide +kernel) (by decide +kernel) (by decide +kernel) (by decide +kernel)⟩, by decide⟩

/-- The state after an instruction that goes on. -/
def after (o : Out) : State := match o with
  | .next t => t
  | .fault _ => State.reset
  | .refused _ => State.reset

theorem witness_loadsDeliver :
    let s := after (exec (.ld { mw with pol := 2 }) (running lanes))
    let u := after (exec (.ldu { mw with pol := 2 }) (running lanes))
    (s.op? 100).isSome = true ∧ (s.op? 100).all (fun op => (s.group? op.gid).isSome && s.draining op.cx && accessReady s 100 op &&
      decide (op.left = 0 ∧ op.fin = 0 ∧ op.res = [] ∧ op.pgot = [] ∧ usesL1 op.pol = false ∧ op.kind = .load ∧ ownStores s op.gid = [] ∧ op.dst + op.ndst ≤ 512 ∧
        (op.lanes.map (·.lane)).Nodup ∧ op.lanes.length = 16 ∧ op.toReg = true) &&
      op.lanes.all (fun a => decide (a.units.length = op.ndst) && a.units.all (fun x => x.elim true (fun y => y.hdr.isNone)))) = true ∧
    (u.op? 100).all (fun op => decide (op.kind = .loadU ∧ op.left = 0 ∧ op.lanes.length = 1) && accessReady u 100 op && u.draining op.cx) = true ∧
    (s.op? 100).all (fun op => decide ((s.group? op.gid).elim false (fun g => decide (((g.qentry 0 15).pend) = some (100, 0))))) = true := by
  decide +kernel

theorem witness_storesIssue : tieAt (running lanes) lanes true = none ∧ detOf (running lanes) lanes = false ∧
    (∃ as, AccessRuns (running lanes) lanes (stForm { mw with k := 2, mod := 1 }) as) ∧
    (∃ as, AccessRuns (running lanes) lanes (qstForm mw) as) ∧ Rec.effBrand blockRec lanes.brd = 0 ∧ Rec.effBrand pageRec lanes.brd = 0 :=
  ⟨by decide +kernel, by decide +kernel,
    ⟨_, accessRuns_of (by decide +kernel) (by decide +kernel) (by decide +kernel) (by decide +kernel) (by decide +kernel)⟩,
    ⟨_, accessRuns_of (by decide +kernel) (by decide +kernel) (by decide +kernel) (by decide +kernel) (by decide +kernel)⟩,
    by decide +kernel, by decide +kernel⟩

/-- A place in device memory or in a core's storage, as far as one can decide it. -/
def standsB (s : State) (l : Loc) : Bool := match l.sp with
  | .block b => (s.block? b).isSome
  | .spill g => (s.group? g).isSome
  | .peer _ => false
  | .phys | .host | .share _ _ => true

theorem stands_of {s : State} {l : Loc} (h : standsB s l = true) : Stands s l := by
  unfold standsB at h
  unfold Stands
  split <;> simp_all

/-- A store of one lane to the page of object 1, issued, and the same page protected. -/
def oneLane : Group := { lanes with exm := 1 }

def storedWord : State := after (exec (.st { mw with k := 2 }) (running oneLane))

theorem witness_writesArePerformed :
    (mget storedWord.mem.stores 101).elim false (fun st => storedWord.draining st.cx && storeReady storedWord 101 st &&
      decide (st.act = .bytes ∧ st.brand = 0 ∧ (st.bytes.map (·.1.loc)).Nodup ∧ st.bytes.length = 4) &&
      st.bytes.all (fun e => standsB storedWord e.1.loc && !e.1.wp)) = true ∧
    (let st : StoreOp := { ((mget storedWord.mem.stores 101).getD default) with
       bytes := ((mget storedWord.mem.stores 101).getD default).bytes.map (fun e => ({ e.1 with wp := true }, e.2)) }
     storeReady storedWord 101 st = true ∧ ∃ e ∈ st.bytes, e.1.wp = true) := by decide +kernel

theorem witness_atomicsReadAndReplace : detOf (running lanes) lanes = false ∧ Takes lanes 15 = true ∧
    (∃ as, AccessRuns (running lanes) lanes (atomForm { mw with k := 2 } 1 2) as) ∧
    (∃ as, AccessRuns (running lanes) lanes (atomForm { mw with k := 2 } 2 0) as) :=
  ⟨by decide +kernel, by decide +kernel,
    ⟨_, accessRuns_of (by decide +kernel) (by decide +kernel) (by decide +kernel) (by decide +kernel) (by decide +kernel)⟩,
    ⟨_, accessRuns_of (by decide +kernel) (by decide +kernel) (by decide +kernel) (by decide +kernel) (by decide +kernel)⟩⟩

theorem witness_atomicsReadAndReplace_performed :
    let s := after (exec (.atom { mw with k := 2, mod := 8 }) (running oneLane))
    (s.op? 100).elim false (fun op => (s.group? op.gid).isSome && s.draining op.cx && accessReady s 100 op &&
      decide (op.left = 0 ∧ op.due.length = 1 ∧ op.toReg = true ∧ op.wpLanes = 0 ∧ op.brand = 0 ∧ op.kind = .atom 8) &&
      op.due.all (fun a => decide (a.units.length = 1) && a.units.all (fun u => u.elim false (fun u =>
        decide (u.bytes.length = 4 ∧ u.n = 4 ∧ u.bit = 0 ∧ (u.bytes.map (·.loc)).Nodup) && u.bytes.all (fun p => !p.wp && standsB s p.loc)))))
      = true := by decide +kernel

theorem witness_spillStackAccesses :
    let w : MemWord := { mw with k := 0, data := 0x20, mod := 3, off := 64 }
    let r : MemWord := { mw with k := 1, data := 0, mod := 0x10, off := 4064 }
    (running lanes).group? (running lanes).cur = some lanes ∧ w.idx = false ∧ w.off.toNat % 4 = 0 ∧ runPending (running lanes) 1 lanes w = false ∧
    (w.off.toInt = w.off.toNat ∧ w.off.toNat + 4 * (w.cnt + 1) * lanes.width ≤ lanes.spillBytes) ∧
    checkUses (running lanes) 1 lanes { vr := (List.range (w.cnt + 1)).map (fun j => (w.data.toNat + j, 0)) } = none ∧
    checkUses (running lanes) 1 lanes { vw := (List.range (w.cnt + 1)).map (w.data.toNat + ·) } = none ∧
    w.data.toNat + w.cnt ≤ 0x7F ∧ 0x10 ≤ w.data.toNat ∧ ¬ (4096 + 4 * (w.cnt + 1) * lanes.width ≤ lanes.spillBytes) ∧
    r.idx = true ∧ r.off.toNat % 32 = 0 ∧ (r.off.toInt = r.off.toNat ∧ r.off.toNat + 32 ≤ lanes.spillBytes) ∧
    checkUses (running lanes) 1 lanes { kr := [r.k] } = none ∧ r.off.toNat / 32 ∉ lanes.spillTags ∧
    r.off.toNat / 32 ∈ ({ lanes with spillTags := [127] } : Group).spillTags := by decide +kernel

theorem witness_spillStackAccesses_room : FlagRoom lanes true := flagRoom_of (by decide +kernel)

theorem witness_capturedResultsDeliver :
    let s := after (exec (.fil { mw with k := 0, mod := 1 }) (running lanes))
    let u := after (exec (.frcp 0x20 0x21 false 0 none) (running lanes))
    let p := after (exec (.probe { mw with k := 2, data := 3 }) (running lanes))
    (s.op? 100).elim false (fun op => (s.group? op.gid).isSome && s.draining op.cx &&
      decide (op.kind = .fill ∧ op.toReg = true ∧ (op.res.map (fun e => (e.1, e.2.1))).Nodup ∧ op.res.length = 32) &&
      op.res.all (fun e => decide (op.dst + e.2.1 < 512))) = true ∧
    (u.op? 100).elim false (fun op => decide (op.kind = .sfu)) = true ∧ (p.op? 100).elim false (fun op => decide (op.kind = .probe)) = true := by
  decide +kernel

/-- A group that has an acquire to make and nothing to wait for, one with a store not yet tested, and a probe of the page. -/
theorem witness_fencesAndProbe :
    let w : MemWord := { mw with k := 2, data := 3 }
    (running lanes).group? (running lanes).cur = some lanes ∧ checkUses (running lanes) 1 lanes {} = none ∧
    readsOut (running lanes) 1 = false ∧ ownStores (running lanes) 1 = [] ∧ lanes.readFrom = [] ∧ untested (running lanes) 1 (fun _ => true) = false ∧
    lanes.sfq = [] ∧ untested storedWord 1 (fun _ => true) = true ∧ (storedWord.group? storedWord.cur).isSome = true ∧
    readsOut (after (exec (.ld { mw with ord := 1 }) (running lanes))) 1 = true ∧
    checkUses (running lanes) 1 lanes { kr := [w.k], msk := [w.data.extractLsb' 0 4], vr := if w.idx then [(w.index.toNat, 0)] else [] } = none ∧
    Rec.wf (lanes.rdK w.k) = true ∧ Rec.right (lanes.rdK w.k) 0 = true ∧
    (running lanes).brandLive lanes.cx (Rec.effBrand (lanes.rdK w.k) lanes.brd) = true := by decide +kernel

/-- Copies within the page of object 1 and block memory, and a gather of one row. -/
theorem witness_engineCopiesIssue :
    let w : MemWord := { mw with k := 1, data := 2, index := 8 }
    let g := lanes.wrS 8 2
    let one : Group := { (lanes.wrS 8 0) with exm := 1 }
    Ready (running g) g { kr := [w.k, w.data.extractLsb' 0 4], sc := [w.index.toNat] } ∧
    engineCause (running g) 1 g .copy (g.rdK w.k) (g.rdK 2) 2 [] = none ∧ g.reportsFull = false ∧
    (let op := engineOp (running g) 1 g w (engineKind .copy (g.rdK w.k) (g.rdK 2)) 2 []
     engineFaults op op.units (enginePages (running g) op).1 (enginePages (running g) op).2 = []) ∧
    Ready (running one) one { kr := [1, 2], vr := [(0x21, 0)] } ∧
    engineCause (running one) 1 one .gather blockRec pageRec 0 (one.activeReal.map (fun l => (l, (one.src 0x21 0 l).toNat))) = none ∧
    (let d : Rec := Rec.put (Rec.put pageRec 220 5 0x18) 104 20 16
     let e : Rec := Rec.put (Rec.put blockRec 220 5 0x18) 104 20 16
     engineCause (running g) 1 g .rekey d e 8 [] = none) := by decide +kernel

/-- The state after an XCOPY to the page of object 1, whose one line is not owned, and the line owned. -/
def copying : State := after (exec (.xcopy { mw with k := 2, data := 1, index := 8 }) (running (lanes.wrS 8 2)))

def owning : State := after (execOwnershipGrant (100 * 2 ^ 24) copying)

theorem witness_engineLinesAreWritten :
    (copying.op? 100).elim false (fun op => engineRuns copying 100 op && (copying.group? op.gid).isSome && decide (op.asked = 0 ∧ peerNeeds copying op = []) &&
      (op.lines[0]?).elim false (fun j => decide (j.brd = false ∧ j.line.cached = true ∧ j.stage = 0 ∧ (dirOf copying j.line 0).map (·.owner) = some 100) &&
        op.lines.all (fun q => lineAsked copying 100 op q))) = true ∧
    (owning.op? 100).elim false (fun op => engineRuns owning 100 op && (op.lines[0]?).elim false (fun j => decide (j.stage = 1 ∧ lanesFirst owning j.line 0 = false) && owning.mem.dir.all (fun d => !d.queue.contains 100) &&
      op.lines.all (fun q => lineAsked owning 100 op q) && decide (((lineBytes owning op j.line).1.map (·.1.loc)).Nodup) &&
      (lineBytes owning op j.line).1.all (fun e => !e.1.wp && !e.1.brd && standsB owning e.1.loc) &&
      decide ((lineBytes owning op j.line).1.length = 64))) = true ∧
    (owning.group? 1).elim false (fun g => !detOf owning g) = true := by decide +kernel
/-! Tiles. -/

/-- A row of 32 words of FP32 in block memory, and a plane slab of four columns behind it (R56, R222). -/
def rowRec : Rec := BitVec.ofNat 256 (0xFFFFFF + 31 * 2 ^ 64 + 128 * 2 ^ 104 + 31 * 2 ^ 230 + 2 ^ 235)
def slabRec : Rec := BitVec.ofNat 256 (0xFFFFFF + 256 * 2 ^ 24 + 3 * 2 ^ 64 + 31 * 2 ^ 80 + 6 * 2 ^ 225 + 31 * 2 ^ 230 + 2 ^ 235)
def byteRec : Rec := BitVec.ofNat 256 (1 + 36927 * 2 ^ 64 + 36928 * 2 ^ 104 + 10 * 2 ^ 220 + 31 * 2 ^ 230 + 2 ^ 235)

/-- The group with those records in K3 and K4, a byte record in K5, and S8 = 1. -/
def matrix : Group := { (lanes.wrS 8 1) with K := [(1, blockRec), (2, pageRec), (3, rowRec), (4, slabRec), (5, byteRec)] }

/-- The group in step with tile 2 of its core as `t`, and leave for its die to give. -/
def tiled (t : Tile) : State :=
  let s := (running matrix).setTile 0 2 t
  { s with care := { s.care with conf := some { svn := 0, devno := 0, l2u := 6, lvnear := 2, lvmax := 2, bank := 0, plim := 0, dsplit := 0 } } }

def mineTile : Tile := { Tile.free with holder := some 1 }
def otherTile : Tile := { Tile.free with holder := some 7 }
def ext : LoopExt := { anchor := 1023, anc := true, two := false, planes := 0, kb := 4 }

/-- The state after an MLOOP of one K-step on the free tile. -/
def looping : State := after (exec (.mloop false 2 3 8 ext) (tiled Tile.free))

def busyTile : Tile := looping.tile 0 2

theorem witness_tilesAreHeldAndFreed : Ready (tiled Tile.free) matrix {} ∧ matrix.dfaults = [] ∧ (Tile.free.holder = none) ∧
    ((tiled otherTile).tile matrix.core 2).holder ≠ none ∧ ¬ (((tiled otherTile).tile matrix.core 2).holder = some 1) ∧
    Ready (tiled otherTile) matrix {} ∧ Ready (tiled mineTile) matrix {} ∧ ((tiled mineTile).tile matrix.core 2).orphan = false ∧
    tileBusy (tiled mineTile) matrix.core 2 = false ∧ tileBusy (tiled busyTile) matrix.core 2 = true ∧ busyTile.holder = some 1 ∧
    Ready (tiled busyTile) matrix {} ∧ busyTile.orphan = false ∧
    checkUses (tiled otherTile) 1 matrix { sc := [127] } = none ∧ checkUses (tiled otherTile) 1 matrix { kr := [3] } = none ∧
    Rec.wf (matrix.rdK 3) = true ∧ Rec.right (matrix.rdK 3) 1 = true := by decide +kernel

theorem witness_matrixLoopsStart :
    let a : Rec := rowRec
    let b : Rec := slabRec
    let s := tiled Tile.free
    let short : LoopExt := { ext with planes := 1 }
    Ready s matrix { kr := [3, ext.kb], sc := [8] } ∧ (matrix.rdS 8).toNat = 1 ∧
    (Rec.wf a = true ∧ Rec.wf b = true) ∧ ¬ Rec.wf (matrix.rdK 0) = true ∧ (Rec.right a 0 = true ∧ Rec.right b 0 = true) ∧
    (Rec.wf (Rec.put a 230 5 2) = true ∧ ¬ Rec.right (Rec.put a 230 5 2) 0 = true) ∧
    (Rec.lay a ≠ 6 ∧ Rec.lay b = 6 ∧ Rec.sce b % 16 = ext.planes.toNat ∧ (isD (Rec.fmt a) = true → 3 ≤ Rec.sce a)) ∧
    Rec.sce b % 16 ≠ short.planes.toNat ∧ s.brandLive matrix.cx (Rec.effBrand a matrix.brd) = true ∧
    ¬ s.brandLive matrix.cx (Rec.effBrand (Rec.put (Rec.put (Rec.put a 0 24 1) 238 2 2) 240 16 5) matrix.brd) = true ∧
    (32 * 1 ≤ Rec.csize a 0 ∧ 32 * 1 ≤ Rec.size b 1) ∧ ¬ (32 * 2 ≤ Rec.csize a 0) ∧
    Rec.wf (Rec.put b 24 40 4096) = true := by decide +kernel

theorem witness_matrixLoopsStart_runs :
    FlagRoom matrix false ∧ hasLeave (tiled Tile.free) 0 1 = false ∧ waitingGrants (tiled Tile.free) 0 = [] ∧ canGrant (tiled Tile.free) 0 = true ∧
    4 ≤ ({ mineTile with loops := List.replicate 4 (busyTile.loops.headD default) } : Tile).loops.length ∧ busyTile.loops.length = 1 ∧
    busyTile.loops.length < 4 ∧ mineTile.loops.length < 4 ∧ (matrix.rdS 9).toNat = 0 :=
  ⟨flagRoom_of (by decide +kernel), by decide +kernel, by decide +kernel, by decide +kernel, by decide +kernel, by decide +kernel,
    by decide +kernel, by decide, by decide +kernel⟩

/-- The most recent loop of the tile, outstanding and complete; K-steps in, at the end of and outside its records, and none. -/
theorem witness_matrixLoopsGrow :
    let g : Group := matrix
    let l : MLoop := { (busyTile.last.getD default) with recA := Rec.put (Rec.put rowRec 64 16 63) 104 20 256, recB := Rec.put slabRec 80 16 63 }
    Ready (tiled busyTile) g { sc := [8] } ∧ busyTile.holder = some 1 ∧ busyTile.last.isSome = true ∧ mineTile.last = none ∧ Rec.wf l.recA = true ∧ Rec.wf l.recB = true ∧
    (32 * (l.first + l.steps + 1) ≤ Rec.csize l.recA 0 ∧ 32 * (l.first + l.steps + 1) ≤ Rec.size l.recB 1) ∧
    ¬ (32 * (l.first + l.steps + 2) ≤ Rec.csize l.recA 0) ∧ (∃ q ∈ busyTile.loops, q.id = l.id) ∧
    (tiled { mineTile with last := some l }).brandLive 1 l.brand = true ∧ l.flag.all (fun f => decide (g.count f < 63)) = true ∧
    (let s := tiled { mineTile with last := some l }
     hasLeave { s with care := { s.care with grants := [(0, [1])] } } 0 1 = true) := by decide +kernel

/-- A whole MSNAP to the page of object 1 and to block memory, and MOUT to 16 words of it (the pages translate). -/
theorem witness_tilesAreWrittenOut : Ready (tiled mineTile) matrix { kr := [5] } ∧ matrix.reportsFull = false ∧ detOf (tiled mineTile) matrix = false ∧
    Rec.wf byteRec = true ∧ Rec.right byteRec 1 = true ∧ (tiled mineTile).brandLive 1 (Rec.effBrand byteRec matrix.brd) = true ∧
    (Rec.fmt byteRec = 0x0A ∧ Rec.lay byteRec = 0 ∧ Rec.size byteRec 1 = 1 ∧ Rec.size byteRec 2 = 1 ∧ 36928 ≤ Rec.size byteRec 0) ∧
    Rec.special byteRec = false ∧ (∀ q ∈ [0, 36927], ((translateChunks (tiled mineTile) 1 1 true [q]).at q).toOption.isSome = true) ∧
    Rec.wf (matrix.rdK 1) = true ∧ Rec.right (matrix.rdK 1) 1 = true ∧ Rec.fmt (matrix.rdK 1) = 0 ∧ Rec.lay (matrix.rdK 1) ≠ 6 ∧
    Rec.special (matrix.rdK 1) = true ∧ Rec.base (matrix.rdK 1) + Rec.extent (matrix.rdK 1) ≤ (coreStore (tiled mineTile) 1 matrix oBlock).2 := by
  decide +kernel

/-- One K-step of a loop on block memory of zeros, its own the only loop ready. -/
theorem witness_kStepsAreAddedWhole :
    (readyTiles looping 0).map (fun y => (y.1, y.2.1, y.2.2)) = [(2, busyTile, busyTile.loops.headD default)] ∧
    ((tqarbOf looping (Config.clusterOf 0)).extractLsb' 30 2).toNat = 0 ∧ (looping.group? (busyTile.loops.headD default).gid).isSome = true ∧
    busyTile.orphan = false ∧ withheld looping 0 4 = false ∧ matrix.status ≠ .ended ∧
    (let l := busyTile.loops.headD default
     let a : Rec := l.recA
     a.special = true ∧ min 64 (a.csize 1) = 1 ∧ ((portA a l.passes 0 (stepRead looping matrix l) 0).map (·.m)) = some 0 ∧
      ((slabCols looping l.gid matrix l 0).take (min 64 (Rec.size l.recB 0))).all (fun c => decide (c.1 ≠ 0xFF)) = true) := by decide +kernel

/-- A cycle of the matrix engine, and a slot of a pipe, that the limiter withholds. -/
theorem witness_withheldSlots (p : Nat) : withheld { looping with
    care := { looping.care with withhold := 1 }, cores := [(0, { Core.idle with slots := [(p, 15 * Config.withholdFrom 1)] })] } 0 p = true := by
  generalize h : Config.withholdFrom 1 = n
  simp [withheld, State.core, sget, mget, h]
  omega

/-- The same loop over a slab whose column exponents are 0xFF. -/
def malformed : State := { looping with k := { looping.k with
  blocks := [(3, { block with bmem := (List.range 16).map (fun i => (256 + i, 0xFF)) })] } }

theorem witness_tileQueuesAreArbitrated :
    (let l : MLoop := { (busyTile.loops.headD default) with recA := Rec.put (Rec.put rowRec 0 24 2) 24 40 0 }
     let s := looping.setTile 0 2 { busyTile with loops := [l] }
     readyTiles s 0 = [(2, { busyTile with loops := [l] }, l)] ∧ withheld s 0 4 = false ∧ Rec.special l.recA = false ∧
      (∃ q ∈ rowOffs l.recA (l.first + l.done),
        ((translateChunks (stepWalks s l) l.cx (Rec.obj l.recA) true (rowOffs l.recA (l.first + l.done))).at q).toOption.isNone = true)) ∧
    (let s := malformed
     let l := (malformed.tile 0 2).loops.headD default
     (readyTiles s 0).map (fun y => (y.1, y.2.2)) = [(2, l)] ∧ Rec.special l.recA = true ∧
      ((slabCols s l.gid matrix l (l.first + l.done)).take (min 64 (Rec.size l.recB 0))).any (fun c => decide (c.1 = 0xFF)) = true) ∧
    (0 < Config.clusters ∧ 31 < Config.clusters) ∧
    (let s := { looping with care := { looping.care with tqarb := [(0, 0x40000044)], grants := [(0, [100, 9])] } }
     let s := s.setTile 0 5 { busyTile with prio := 4, loops := [{ (busyTile.loops.headD default) with id := 9 }] }
     ((tqarbOf s (Config.clusterOf 0)).extractLsb' 30 2).toNat = 1 ∧ ((readyTiles s 0).map (fun y => (y.1, y.2.1.prio))) = [(2, 0), (5, 4)] ∧
      (s.core 0).choice = none ∧ outriderFree s 0 = true) := by decide +kernel

/-- The state after an MOUT of the tile to K1. -/
def reading : State := after (exec (.mout false 2 1) (tiled mineTile))

theorem witness_readOutTakesOneState :
    (reading.op? 100).elim false (fun op => (reading.group? op.gid).isSome && reading.active op.cx && !(reading.tile op.core op.tile).orphan &&
      decide (op.kind = .out ∧ op.count = 0 ∧ op.parkNo = 0 ∧ Rec.special op.rec1 = true ∧ op.afterOps = [] ∧ (reading.tile op.core op.tile).loops = [])) = true ∧
    ((reading.group? 1).elim true (fun g => detOf reading g)) = false ∧ outElem blockRec 0 15 = some 15 ∧ (outElem blockRec 1 0).isNone = true ∧ (outElem blockRec 0 16).isNone = true := by
  decide +kernel
/-! Brands, barriers and signals. -/

/-- Brand 1 (live, of parent 0, with a cell), brand 2 (its child, live) and brand 3 (retiring), in a context of quota 4. -/
def branded : State :=
  let s := (running lanes).setCtx 1 { ((running lanes).ctx 1) with brandQuota := 4 }
  { s with br := { table := [(65537, { parent := 0, depth := 1, st := 1, waiter := none, returned := false }),
                             (65538, { parent := 1, depth := 2, st := 1, waiter := none, returned := false }),
                             (65539, { parent := 0, depth := 1, st := 2, waiter := some 1, returned := false })]
                   cells := [{ cx := 1, brand := 1, line := { sp := .phys, a := 0x100000 }, pool := 0x200000, op := none }] } }

def detBranded : State := branded.setGrid 2 { grid with det := true }

theorem witness_brandsAreAllocated :
    (1 < 65536 ∧ branded.brandLive 1 2 = true ∧ brandDepth branded 1 2 ≤ 3) ∧ ¬ (branded.brandLive 1 3 = true) ∧
    Ready branded lanes { sc := [5] } ∧ Ready branded lanes { sc := [5, 6] } ∧
    ¬ ((branded.ctx 1).brandQuota ≤ brandCount branded 1 ∨ 65535 ≤ branded.br.table.length) ∧
    ((running lanes).ctx 1).brandQuota ≤ brandCount (running lanes) 1 ∧
    (∀ m ∈ [1, 2, 3], (branded.brand? 1 m).isSome = true) ∧ (branded.brand? 1 4).isNone = true ∧ detOf branded lanes = false ∧
    detOf detBranded lanes = true ∧ (detBranded.brand? 1 (1 + (16 * (grid.ngroups * blockNo detBranded lanes + 0) + 0 % 16) % 65535)).isSome = true ∧
    (({ detBranded with br := { detBranded.br with table := [] } } : State).brand? 1 (1 + (16 * (grid.ngroups * blockNo detBranded lanes + 0) + 0 % 16) % 65535)).isNone = true := by
  decide +kernel

theorem witness_brandsAreSelectedAndEnded : Ready branded lanes { sc := [127] } ∧
    (((lanes.wrS 6 2).rdS 6).toNat < 65536 ∧ branded.brandLive 1 2 = true) ∧ ¬ ((lanes.wrS 6 65536).rdS 6).toNat < 65536 ∧
    (((lanes.wrS 6 2).rdS 6) ≠ 0 ∧ hasChild branded 1 2 = false) ∧ hasChild branded 1 1 = true ∧ (branded.brand? 1 2).isSome = true := by
  decide +kernel

/-- A word stored under brand 1 to a branded page. -/
def brandStore : StoreOp :=
  { gid := 1, op := 50, cx := 1, core := 0, brand := 1, lane := 0, pol := 0, rel := 0, act := .bytes, after := [], afterOps := []
    bytes := (List.range 4).map (fun i => ({ loc := { sp := .phys, a := 0x1000FC + i }, wp := false, brd := true, det := 0 }, 7, 0xFF)) }

def brandStored : State := { branded with mem := { branded.mem with stores := [(60, brandStore)] } }

theorem witness_brandedWritesAreIsolated :
    mget brandStored.mem.stores 60 = some brandStore ∧ brandStored.draining 1 = true ∧ storeReady brandStored 60 brandStore = true ∧
    brandStore.act = .bytes ∧ brandStore.rel = 0 ∧ 0 < brandStore.brand ∧ PoolsApart brandStored ∧
    (∀ e ∈ brandStore.bytes, e.1.brd = true ∧ e.1.wp = false ∧ e.1.loc.cached = true) ∧ (brandStore.bytes.map (·.1.loc)).Nodup ∧
    (∀ e ∈ brandStore.bytes, ∀ c ∈ brandStored.br.cells, e.1.loc.line ≠ { sp := .phys, a := c.pool }) ∧
    (∀ e ∈ brandStore.bytes, (cell? brandStored 1 1 e.1.loc.line).isSome = true) ∧
    (∀ k ∈ [0, 1, 2, 3, 4], Nat.repeat (parentOf brandStored 1) k 0 ≠ 1) ∧ parentOf brandStored 1 2 = 1 ∧
    (∀ e ∈ brandStore.bytes, (cell? brandStored 1 2 e.1.loc.line).isNone = true) := by decide +kernel

def merging : State := branded.setBrand 1 1 { parent := 0, depth := 1, st := 3, waiter := some 1, returned := false }

theorem witness_brandsMergeAndAreFreed :
    (merging.brand? 1 1).isSome = true ∧ brandBusy merging 1 1 = false ∧ (merging.ctx 1).st = 1 ∧ releaseReady merging 1 4 = true ∧
    PoolsApart merging ∧ (firstCell merging 1 1).elim false (fun c => decide (owned merging c.line 0 = false ∧ c.line.cached = true)) = true ∧
    brandBusy branded 1 3 = false ∧ (branded.brand? 1 3).isSome = true ∧
    (firstCell ({ merging with br := { merging.br with cells := [] } } : State) 1 1).isNone = true ∧
    ({ lanes with status := .stalled (.merge 3) } : Group).status = .stalled (.merge 3) := by decide +kernel

theorem witness_barriersCountArrivals : Ready (running lanes) lanes {} ∧ Ready (running lanes) lanes { sc := [127] } ∧
    (((running lanes).setGrid 2 { grid with lrec := grid.lrec ||| 0xFFFFFFFFFFFFFFFF#2048 <<< 640 }).grid? lanes.grid).elim false Grid.coop = true ∧
    ((running lanes).grid? lanes.grid).elim false Grid.coop = false ∧ (barNode (running lanes) 1 (clusterNode (running lanes) lanes)).arr = [] := by
  decide +kernel

/-- The group arrived at its block's barrier, by BARL, and two of three groups arrived. -/
def arrived : State := after (exec (.barl 5) (running lanes))

theorem witness_barriersRelease :
    let n := barNode arrived 0 3
    n.arr = [(1, some 5)] ∧ barMembers arrived n = [1] ∧ (arrived.group? 1).isSome = true ∧ (arrived.ctx 1).st = 1 ∧ (n.arr.map (·.1)).Nodup ∧
    releaseReady arrived 1 (barScope 0) = true ∧
    (let s := { arrived with k := { arrived.k with blocks := [(3, { block with groups := [1, 4] })], groups := arrived.k.groups ++ [(4, { lanes with gidx := 1 })] } }
     ∃ m ∈ barMembers s (barNode s 0 3), m ∉ (barNode s 0 3).arr.map (·.1)) ∧
    (let s := after (execBarg ((running lanes).setGrid 2 { grid with lrec := grid.lrec ||| 0xFFFFFFFFFFFFFFFF#2048 <<< 640 }))
     barMembers s (barNode s 2 2) = [1] ∧ (s.grid? 2).elim false (fun gr => decide (gr.nextBlock = gr.blocks)) = true ∧
      releaseReady s 1 (barScope 2) = true) := by decide +kernel

/-- A signal at byte 8 of block memory and one in the page of object 1. -/
def signals : Group := { lanes with K := [(1, Rec.put (Rec.put blockRec 24 40 8) 104 20 64), (2, Rec.put pageRec 24 40 16), (3, Rec.put blockRec 24 40 4)] }

def updated : State := after (exec (.sigAdd 2 5 0) (running signals))

theorem witness_signalsAreUpdated :
    Ready (running signals) signals { kr := [1], sc := [126, 127] } ∧ Ready (running signals) signals { kr := [2], sc := [5, 6] } ∧
    signals.reportsFull = false ∧ detOf (running signals) signals = false ∧
    (∀ k ∈ [(1 : BitVec 4), 2, 3], Rec.wf (signals.rdK k) = true ∧ Rec.right (signals.rdK k) 2 = true ∧ isD (Rec.fmt (signals.rdK k)) = false ∧
      (running signals).brandLive 1 (Rec.effBrand (signals.rdK k) signals.brd) = true) ∧
    Rec.base (signals.rdK 3) % 8 ≠ 0 ∧ (∀ k ∈ [(1 : BitVec 4), 2], Rec.base (signals.rdK k) % 8 = 0 ∧ 8 ≤ Rec.extent (signals.rdK k)) ∧
    Rec.base (signals.rdK 1) + 8 ≤ (coreStore (running signals) 1 signals oBlock).2 ∧
    (let offs := (List.range 8).map (Rec.base (signals.rdK 2) + ·)
     ∀ q ∈ offs, ((translateChunks (running signals) 1 1 true offs).at q).toOption.isSome = true) ∧
    updated.mem.stores.all (fun e => let st := e.2; updated.draining st.cx && storeReady updated e.1 st && decide (st.brand = 0 ∧ st.rel = 0 ∧
      st.bytes.length = 8 ∧ (st.bytes.map (·.1.loc)).Nodup ∧ st.act = .sigAdd 0) && st.bytes.all (fun e => !e.1.wp && standsB updated e.1.loc)) = true ∧
    updated.mem.stores.length = 1 := by decide +kernel

theorem witness_signalWaitsTest :
    Ready (running signals) signals { kr := [1], sc := [126, 127] } ∧ Rec.right (signals.rdK 1) 0 = true ∧
    (let offs := (List.range 8).map (Rec.base (signals.rdK 2) + ·)
     let cs := translateChunks (running signals) 1 1 true offs
     (∀ q ∈ offs, (cs.at q).toOption.isSome = true ∧ byteOwned (running signals) 1 0 (cs.byte q) = false) ∧ ownStores (running signals) 1 = [] ∧
      sigValue (running signals) 1 0 (offs.map cs.byte) = 0) ∧
    (let s := after (exec (.sigWait 2 5 1 2) (running signals))
     (s.group? 1).elim false (fun g => decide (g.status = .barrier ∧ g.saved = false ∧ (s.ctx g.cx).st = 1) &&
       g.sigw.elim false (fun w => decide (w.cond = 2 ∧ w.value = 0)))) = true ∧
    (let s := after (exec (.sigWait 2 5 1 0) (running signals))
     (s.group? 1).elim false (fun g => decide (g.status ≠ .barrier))) = true := by decide +kernel
/-! Paddocks and reins. -/

/-- An open node of image offset 0 (the entry of `lanes` with offset 0) holding one record, its timer on. -/
def spawned : SpawnRec := { cx := 1, entry := entryOf (running lanes) lanes 0, disc := 0, words := [7], prod := [9, 0, 0, 0, 0], die := 0, q := 0, grid := 2, block := 3 }
def openNode : Node :=
  { cx := 1, entry := entryOf (running lanes) lanes 0, disc := 0, timer := 1, die := 0, pkt := 0, grid := 2, det := false, held := [spawned]
    ready := [], timerOn := true, closed := false, closeAt := 0, closeQs := [] }
def noded : State := { (running lanes) with k := { (running lanes).k with nodes := [(20, openNode)] } }

def outriderRun : Group := { Group.blank with cx := 1, outrider := some 3, img := setupImage, codeEnd := 324, status := .issuing, pc := 260, cla := 256, cend := 264, live := 1 }

theorem witness_spawnDeliversRecords :
    (lanes.outrider = none ∧ Ready (running lanes) lanes {}) ∧
    (outriderRun.outrider.isSome = true ∧ 112 + 16 ≤ 128 ∧ Ready (running outriderRun) outriderRun { sc := 5 :: (List.range 16).map (112 + ·) }) ∧
    Ready (running lanes) lanes { sc := [5], vr := ((List.range 1).map (0x20 + ·)).map (fun x => (x, 0)) } ∧
    (nodeOf (running lanes) 1 (entryOf (running lanes) lanes 0) 0).isNone = true ∧ 16 ≤ storeRoomOf (running lanes) 0 ∧
    releaseReady (running lanes) 1 4 = true ∧ releaseReady storedWord 1 4 = false ∧
    (nodeOf noded 1 (entryOf noded lanes 0) ((lanes.rdS 5).toNat % 65536)).elim false (fun e => decide (e.1 = 20 ∧ e.2.closed = false)) = true ∧
    ((noded.grid? openNode.grid).elim 16 (·.width)) = 16 ∧ openNode.held.length < 16 ∧ openNode.det = false ∧
    ({ openNode with det := true } : Node).det = true := by decide +kernel

theorem witness_spawnDeliversRecords_full :
    storeRoomOf { (running lanes) with k := { (running lanes).k with held := List.replicate 16384 spawned } } 0 < 16 := by
  decide +kernel

theorem witness_paddocksCloseAndLapse : Ready noded lanes { sc := [5] } ∧ releaseReady noded 1 4 = true ∧ releaseReady storedWord 1 4 = false ∧
    openNode.held ≠ [] ∧ openNode.closed = false ∧ mget noded.k.nodes 20 = some openNode ∧ openNode.timerOn = true ∧ (noded.ctx 1).st = 1 ∧
    (nodeOf noded 1 (entryOf noded lanes 0) 0).isSome = true ∧ (nodeOf noded 1 (entryOf noded lanes 4) 0).isNone = true ∧
    ({ openNode with closed := true } : Node).closed = true := by decide +kernel

/-- A slot of rein 0: entry 0 sends to and receives from device 2, rein 3, entry 1 is a signal in the page of object 1; G1 is an
address in that page. -/
def slot : Slot :=
  { Slot.free with
    st := 1, cx := 1, comm := 5, words := [0x0800000F, 0x00000000, 0x00000000]
    chan := [(0, BitVec.ofNat 64 (2 ^ 63 + 2 ^ 61 + 2 ^ 60 + 2 ^ 59 + 2 * 2 ^ 49 + 3 * 2 ^ 44 + 1 * 2 ^ 40 + 16 * 2 ^ 29)),
             (1, BitVec.ofNat 64 (2 ^ 63 + 2 ^ 62 + 2 ^ 61 + 2 ^ 60 + 1 * 2 ^ 36 + 4))]
    G := [(1, BitVec.ofNat 64 (2 ^ 40 + 64)), (3, 1), (4, 7)] }

def reined (x : Slot) : State :=
  let s := (setupTables State.reset).setSlot 0 2 x
  let s := s.setRein 0 { s.rein 0 with running := some 2, link := 0, streams := [{ comm := 5, dev := 2, prn := 3, sent := 0, vc := 1, run := 0, bytes := List.replicate 64 9 }] }
  { s with curSlot := (0, 2) }

def bodySlot : Slot := { slot with st := 3, bodyEnd := some 2 }

theorem witness_reinControlWords : (reined slot).curSlot = (0, 2) ∧ (reined slot).slot 0 2 = slot ∧ slot.st = 1 ∧ bodySlot.inBody = true ∧
    (reined bodySlot).slot 0 2 = bodySlot ∧ BitVec.ofNat 64 ((slot.g 3).toNat + (2 ^ 64 - 1)) = 0 ∧ BitVec.ofNat 64 ((slot.g 4).toNat + (2 ^ 64 - 1)) ≠ 0 ∧
    (0 ≤ ((slot.pc : Int) + (0#17).toInt) ∧ (wordKinds 0 false slot.words)[0]? = some 0) ∧ (slot.pc : Int) + (BitVec.ofInt 17 (-1)).toInt < 0 ∧
    (wordKinds 0 false slot.words)[1]? ≠ some 0 ∧ slot.g 5 = 0 := by decide +kernel

/-- A CHUNK of one NEXT, a slot that steps, and a chunk whose body is no NEXT. -/
theorem witness_reinChunksAndHalts :
    let good : Slot := { slot with words := [0x08000001, 0x10000000] }
    (reined good).slot 0 2 = good ∧ good.st = 1 ∧ good.step = false ∧ ({ good with step := true } : Slot).justGo = false ∧
    bodyFault good (decide (((reined good).rein 0).link = 2)) [] 0 good.body = none ∧ waitFault (reined good) good good.body = none ∧
    (bodyFault slot false [] 0 slot.body).isSome = true ∧ (reined good).mem.commit = [] ∧
    (let s := (reined { good with pkt := 30 }).setPkt 30 { Packet.blank with slots := [(0, 2)] }
     (s.pkt? 30).elim false (fun k => decide (k.loading = false ∧ k.slots = [(0, 2)])) = true) := by decide +kernel

theorem witness_reinDataWords :
    let s := reined bodySlot
    let offs := (List.range (4 * 16)).map (offOf (bodySlot.g 1).toNat + ·)
    let cs := translateChunks s 1 (objOf (bodySlot.g 1).toNat) false offs
    let ps := offs.map cs.byte
    s.curSlot = (0, 2) ∧ s.slot 0 2 = bodySlot ∧ bodySlot.inBody = true ∧ bodySlot.st = 3 ∧ bodySlot.written = 0 ∧ bodySlot.peerSent = 0 ∧
    ((bodySlot.g 0).toNat < 65536 ∧ s.brandLive 1 (bodySlot.g 0).toNat = true) ∧ ¬ ((bodySlot.g 1).toNat < 65536) ∧
    (∀ q ∈ offs, (cs.at q).toOption.isSome = true) ∧ (∀ p ∈ ps, p.loc.sp.isPeer = false ∧ p.wp = false ∧ standsB s p.loc = true ∧ p.det ≠ 1 ∧
      owned s p.loc.line (dirBrand 0 p) = false ∧ owned s p.loc.line (resolve s 1 0 p).1 = false) ∧ (ps.map (·.loc)).Nodup ∧
    bodySlot.pgot = [] ∧ bodySlot.asked = 0 ∧ bodySlot.fwd = [] ∧ bodySlot.issued = false ∧
    (takeFlits ((s.rein 0).forSlot bodySlot (bodySlot.sender 0)) (4 * 16) (s.rein 0).streams).1.length = 4 * 16 := by
  decide +kernel

/-- A claim of one message granted to entry 0, its region record in the page at byte 64 and its data at byte 4096; and a round that ended. -/
def claiming (cs : List Claim) (x : Slot) : State :=
  let s := reined x
  let s := putDevice s (s.ctx 1).key (0x100000 + 64) (bytesOfNat 32 (2 ^ 40 + 4096 + 64 * 2 ^ 64 + 2 ^ 168))
  s.setRein 0 { s.rein 0 with claims := cs }

def message : Claim := { comm := 5, dev := 2, prn := 3, sent := 0, vc := 1, mark := false, bytes := List.replicate 64 3 }

theorem witness_claimsAreStowed :
    let s := claiming [message] bodySlot
    let t := claiming [{ message with mark := true, bytes := [] }] bodySlot
    (claimItems (t.rein 0) bodySlot).length = 1 ∧ grantable bodySlot (claimItems (t.rein 0) bodySlot) = [] ∧ roundEnded bodySlot (claimItems (t.rein 0) bodySlot) = true ∧
    s.slot 0 2 = bodySlot ∧ bodySlot.claimed = none ∧ bodySlot.region = none ∧ bodySlot.det = false ∧ (bodySlot.g 2).toNat = 0 ∧
    grantable bodySlot (claimItems (s.rein 0) bodySlot) = [(0, message)] ∧ bodySlot.paEntries = [0] ∧ bodySlot.sender 0 = message.key ∧
    (let old := natOfBytes ((List.range 32).map (fun j => readAt s 1 [] { sp := .phys, a := 0x100000 + 64 + j }))
     bitsOf old 96 32 + 64 ≤ bitsOf old 64 32 ∧ objOf (bitsOf old 0 64) < 0xFFFFF0 ∧ objOf (bitsOf old 128 64) < 0xFFFFF0) ∧
    (∀ q ∈ [(64, 32), (4096, 64)], ((translateChunks s 1 1 false ((List.range q.2).map (q.1 + ·))).at q.1).toOption.isSome = true) ∧
    (∀ k ∈ [(0 : Nat), 31, 63], owned s { sp := .phys, a := (0x100000 + 4096 + k) / 256 * 256 } 0 = false) := by decide +kernel

theorem witness_reinSignals :
    let s := reined bodySlot
    s.slot 0 2 = bodySlot ∧ bodySlot.inBody = true ∧ bodySlot.st = 3 ∧ bodySlot.peerSent = 0 ∧ entObj (bodySlot.ent 1) = 1 ∧ entOff (bodySlot.ent 1) = 32 ∧
    (agentBytes s 1 (entObj (bodySlot.ent 1) * 2 ^ 40 + entOff (bodySlot.ent 1)) 8 false).toOption.elim false (fun ps =>
      decide (ps.length = 8 ∧ (ps.map (·.loc)).Nodup) && ps.all (fun p => !p.wp && standsB s p.loc && !byteOwned s 1 0 p)) = true := by
  decide +kernel
/-! Slots, frames and contexts. -/

/-- A REIN packet for reins 0 and 31, one word of image, communicator 5 on channel 1; its image and arguments are read from the
page of object 1. -/
def reinPacket : Packet :=
  { Packet.blank with
    cx := 1, loading := true
    bits := BitVec.ofNat 512 (6 + 2 ^ 40 * 2 ^ 64 + (2 ^ 31 + 1) * 2 ^ 264 + 5 * 2 ^ 296 + 2 ^ 308 + 3 * 2 ^ 312 + (2 ^ 40 + 1024) * 2 ^ 320 + 2 ^ 384) }

theorem witness_reinSlotsAreLoaded :
    let s := (reined { slot with vc := 1 }).setPkt 40 reinPacket
    (s.pkt? 40).isSome = true ∧ pType reinPacket.bits.toNat = 6 ∧ reinPacket.loading = true ∧ (s.ctx 1).st = 1 ∧
    (reinImage s 1 reinPacket.bits.toNat).elim false (fun e => decide (e.1.length = 260 ∧ e.2.length = 512)) = true ∧
    (List.range 32).filter (fun n => reinPacket.bits.getLsbD (264 + n)) = [0, 31] ∧
    (∀ n ∈ [0, 31], ∃ sl ∈ [0, 1, 2, 3, 4, 5, 6, 7], (s.slot n sl).st = 0 ∧ (s.rein n).unitsUsed + (pWords reinPacket.bits.toNat + 63) / 64 ≤ 32 ∧
      sget 0 (s.rein n).vcComm 1 = 0) := by decide +kernel

theorem witness_slotsAreControlled : (∀ st ∈ [1, 2, 3, 4, 5, 6, 0, 7], (reined { slot with st := st }).slot 0 2 = { slot with st := st }) ∧
    bodySlot.bodyEnd ≠ none ∧ slot.bodyEnd = none ∧ (reined slot).mem.commit = [] ∧
    (let s := (reined slot).setPkt 0 { Packet.blank with slots := [(0, 2)] }
     (s.pkt? slot.pkt).isSome = true) ∧
    (∀ i ∈ [0, 31, 32, 47, 48], sget 0 (((reined slot).setRein 0 { (reined slot).rein 0 with selIdx := [(2, i)] }).rein 0).selIdx 2 = i % 64) := by
  decide +kernel

/-- Two slots wait for the sequencer with chunks that are ready; one is at its NEXT; one has run 64 boundary words. -/
theorem witness_slotsTakeTurns :
    let x : Slot := { slot with st := 2, words := [0x08000001, 0x10000000] }
    let s0 := (reined x).setSlot 0 7 { x with passes := 7 }
    let s := s0.setRein 0 { s0.rein 0 with running := none }
    (s.rein 0).running = none ∧ ((s.rein 0).slots.map (·.1)).Nodup ∧ (∀ e ∈ (s.rein 0).slots, e.2.st = 2 ∧ waitFault s e.2 e.2.body = none ∧ waitPeer s e.2 = []) ∧
    (s.rein 0).slots.filter (fun e => slotReady s 0 e.2) = [(2, x), (7, { x with passes := 7 })] ∧
    (let s := reined { slot with st := 4 }
     (s.rein 0).slots.filter (fun e => slotReady (s.setRein 0 { s.rein 0 with running := none }) 0 e.2) = []) ∧
    ((reined bodySlot).rein 0).running = some 2 ∧ ({ bodySlot with atNext := true } : Slot).irqOut = 0 ∧ bodySlot.aborting = false ∧
    ({ slot with boundary := 64 } : Slot).st = 1 ∧ ({ bodySlot with irqOut := 1 } : Slot).irqOut = 1 := by decide +kernel

theorem witness_slotsAndAllowanceReturn :
    ((reined slot).slot 0 2).st ≠ 0 ∧ (((reined slot).slot 0 2).ent 0).getLsbD 63 = true ∧ (((reined slot).slot 0 2).ent 0).getLsbD 62 = false ∧
    (let s := (reined slot).setRein 0 { (reined slot).rein 0 with saved := [{ slot with savedSt := 4 }] }
     (s.rein 0).saved = [{ slot with savedSt := 4 }] ∧ (s.ctx slot.cx).st = 1 ∧ slot.lost = false ∧ (s.slot 0 0).st = 0 ∧
      (s.rein 0).unitsUsed + (slot.words.length + 63) / 64 ≤ 32) := by decide +kernel

theorem witness_framesAreSent :
    ((reined slot).rein 0).msServe = [] ∧ ((reined slot).rein 0).link = 0 ∧ ((reined slot).rein 0).unacked = [] ∧ ((reined slot).rein 0).txq = [] ∧
    (let s := (reined slot).setRein 0 { (reined slot).rein 0 with txq := [mkFrame 0 1 63 5, mkFrame 2 1 0 5], unacked := [mkFrame 4 0 0 0], fails := 15 }
     (s.rein 0).link = 0 ∧ (s.rein 0).unacked ≠ [] ∧ sget 0 (s.rein 0).credits 1 < 1024 ∧ 15 ≤ (s.rein 0).fails) := by decide +kernel

/-- A frame of each type in order on channel 1, with a run open there; `f` acknowledges the second frame sent. -/
def inFrame (ft : Nat) : Frame := (mkFrame ft 1 63 (5 + 2 * 2 ^ 25 + 3 * 2 ^ 35)).seal 0 9 none

def wired (clm : Bool) : State :=
  let s := reined slot
  s.setRein 0 { s.rein 0 with runs := [{ vc := 1, run := 0, comm := 5, dev := 2, prn := 3, sent := 0, clm := clm, det := false, part := [] }]
                              unacked := [(mkFrame 4 0 0 0).seal 8 0 none, (mkFrame 4 0 0 0).seal 9 0 none] }

theorem witness_framesAreReceived :
    (∀ ft ∈ [0, 1, 2, 3, 4], ((wired true).rein 0).link = 0 ∧ (inFrame ft).crc = (inFrame ft).crcOf ∧ (inFrame ft).seq = ((wired true).rein 0).rxSeq ∧
      (inFrame ft).ft = ft ∧ (inFrame ft).vc = 1) ∧
    (∀ c ∈ [true, false], (((wired c).rein 0).run 1).elim false (fun h => decide (h.clm = c)) = true) ∧ ((wired true).rein 0).dead = [] ∧
    ((wired true).rein 0).held = [] ∧ ((wired true).rein 0).lostRun 0 = false ∧ sget 0 ((wired true).rein 0).vcComm 1 = 0 ∧
    (inFrame 2).flit.toNat % 4096 = 5 ∧ (let s := (wired true).setRein 0 { (wired true).rein 0 with vcComm := [(1, 10)] }
     sget 0 (s.rein 0).vcComm 1 ≠ 0 ∧ sget 0 (s.rein 0).vcComm 1 ≠ 6) ∧
    ((wired true).rein 0).unacked = [(mkFrame 4 0 0 0).seal 8 0 none] ++ (mkFrame 4 0 0 0).seal 9 0 none :: [] ∧
    ((mkFrame 4 0 0 0).seal 9 0 none).seq = (inFrame 0).ack ∧ ((mkFrame 4 0 0 0).seal 8 0 none).seq ≠ (inFrame 0).ack ∧
    ((mkFrame 4 0 0 0).seal 1 0 none).seq ≠ ((wired true).rein 0).rxSeq := by decide +kernel

/-- Requests of the memory service, their data and their answers; context 1 exports 2 MiB from 0. -/
theorem witness_memoryServiceAnswers :
    let s := (reined slot).setCtx 1 { ((reined slot).ctx 1) with elen := 1 }
    let q (mop a : Nat) : Frame := (mkFrame 5 0 0 (BitVec.ofNat 512 (7 * 2 ^ 34 + mop * 2 ^ 42 + 2 ^ 44 + a * 2 ^ 64))).seal 0 0 none
    let r : MsReq := { dev := 0, rctx := 1, addr := 0x1FFFC0, len := 64, write := true, bad := false, data := [] }
    (∀ m ∈ [0, 1, 2], (q m 64).crc = (q m 64).crcOf ∧ (q m 64).seq = (s.rein 0).rxSeq ∧ (q m 64).ft = 5) ∧ (s.rein 0).msServe = [] ∧ (s.rein 0).link = 0 ∧
    ((q 0 0x1FFFF8).flit.toNat / 2 ^ 64 % 2 ^ 64 + 8 ≤ ((s.ctx 1).ebase + (s.ctx 1).elen) * 2 ^ 21) ∧ (s.ctx 1).st = 1 ∧
    (inFrame 7).ft = 7 ∧ (inFrame 7).crc = (inFrame 7).crcOf ∧ (inFrame 7).bytes.length = 64 ∧ msServed s r = true ∧
    (msLines r).all (fun l => !owned s l 0) = true ∧ ([] ++ (inFrame 7).bytes).length < ({ r with len := 65 } : MsReq).len ∧
    (s.setRein 0 { s.rein 0 with msIn := some r, msPend := [(2, r)] }).rein 0 = { s.rein 0 with msIn := some r, msPend := [(2, r)] } ∧
    ((mkFrame 6 0 0 0).seal 0 0 none).ft = 6 ∧ ((mkFrame 6 0 0 0).seal 0 0 none).flit.toNat % 256 = 0 ∧ ((mkFrame 6 0 0 0).seal 0 0 none).crc = ((mkFrame 6 0 0 0).seal 0 0 none).crcOf ∧
    ({ slot with asked := 1 } : Slot).asked = 1 := by decide +kernel

/-! Contexts. -/

/-- The device with `st` in context 3 and the descriptor `d` at 0x300000, read under its key. -/
def withDescriptor (st : Nat) (d : Nat) : State :=
  let s := (setupTables State.reset).setCtx 3 { Context.free with st := st, keyed := true, key := 1, saveUnits := 4, saveBase := 0x600000 }
  let s := putDevice s 1 0x300000 (bytesOfNat 64 d)
  { s with cx := { s.cx with sel := 3, desc := 0x300000, staging := 1 } }

/-- One page of save area and two pool lines, and the largest values of every field. -/
def shape : Nat := 7 + 0x500000 * 2 ^ 224 + 2 ^ 288 + 0x400000 * 2 ^ 320 + 2 * 2 ^ 384

theorem witness_contextCommands :
    (∀ st ∈ [0, 1, 2, 3, 4], ((withDescriptor st shape).ctx 3).st = st ∧ (withDescriptor st shape).cx.busy = false ∧ (withDescriptor st shape).cx.sel = 3) ∧
    (∀ st ∈ [0, 1, 3], descriptor (withDescriptor st shape) 3 = shape ∧ DescriptorReads (withDescriptor st shape) 3) ∧ FieldsRead shape ∧ ExtentReads shape ∧
    part shape 384 32 ≠ 0 ∧ ¬ DescriptorReads (withDescriptor 0 8) 3 ∧ ¬ FieldsRead (shape + 257 * 2 ^ 192) ∧ FieldsRead (shape + 256 * 2 ^ 192) ∧
    ¬ ExtentReads (shape + 2 ^ 320) ∧ ((withDescriptor 0 shape).ctx 3).keyed = true ∧
    (∀ die ∈ [0, 1, 2, 3], shareUnits (withDescriptor 0 shape) + part shape 48 11 ≤ dieUnits (withDescriptor 0 shape) die) ∧
    (let s := (withDescriptor 0 shape).setCtx 5 { Context.free with st := 1, dsh := 1536 }
     ¬ (shareUnits s + 1536 ≤ dieUnits s 0)) ∧
    (1#512).toNat % 2 ^ 256 ≠ (1#512).toNat / 2 ^ 256 ∧ (0#512).toNat % 2 ^ 256 = (0#512).toNat / 2 ^ 256 := by decide +kernel

theorem witness_contextsAreSavedAndResumed :
    let s := withDescriptor 1 shape
    let t : State := { (withDescriptor 2 shape) with cx := { (withDescriptor 2 shape).cx with busy := true, cmd := 3 } }
    let r := (withDescriptor 3 shape).setCtx 3 { Context.free with st := 3 }
    s.cx.busy = false ∧ (s.ctx 3).st = 1 ∧ saveNeed s 3 ≤ (s.ctx 3).saveUnits ∧ ¬ (saveNeed s 3 ≤ 0) ∧ t.cx.busy = true ∧ t.cx.cmd = 3 ∧ (t.ctx 3).st = 2 ∧
    ctxStopped t 3 = true ∧ ctxStopped (running lanes) 1 = false ∧ (t.ctx 3).recorded = 0 ∧ (r.ctx 3).savedArea.isNone = true ∧ (r.ctx 3).st = 3 ∧
    (let q := r.setCtx 3 { (r.ctx 3) with savedArea := some [] }
     (q.ctx 3).savedArea = some [] ∧ areaBytes q 3 = [] ∧ q.k.groups = [] ∧ q.reins = []) := by decide +kernel

theorem witness_contextsEnd : (running lanes).cx.busy = false ∧ (({ (running lanes) with cx := { (running lanes).cx with sel := 1 } } : State).ctx 1).st ∈ [1, 3, 4] ∧
    backed (2 ^ 63) = false ∧ backed 0x600000 = true ∧ ((withDescriptor 1 shape).ctx 3).saveBase ≤ 0x600000 ∧ devBacked 0x600000 = true ∧
    (1024 ≤ 1024 ∨ (State.reset.ctx 1024).st = 0) ∧ (∀ st ∈ [1, 2, 3, 4], ((withDescriptor st shape).ctx 3).st = st) := by decide +kernel
/-! Registers, queues and packets. -/

theorem witness_registersAreWritten : State.reset.cx.busy = false ∧
    ({ State.reset with cx := { State.reset.cx with busy := true } } : State).cx.busy = true ∧ (State.reset.queue 255).en = false ∧
    ((running lanes).cx.ctxs.any (fun c => decide (c.2.st ≠ 0))) = true ∧ (State.reset.cx.ctxs.all (fun c => decide (c.2.st = 0))) = true ∧
    part 0x4C0001FF 24 4 = 12 ∧ part 0x4C0001FF 28 2 = 0 ∧ part 0x4C0001FF 9 7 = 0 ∧ part 0x4C0001FF 16 8 = 0 ∧ part 0x01000000 24 4 = 1 := by decide +kernel

/-- Context 1 with queue 0, whose ring of 16 packets lies at 4096 of object 1 and holds `p`; a launch record `l` at 8192 there,
an image of the header `h` at 0, and a completion ring at 12288. -/
def queued (q : Queue) (p l h : Nat) : State :=
  let s := setupTables State.reset
  let k := (s.ctx 1).key
  let s := putDevice (putDevice (putDevice s k 0x101000 (bytesOfNat 64 p)) k 0x102000 (bytesOfNat 256 l)) k 0x100000 (bytesOfNat 128 h)
  s.setQueue 0 q

def queue : Queue :=
  { Queue.off with base := BitVec.ofNat 64 (2 ^ 40 + 4096), en := true, cx := 1, tail := 1, st := 1, cbase := BitVec.ofNat 64 (2 ^ 40 + 12288) }

def parsing (p : Nat) : State := queued queue p setupLaunch (setupHeader 1)

theorem parses_of {p : Nat} (h : (chooseQueue (parsing p) 0 == some (0, queue) && ((parsing p).queue 0 == queue) &&
    (ringEntry (parsing p) queue 0 == some p)) = true) : Parses (parsing p) 0 0 queue p := by
  simp only [Bool.and_eq_true, beq_iff_eq] at h
  exact ⟨h.1.1, h.1.2, rfl, by decide, h.2⟩

theorem witness_queueRegisters : ((queued queue 0 0 0).ctx 1).st ∈ [1, 3] ∧ (State.reset.ctx 0).st ∉ [1, 3] ∧ (State.reset.queue 255).en = false ∧
    ((queued queue 0 0 0).queue 0).en = true ∧ 2 ^ 4 < (17#32).toNat ∧ (16#32).toNat ≤ 2 ^ 4 ∧ queue.late = [] ∧
    (let s := queued { queue with late := [9] } 0 0 0
     (s.queue 0).late = [9] ∧ (s.pkt? 9).isNone = true) := by decide +kernel

theorem witness_faultQueueWrites :
    let q : FaultQ := { State.reset.fq with en := true, waiting := [[6, 7]] }
    ((6 : BitVec 256).getLsbD 255 = false ∧ (7 : BitVec 256).getLsbD 255 = false) ∧ q.waiting = [6, 7] :: [] ∧ (q.tail - q.head).toNat + 2 ≤ 2 ^ q.lg ∧
    (({ q with tail := 14 } : FaultQ).tail - q.head).toNat + 2 ≤ 2 ^ q.lg ∧ 2 ^ q.lg < (({ q with tail := 15 } : FaultQ).tail - q.head).toNat + 2 ∧
    State.reset.fq.waiting = [] ∧ State.reset.fq.en = false := by decide +kernel

/-- A REIN packet for rein 0 and phase 7, as `reinPacket` has it, with its image and arguments in the page. -/
def reinBits (phase : Nat) : Nat := 6 + phase * 2 ^ 32 + 2 ^ 40 * 2 ^ 64 + 2 ^ 264 + 5 * 2 ^ 296 + 2 ^ 308 + (2 ^ 40 + 1024) * 2 ^ 320 + 2 ^ 384

theorem witness_packetsAreParsed :
    Parses (parsing 0) 0 0 queue 0 ∧ Parses (parsing 9) 0 0 queue 9 ∧ Parses (parsing 0x4005) 0 0 queue 0x4005 ∧ Parses (parsing (reinBits 7)) 0 0 queue (reinBits 7) ∧
    OfType 0 0 ∧ OfType 0x4005 5 ∧ ¬ OfType (2 ^ 64) 0 ∧ ¬ OfType 0x100 0 ∧ OfType (reinBits 7) 6 ∧
    (parsing 0).q.pkts = [] ∧ Free (parsing 0) 0 0x4000 ∧ queue.phaseMet = false ∧
    ¬ Free ((parsing 0).setPkt 9 Packet.blank) 0 0x4000 ∧ BitVec.ofNat 8 (part (reinBits 7) 32 8) ≠ queue.phase ∧
    (reinImage (parsing (reinBits 7)) 1 (reinBits 7)).isSome = true ∧ ReleaseStands (parsing (reinBits 7)) 1 (reinBits 7) ∧
    (chooseQueue State.reset 0).isNone = true ∧ (ringEntry (parsing 0) { queue with base := BitVec.ofNat 64 (2 ^ 41) } 0).isNone = true :=
  ⟨parses_of (by decide +kernel), parses_of (by decide +kernel), parses_of (by decide +kernel), parses_of (by decide +kernel), by decide, by decide,
    by decide, by decide, by decide +kernel, by decide +kernel, by decide +kernel, by decide, by decide +kernel, by decide +kernel, by decide +kernel,
    by decide +kernel, by decide +kernel, by decide +kernel⟩

/-- SIGNAL of an address that can be written and of one that cannot; WAIT; REPLAY; INVAL of the page, and of no object. -/
def signalBits (a : Nat) : Nat := 3 + a * 2 ^ 128 + 2 ^ 192 + 2 ^ 256
def waitBits (a v : Nat) : Nat := 4 + a * 2 ^ 64 + v * 2 ^ 128
def invalBits (obj : Nat) : Nat := 8 + obj * 2 ^ 104 + 2 ^ 128

theorem witness_packetsTakeEffect :
    let a := 2 ^ 40 + 2048
    (Parses (parsing (signalBits a)) 0 0 queue (signalBits a) ∧ Parses (parsing (signalBits 0)) 0 0 queue (signalBits 0) ∧ Parses (parsing (waitBits a 0)) 0 0 queue (waitBits a 0) ∧
      Parses (parsing (waitBits a 1)) 0 0 queue (waitBits a 1) ∧ Parses (parsing (waitBits 0 1)) 0 0 queue (waitBits 0 1) ∧ Parses (parsing 7) 0 0 queue 7 ∧
      Parses (parsing (invalBits 1)) 0 0 queue (invalBits 1) ∧ Parses (parsing (reinBits 0)) 0 0 queue (reinBits 0)) ∧
    (OfType (signalBits a) 3 ∧ OfType (waitBits a 1) 4 ∧ OfType 7 7 ∧ OfType (invalBits 1) 8 ∧ OfType (invalBits 0xFFFFF0) 8) ∧
    (signalWritable (parsing (signalBits a)) 1 a = true ∧ signalWritable (parsing (signalBits 0)) 1 0 = false ∧
      freshMem (parsing (waitBits a 0)) 1 a 8 = some 0 ∧ waitCond 0 0 0 = true ∧ waitCond 0 0 1 = false ∧ freshMem (parsing (waitBits 0 1)) 1 0 8 = none ∧
      migrating (parsing (waitBits 0 1)) 1 0 = false ∧ part (invalBits 0xFFFFF0) 104 24 = 0xFFFFF0) ∧
    (OfType (reinBits 0) 6 ∧ BitVec.ofNat 8 (part (reinBits 0) 32 8) = queue.phase ∧ (reinImage (parsing (reinBits 0)) 1 (reinBits 0)).isSome = true ∧
      (reinImage (parsing 0) 1 (reinBits 0 - 2 ^ 104)).isNone = true) := by
  refine ⟨⟨parses_of (by decide +kernel), parses_of (by decide +kernel), parses_of (by decide +kernel), parses_of (by decide +kernel),
    parses_of (by decide +kernel), parses_of (by decide +kernel), parses_of (by decide +kernel), parses_of (by decide +kernel)⟩, ?_, ?_, ?_⟩ <;> decide +kernel

/-- A LAUNCH of the record at 8192, and a NODE of it with a timer of 1,000. -/
def launchBits : Nat := 1 + (2 ^ 40 + 8192) * 2 ^ 64
def nodeBits : Nat := 2 + (2 ^ 40 + 8192) * 2 ^ 64 + 1000 * 2 ^ 280

/-- The record with an indirect size at 2064 and its signal at 2048. -/
def indirect : Nat := setupLaunch + 2 ^ 654 + (2 ^ 40 + 2064) * 2 ^ 320 + (2 ^ 40 + 2048) * 2 ^ 384

def held (w : HoldWhy) (p l : Nat) : State := queued { queue with st := 2, hold := some w } p l (setupHeader 1)

theorem witness_heldQueuesGoOn :
    (∀ w ∈ [HoldWhy.phase, .bar, .indirect], ((held w 0x105 0).queue 0) = { queue with st := 2, hold := some w } ∧
      ((held w 0x105 0).ctx 1).st = 1 ∧ (queue.tail - queue.head).toNat ≤ 2 ^ queue.lg) ∧
    ringEntry (held .phase 5 0) { queue with st := 2, hold := some .phase } 0 = some 5 ∧ OfType 5 5 ∧ (held .phase 5 0).q.pkts = [] ∧ queue.phaseMet = false ∧
    (let q : Queue := { queue with st := 2, hold := some .splice, head := queue.tail }
     ((queued q 0 0 (setupHeader 1)).queue 0) = q ∧ (ringEntry (queued q 0 0 (setupHeader 1)) q 0).isSome = true) ∧
    Free (held .bar 0 0) 0 0 ∧ ¬ Free ((held .bar 0 0).setPkt 9 Packet.blank) 0 0x4000 ∧ ({ queue with phaseMet := true } : Queue).phaseMet = true ∧
    (OfType launchBits 1 ∧ ReleaseStands (held .indirect launchBits indirect) 1 launchBits ∧ part launchBits 64 64 % 256 = 0 ∧
      BitVec.ofNat 8 (part launchBits 32 8) = queue.phase ∧
      readLaunch (held .indirect launchBits indirect) 1 (part launchBits 64 64) = some (indirect, setupHeader 1) ∧
      accepted (held .indirect launchBits indirect) 1 indirect (setupHeader 1) false = true ∧ part indirect 654 1 = 1 ∧ part indirect 656 1 = 0 ∧ part indirect 658 1 = 0 ∧
      (gridSize (held .indirect launchBits indirect) 1 indirect).isSome = true ∧
      sizeMet (held .indirect launchBits indirect) 1 indirect = true ∧
      sizeMet (held .indirect launchBits (indirect + 2 ^ 448)) 1 (indirect + 2 ^ 448) = false) ∧
    (let s := (parsing 0).setPkt 9 { Packet.blank with bits := 8, watch := [5] }
     (s.pkt? 9).elim false (fun k => decide (part k.bits.toNat 0 8 = 8 ∧ k.finished = false ∧ k.watch = [5])) = true ∧
      (mget s.mem.stores 5).isNone = true ∧ (s.op? 5).isNone = true ∧
      (mget ({ s with mem := { s.mem with stores := [(5, brandStore)] } } : State).mem.stores 5).isSome = true) := by decide +kernel

theorem witness_kernelsAreTaken : Parses (parsing launchBits) 0 0 queue launchBits ∧ Parses (parsing nodeBits) 0 0 queue nodeBits ∧
    (OfType launchBits 1 ∧ OfType nodeBits 2 ∧ part nodeBits 280 10 = 1000 ∧ part launchBits 64 64 % 256 = 0 ∧
      BitVec.ofNat 8 (part launchBits 32 8) = queue.phase ∧ Free (parsing launchBits) 0 launchBits ∧ ReleaseStands (parsing launchBits) 1 launchBits) ∧
    (readLaunch (parsing launchBits) 1 (part launchBits 64 64) = some (setupLaunch, setupHeader 1) ∧ (readLaunch (parsing launchBits) 1 (2 ^ 41)).isNone = true ∧
      accepted (parsing launchBits) 1 setupLaunch (setupHeader 1) false = true ∧ accepted (parsing nodeBits) 1 setupLaunch (setupHeader 1) true = true ∧
      accepted (parsing launchBits) 1 setupLaunch 0 false = false ∧ part setupLaunch 654 1 = 0 ∧ part setupLaunch 656 1 = 0 ∧ part setupLaunch 658 1 = 0 ∧
      accepted (parsing launchBits) 1 (setupLaunch + 2 ^ 658) (setupHeader 1) false = true ∧ part (setupLaunch + 2 ^ 658) 658 1 = 1 ∧ queue.head + 1 = queue.tail ∧
      accepted (parsing launchBits) 1 indirect (setupHeader 1) false = true) ∧
    ((parsing nodeBits).k.nodes = [] ∧ (parsing nodeBits).k.held = [] ∧
      (∃ e ∈ noded.k.nodes, e.2.cx = 1 ∧ e.2.entry = entryOf noded lanes 0 ∧ e.2.disc = 0)) := by
  refine ⟨parses_of (by decide +kernel), parses_of (by decide +kernel), ?_, ?_, ?_⟩ <;> decide +kernel

/-- A NOP that wants a record, a SIGNAL that adds, and a NOP that wants nothing, each done; the completion ring empty and full. -/
theorem witness_packetsComplete :
    let s := parsing 0
    let pk (b : Nat) (f : Bool) : Packet := { Packet.blank with cx := 1, finished := f, bits := BitVec.ofNat 512 b }
    (∀ b ∈ [0x8000, signalBits (2 ^ 40 + 2048), 0], ((s.setPkt 9 (pk b true)).pkt? 9).isSome = true ∧ workQuiet (s.setPkt 9 (pk b true)) 9 = true) ∧
    ((s.setPkt 9 (pk 0 true)).ctx 1).st = 1 ∧ (s.queue 0).late = [] ∧ (s.queue 0).noRecords = false ∧
    part 0x8000 15 1 = 1 ∧ part (signalBits (2 ^ 40 + 2048)) 256 2 ≠ 0 ∧ part (signalBits (2 ^ 40 + 2048)) 0 8 ∈ [1, 2, 3, 6] ∧
    (∀ e ∈ [(2 ^ 40 + 2048, 8), (2 ^ 40 + 12288, 32)], (seqBytes s 1 e.1 e.2).toOption.elim false (fun ps =>
      ps.all (fun x => !x.wp && decide (x.loc.sp = .phys) && !byteOwned s 1 0 x) && decide ((ps.map (·.loc)).Nodup)) = true) ∧
    ((s.queue 0).ctail - (s.queue 0).chead).toNat < 2 ^ (s.queue 0).clg ∧
    2 ^ (s.queue 0).clg ≤ (({ queue with ctail := 16 } : Queue).ctail - queue.chead).toNat ∧
    (let f := s.setCtx 1 { (s.ctx 1) with st := 4 }
     (f.ctx 1).st = 4 ∧ ctxStopped f 1 = true) := by decide +kernel
/-! Blocks, outriders, clauses, and the care of the device. -/

/-- The grid of the fixture before its block is placed, and once its block has exited, its packet open. -/
def launched : State := { State.reset with k := { State.reset.k with grids := [(2, { grid with nextBlock := 0 })] }
                                           cx := { State.reset.cx with ctxs := [(1, { Context.free with st := 1, placedShare := true })] } }

def exited : State := ({ launched with k := { launched.k with grids := [(2, { grid with exited := 1 })] } }).setPkt 9 Packet.blank

theorem witness_blocksArePlaced :
    (launched.grid? 2).elim false (fun r => decide (r.lmap = [] ∧ r.coop = false ∧ r.node = none ∧ r.heavy = false ∧ r.nextBlock < r.blocks ∧ 16 ≤ r.width)) = true ∧
    (launched.ctx 1).st = 1 ∧ (launched.ctx 1).placedShare = true ∧ launched.k.blocks = [] ∧
    (placeFree (({ grid with nextBlock := 0 } : Grid).shape 1) (clustersByRoom launched)).isSome = true ∧
    (exited.grid? 2).elim false (fun r => decide (r.nextBlock = r.blocks ∧ r.exited = r.blocks ∧ r.pkt2 = none ∧ r.pkt = 9)) = true ∧
    (exited.pkt? 9).elim false (fun k => !k.finished) = true ∧ (exited.ctx 1).st = 1 ∧ exited.mem.commit = [] ∧
    ({ grid with nextBlock := 0 } : Grid).exited ≠ grid.blocks := by decide +kernel

/-- Two arrivals wait at cluster 31; the queue of the outrider holds one of a context that does not run, and one of context 1. -/
def arrival (cx : Nat) : Arrival := { cx := cx, rein := 3, slot := 2, comm := 5, entry := 1, value := 2 ^ 63, pkt := 7 }
def told : State :=
  let s := parsing 0
  { s with k := { s.k with outriders := [(31, { Outrider.idle with waiting := [{ arrival 1 with rein := 4 }, arrival 1], irq := [arrival 9, arrival 1] })] } }

theorem witness_outridersRun :
    told.k.outriders = [] ++ (31, { Outrider.idle with waiting := [{ arrival 1 with rein := 4 }, arrival 1], irq := [arrival 9, arrival 1] }) :: [] ∧
    (arrival 1).rein = 3 ∧ (sget Outrider.idle told.k.outriders 31).run = none ∧ told.k.groups = [] ∧ (told.ctx 9).st ≠ 1 ∧ (told.ctx 1).st = 1 ∧
    (told.ctx 1).oimg = 0 ∧ (seqMem (told.setCtx 1 { (told.ctx 1) with oimg := 2 ^ 40 }) 1 (2 ^ 40) 128).isSome = true ∧
    (State.reset.k.outriders = []) := by decide +kernel

/-- The group at the boundary before a clause that waits on flags 0 and 11, in memory at 256. -/
def waitingGroup : Group := { lanes with status := .boundary, pc := 256 }
def atClause : State := putDevice (running waitingGroup) ((running waitingGroup).ctx 1).key (0x100000 + 256) ([0x1080_1F00, 0x200000F0].flatMap bytesOfWord)

theorem witness_clausesStart :
    (pipeGroups atClause 0 0).filter (fun e => canStart atClause e.2) = [(1, waitingGroup)] ∧ atClause.group? 1 = some waitingGroup ∧
    waitingGroup.yielding = false ∧ (codeWords atClause waitingGroup 256 1).toOption = some [0x10801F00] ∧ (decodeHeader 0x10801F00).isSome = true ∧
    waitingGroup.dfaults = [] ∧ waitingGroup.owed = [] ∧ pipeGroups State.reset 383 3 = [] ∧
    (let g (w : Stall) : Group := { lanes with status := .stalled w, F := [(11, 63)] }
     (∀ w ∈ [Stall.fence, .recall { sp := .phys, a := 0x100000 } 0, .flagFull 11, .flagFull 0, .syncf 0x800, .syncf 0x7FF, .leave, .merge 0, .merge 1, .tile 7],
       (running (g w)).group? 1 = some (g w) ∧ (g w).status = .stalled w ∧ (g w).saved = false) ∧ ((running lanes).ctx 1).st = 1 ∧
     63 ≤ (g .fence).count 11 ∧ (g .fence).count 0 < 63) ∧
    (lanes.status = .issuing ∧ lanes.ih = false ∧ ({ lanes with sfq := [(5, 6, 7)] } : Group).sfq = (5, 6, 7) :: [] ∧ lanes.sfq = []) := by decide +kernel

/-- A configuration record: 2,600 W, bank 2, lvmax 96, lvnear 96, l2u 8, svn 0, dsplit 4. -/
def flashBits : BitVec 2048 := BitVec.ofNat 2048 (0xCA3E + 2 ^ 16 + 2600 * 2 ^ 32 + 2 * 2 ^ 44 + 96 * 2 ^ 48 + 96 * 2 ^ 56 + 8 * 2 ^ 64 + 4 * 2 ^ 112)

def cared (c : Care → Care) : State := { State.reset with care := c { State.reset.care with conf := readConfig 0 flashBits, flash := [(0, flashBits), (1, flashBits)] } }

theorem witness_leaveAndPower :
    (let s := cared (fun c => { c with asking := [(3, [7, 8])] })
     sget [] s.care.asking 3 = [7, 8] ∧ (sget [] s.care.grants 3).length < s.care.conf.elim 0 (·.lvmax) ∧ s.care.withhold = 0) ∧
    sget [] State.reset.care.asking 0 = [] ∧ State.reset.care.samples < 10 ∧
    (let s := cared (fun c => { c with samples := 10, powerSum := 25220000, pending := readConfig 0 flashBits })
     let limit := 1000 * min 2600 (s.care.conf.elim 2600 (·.plim)) * s.care.samples
     10 ≤ s.care.samples ∧ s.care.powerSum ≤ limit ∧ 97 * limit ≤ 100 * s.care.powerSum ∧ limit < 26000001 ∧ 100 * 25219999 < 97 * limit ∧
      s.care.pending.isSome = true ∧ s.care.conf.isSome = true) := by decide +kernel

theorem witness_resetsAreCommanded : State.reset.care.rstBusy = false ∧ (383 : Nat) < 512 ∧
    (∀ l ∈ [(1, 0), (2, 3), (3, 31), (4, 383), (5, 383), (6, 383), (7, 383), (8, 383), (9, 31), (10, 3), (11, 31), (12, 0)],
      unitWork State.reset l.1 l.2 = some []) ∧ unitWork (running lanes) 4 0 = some [1] ∧
    ((running lanes).group? 1 = some lanes ∧ lanes.outrider = none ∧ lanes.saved = false ∧ lanes.status ≠ .ended ∧ lanes.cx < 1024 ∧ lanes.core < 384) ∧
    (cared (fun c => { c with rstBusy := true, rstLvl := 11 })).care.rstBusy = true := by decide +kernel

theorem witness_updateAndBringUp :
    (readConfig 0 flashBits).isSome = true ∧ (readConfig 1 flashBits).isNone = true ∧ (readConfig 0 0).isNone = true ∧ State.reset.care.up = false ∧
    (cared (fun c => { c with up := true })).care.up = true ∧ ((sget 0 (cared id).care.flash (1 - (cared id).care.active)) = flashBits) ∧
    (readConfig 0 (sget 0 State.reset.care.flash 0)).isNone = true ∧ (readConfig 0 (sget 0 State.reset.care.flash 1)).isNone = true := by decide +kernel

theorem witness_dieMemorySplit :
    (part 0x0C000008 28 3 = 0 ∧ part 0x0C000008 24 2 = 0 ∧ part 0x0C000008 4 12 = 0 ∧ part 0x0C000008 0 4 = 8 ∧ part 0x0C000008 26 2 = 3) ∧
    (part 0x00000002 28 3 = 0 ∧ part 0x00000002 24 2 = 0 ∧ part 0x00000002 4 12 = 0 ∧ part 0x00000002 0 4 = 2) ∧
    ¬ 2 ≤ part 0x00000001 0 4 ∧ State.reset.care.dmBusy = false ∧ dieInUse State.reset 3 = false ∧ dieInUse (running lanes) 0 = true ∧
    (cared (fun c => { c with dmBusy := true, dmDie := 3, dmL2u := 2 })).care.dmBusy = true ∧ lanes.core / 96 = 0 := by decide +kernel

theorem witness_hostAccesses : backed 0 = true ∧ backed 0x8FFFFFFFFF = true ∧ backed 0x9000000000 = false ∧ backed (2 ^ 64) = false := by decide +kernel

/-! Encodings and the step. -/

theorem witness_decodeAfterEncode : (wellFormed (.sadd 1 2 3 none) = true ∧ encode (.sadd 1 2 3 none) ≠ [] ∧ reinInstr (.sadd 1 2 3 none) = false) ∧
    (wellFormed (.chunk 255) = true ∧ encode (.chunk 255) ≠ [] ∧ reinInstr (.chunk 255) = true) := by decide +kernel

theorem witness_encodeAfterDecode : (decodeClause [0x40880000]).toOption = some (.vlane 0x20) ∧
    (decodeClause [0xC940800A, 0x40000000]).toOption = some (.sigWait 2 10 4 0) ∧ (decodeClause [0x40880000, 5]).toOption = some (.vlane 0x20) ∧
    decodeReinWords [0x08000004, 0] = some (.chunk 4) ∧ (decodeReinWords [0x690A2400, 0x02000008]).isSome = true := by decide +kernel

theorem witness_headersDecode : (15 : Nat) ∉ [0xC, 0xD, 0xE] ∧ (11 : Nat) ∉ [0xC, 0xD, 0xE] ∧ (decodeHeader 0xFFFFFF80).isSome = true ∧
    (decodeHeader 0x0000C000).isNone = true ∧ (decodeHeader 0x00000001).isNone = true ∧ part 0x00000001 0 7 ≠ 0 ∧ part 0x0000C000 12 4 = 0xC := by decide +kernel

/-- The group within its clause, the words `ws` at its program counter, and its pipe's turn next. -/
def turning (g : Group) (ws : List Word) : State :=
  { putDevice (running g) ((running g).ctx 1).key (0x100000 + 260) (ws.flatMap bytesOfWord) with agenda := [.pipe 0 0] }

/-- The state after the turn begins, as the statement has it. -/
def turned (s : State) : State := { passSlot (countSlot (nextTurn s).2 0 0) 0 0 (some 1) with cur := 1 }

theorem witness_stepsRunTheDecodedInstruction :
    (∀ e ∈ [(264, [(0x0A004001 : Word)]), (268, [0xC940800A, 0x40000000]), (264, [0xFFFFFFFF]), (264, [0xC940800A])],
      let s := turning { lanes with cend := e.1 } e.2
      let v := turned s
      (nextTurn s).1 = .pipe 0 0 ∧ withheld (nextTurn s).2 0 0 = false ∧ ((chosen (countSlot (nextTurn s).2 0 0) 0 0).map (fun c => (c.1, c.2.status))) = some (1, .issuing) ∧
      (v.group? 1).elim false (fun g => decide (g.outrider = none ∧ g.sfq = [] ∧ (parkDue v 1 g).isNone = true ∧ mustWaitReports v 1 g = false ∧
        ((decodeClause e.2).toOption.elim true (fun i => !barred g i)) = true ∧ (codeWords v g g.pc 1).toOption = some (e.2.take 1) ∧
        (e.2.length = 2 → g.pc + 8 ≤ g.cend ∧ (codeWords v g g.pc 2).toOption = some e.2))) = true) ∧
    (extWords 0x0A004001 = 0 ∧ (decodeClause [0x0A004001]).toOption.isSome = true ∧ extWords 0xC940800A ≠ 0 ∧
      (decodeClause [0xC940800A, 0x40000000]).toOption.isSome = true) ∧
    (let r := { reined slot with agenda := [.rein 0] }
     (nextTurn r).1 = .rein 0 ∧ (reinNext (nextTurn r).2 0).elim false (fun x => decide (x.1 = 2) && x.2.isSome) = true) ∧
    (let q := { State.reset with agenda := [.event (.clauseStart 0 0)] }
     (nextTurn q).1 = .event (.clauseStart 0 0) ∧ encode (.clauseStart 0 0) = [] ∧ hostRow (.clauseStart 0 0) = false) := by decide +kernel

/-- Words that are no instruction, and a word whose extension word lies beyond its clause. -/
theorem witness_wordsThatAreNone :
    (match decodeClause [0xFFFFFFFF] with | .error .encoding => true | _ => false) = true ∧ extWords 0xFFFFFFFF = 0 ∧
    (match decodeClause [0xC940800A] with | .error .clause => true | _ => false) = true := by decide +kernel

/-- A butterfly beyond the width, a register outside the window, a pending register, and operands that raise nothing. -/
theorem witness_operandChecks :
    checkUses (running lanes) 1 lanes (vuses 0x20 [(0x21, 0x24), (0x22, 0)]) = some cIllegalEncoding ∧ lanes.width ≤ 2 ^ (0x24 % 16) ∧
    checkUses (running lanes) 1 lanes (scalars 1 2 3 none) = none ∧ ¬ lanes.width ≤ 2 ^ (0x23 % 16) ∧
    checkUses (running lanes) 1 lanes (vuses 0x50 [(0x21, 0), (0x22, 0)]) = some cWindowRange ∧
    checkUses (running lanes) 1 lanes (vuses 0x4F [(0x21, 0), (0x22, 0)]) = none ∧
    (let s := after (exec (.ld { mw with k := 2 }) (running lanes))
     (s.group? 1).elim false (fun g => decide (checkUses s 1 g (vuses 0x21 [(0x20, 0), (0x22, 0)]) = some cOperandPending)) = true) ∧
    (running lanes).group? (running lanes).cur = some lanes := by decide +kernel

theorem witness_stepsKeepMemoryCanonical : MemoryCanonical (running lanes) :=
  ⟨by decide +kernel, by decide +kernel, by decide +kernel, by decide +kernel, by decide +kernel, by decide +kernel, by decide +kernel⟩
/-! Single steps of an instruction placed by `withFetchWord`. -/

/-- What a step leaves, for the group or slot the instruction ran in. -/
def stepped (nbits w : Nat) : State := after (step (State.reset.withFetchWord nbits w))

def steppedGroup (nbits w : Nat) (f : Group → Nat) : Option Nat :=
  let t := stepped nbits w
  (t.group? t.cur).map f

/-- SMOVI S1, 5 (R179): S1 is 5, and the group is at the next word. -/
theorem test_smovi : steppedGroup 32 0x20020005 (fun g => (g.sget' 1).toNat) = some 5 ∧ steppedGroup 32 0x20020005 (fun g => g.pc) = some 264 := by
  decide +kernel

/-- VLANE V0 (R205): each lane holds its number; lane 15 holds 15. -/
theorem test_vlane : steppedGroup 32 0x40840000 (fun g => (g.vget 0 15).toNat) = some 15 := by decide +kernel

/-- An undefined encoding raises ILLEGAL_ENCODING: without a handler its context is faulted (R78, R175, R142). -/
theorem test_undefined_word : ((stepped 32 0xFFFFFFFF).ctx 1).st = 4 := by decide +kernel

/-- HALT, the word 0 (R378, R380): the slot it runs in becomes free, and the sequencer leaves it. -/
theorem test_halt : ((State.reset.withFetchWord 32 0).slot 0 0).st = 1 ∧ ((stepped 32 0).slot 0 0).st = 0 ∧ ((stepped 32 0).rein 0).running.isNone = true := by
  decide +kernel
/-! Witnesses for the forms of the group's spill stack, and for clauses of several statements. -/

/-- A group of one active lane whose K1 is 16 words of its spill stack and K5 the bytes of a tile image there (R235). -/
def stackRec : Rec := Rec.put blockRec 0 24 0xFFFFFD

def stacked : Group := { matrix with exm := 1, spillBytes := 65536, K := [(1, stackRec), (5, Rec.put byteRec 0 24 0xFFFFFD)] }

/-- The lane access `f` of `stacked` reaches one lane, whose bytes all lie on the group's stack. -/
def onStack (f : LaneForm) : Bool :=
  let as := (f.lanes stacked).filterMap (f.cap stacked (stacked.rdK f.form.k))
  let bs := as.map (fun a => (a.bind (placeOf (running stacked) stacked stackRec as)).units)
  decide (bs.map List.length = [1]) && bs.all (fun us => us.all (fun u => u.elim false (fun u =>
    decide (u.bytes.length = 4 ∧ (u.bytes.map (·.loc)).Nodup) && u.bytes.all (fun p => decide (p.loc.sp = .spill 1)))))

theorem witness_spillStackForms :
    (∃ as, AccessRuns (running stacked) stacked (stForm mw) as) ∧ (∃ as, AccessRuns (running stacked) stacked (atomForm mw 1 2) as) ∧
    onStack (stForm mw) = true ∧ onStack (atomForm mw 1 2) = true ∧ tieAt (running stacked) stacked true = none ∧
    Ready (running stacked) stacked { kr := [1], sc := [126, 127] } ∧ Rec.right stackRec 2 = true ∧ Rec.base stackRec % 8 = 0 ∧
    8 ≤ Rec.extent stackRec ∧ (coreStore (running stacked) 1 stacked (Rec.obj stackRec)).1 = .spill 1 :=
  ⟨⟨_, accessRuns_of (by decide +kernel) (by decide +kernel) (by decide +kernel) (by decide +kernel) (by decide +kernel)⟩,
    ⟨_, accessRuns_of (by decide +kernel) (by decide +kernel) (by decide +kernel) (by decide +kernel) (by decide +kernel)⟩,
    by decide +kernel, by decide +kernel, by decide +kernel, ready_of (by decide +kernel), by decide +kernel, by decide +kernel,
    by decide +kernel, by decide +kernel⟩

/-- MSNAP and MOUT with their bytes on the stack, and with storage that ends before them; MZERO of a free tile still being read. -/
theorem witness_tilesOnTheStack :
    let s := (running stacked).setTile 0 2 mineTile
    let small : Group := { stacked with spillBytes := 4096 }
    Ready s stacked { kr := [5] } ∧ Ready s stacked { kr := [1] } ∧
    (∀ o ∈ [Rec.base byteRec, Rec.base byteRec + 36927], o < (coreStore s 1 stacked oSpill).2) ∧
    ¬ Rec.base byteRec + 36927 < (coreStore ((running small).setTile 0 2 mineTile) 1 small oSpill).2 ∧
    (∀ o ∈ outOffs stackRec, o < (coreStore s 1 stacked oSpill).2) ∧ (outOffs stackRec).Nodup ∧
    ¬ (∀ o ∈ outOffs (Rec.put stackRec 24 40 65536), o < (coreStore s 1 stacked oSpill).2) ∧ Rec.wf (Rec.put stackRec 24 40 65536) = true ∧
    ((reading.setTile 0 2 Tile.free).tile 0 2).holder = none ∧ tileBusy (reading.setTile 0 2 Tile.free) 0 2 = true := by decide +kernel

/-- K-steps inside and outside the storage of a loop's records (R222). -/
theorem witness_stepsStored :
    let s := tiled Tile.free
    StepsStored s matrix rowRec slabRec 1 0 1 ∧ ¬ StepsStored s matrix rowRec (Rec.put slabRec 24 40 4096) 1 0 1 ∧
    StepsStored s matrix (Rec.put (Rec.put rowRec 64 16 63) 104 20 256) (Rec.put slabRec 80 16 63) 1 1 1 := by decide +kernel

/-- Block products that fit, tie to even and pass 64 bits; rows of one and of two products; element blocks of each kind. -/
theorem witness_portsAndCells : NearestEven 2 5 (-1) ∧ NearestEven (-2) (-5) (-1) ∧ ¬ NearestEven 3 5 (-1) ∧
    NearestEven (2 ^ 63) 1 63 ∧ Exactly (2 ^ 63) 1 63 ∧ ¬ Exactly 2 5 (-1) ∧ (List.replicate 32 (1 : Int)).length = 32 :=
  ⟨by decide, by decide, by decide, by decide, by decide, by decide, by decide⟩

theorem witness_portsAndCells_blocks :
    (let r (fmt : Nat) : Rec := Rec.put rowRec 220 5 fmt
     let go (fmt : Nat) (hdr : Byte) : Option (Nat × Bool) :=
       (portA (r fmt) 1 0 (fun _ => hdr :: List.replicate 7 0) 0).map (fun w => (w.prods.length, w.specials.isEmpty))
     go 0 0 = some (1, true) ∧ go 0x08 0 = some (1, true) ∧ go 0x18 0 = some (1, true) ∧ go 0x14 100 = some (1, true) ∧
      (go 0x14 0xFF).isNone = true ∧ go 0x10 100 = some (2, true) ∧ go 0x10 3 = some (1, true) ∧
      (portA (r 0) 2 0 (fun _ => [0, 0, 0x80, 0x7F]) 0).elim false (fun w => !w.specials.isEmpty) = true) := by decide +kernel

/-- Operands of the lane accesses that take no slab record, no block format, or a brand of a scalar; an outrider run. -/
theorem witness_laneAccessChecks_forms :
    Ready (running lanes) lanes (ldqForm mw).uses ∧ Ready (running lanes) lanes (qstForm mw).uses ∧ Ready (running lanes) lanes (ldbForm mw).uses ∧
    (Rec.wf slabRec = true ∧ Rec.lay slabRec = 6) ∧ (isPB 0x10 = true ∧ isAQ 0x14 = true) ∧ (lanes.rdS mw.index).toNat < 2 ^ 16 ∧
    ¬ ((lanes.wrS 0 0x10000).rdS mw.index).toNat < 2 ^ 16 ∧ (running lanes).brandLive 1 (lanes.rdS mw.index).toNat = true ∧
    Ready (running outriderRun) outriderRun (lduForm mw).uses ∧ outriderRun.outrider.isSome = true ∧ (running outriderRun).brandLive 1 0 = true := by
  decide +kernel

/-- A write not yet performed under a release, and a record of write protection to report (R260, R275). -/
theorem witness_fencesAndProbe_waits : ownStores storedWord 1 ≠ [] ∧ releases (9#4).toNat ≠ 0 ∧
    (let g : Group := { lanes with sfq := [(5, 6, 7)] }
     (running g).group? (running g).cur = some g ∧ untested (running g) 1 (fun _ => true) = false ∧ g.sfq = (5, 6, 7) :: [] ∧ g.ih = false) := by
  decide +kernel

/-- A brand that merges, and one that retires, whose waiters stand at their BND.MRG; a node of a deterministic grid that is
closed by a later packet. -/
theorem witness_mergeWaits :
    let s := (branded.setBrand 1 1 { parent := 0, depth := 1, st := 3, waiter := some 1, returned := false }).setGroup 1
      { lanes with status := .stalled (.merge 1) }
    (s.group? 1).elim false (fun g => decide (g.saved = false ∧ g.status = .stalled (.merge 1))) = true ∧ releaseReady s 1 4 = true ∧
    brandBusy s 1 1 = false ∧ (firstCell s 1 1).isSome = true ∧
    (let r := branded.setGroup 1 { lanes with status := .stalled (.merge 3) }
     (r.group? 1).elim false (fun g => decide (g.saved = false ∧ g.status = .stalled (.merge 3))) = true ∧ brandBusy r 1 3 = false ∧
      releaseReady r 1 4 = true) ∧
    (let n : Node := { openNode with det := true, closed := true, closeAt := 1000, closeQs := [grid.q] }
     let s := { (running lanes) with k := { (running lanes).k with nodes := [(20, n)] } }
     nodeOf s 1 (entryOf s lanes 0) 0 = some (20, n) ∧ lanes.grid ≠ 0 ∧ lanes.grid < n.closeAt ∧ (s.grid? lanes.grid).elim 0 (·.q) ∈ n.closeQs ∧ 16 ≤ storeRoomOf s 0 ∧
      releaseReady s 1 4 = true) := by decide +kernel

/-- Held queues that are chosen, and one that is not while another queue is; a packet whose group still writes. -/
theorem witness_heldQueuesAreChosen :
    (chooseQueue (held .bar 0 0) 0 = some (0, { queue with st := 2, hold := some .bar })) ∧
    (let q : Queue := { queue with st := 2, hold := some .phase, phaseMet := true }
     chooseQueue (queued q 5 0 0) 0 = some (0, q) ∧ Free (queued q 5 0 0) 0 5 ∧ OfType 5 5) ∧
    (chooseQueue (held .indirect launchBits indirect) 0 = some (0, { queue with st := 2, hold := some .indirect })) ∧
    (let s := (held .bar 0 0).setQueue 1 queue
     let s := { s with q := { s.q with last := [(0, 1)] } }
     holdMet s 0 = true ∧ ((chooseQueue s 0).map (·.1)) = some 1) ∧
    peerBusy (parsing 0) 1 = false ∧
    (let s := storedWord.setPkt grid.pkt { Packet.blank with cx := 1, finished := true }
     workQuiet s grid.pkt = false ∧ (s.ctx 1).st = 1) := by decide +kernel

/-- The sequencer of die 2 runs under bank A, whose one valid entry patches control-store word 5 (R129). -/
theorem witness_patchedWords :
    let e : BitVec 128 := BitVec.ofNat 128 (7 + 5 * 2 ^ 96 + 2 ^ 108)
    let s := cared (fun c => { c with bankA := [e], measures := [1, 2, 3, 4, 5] })
    patchBank { s with q := { s.q with bankUsed := [(2, 1)] } } (sget 0 [(2, 1)] 2) = [e] ∧ e.getLsbD 108 = true ∧ part e.toNat 96 12 = 5 ∧
    s.care.measures[5 - 1]? = some (5 : BitVec 384) ∧ s.care.active ≤ 1 ∧ sget 0 s.care.flash (1 - s.care.active) = flashBits := by decide +kernel

/-- A stall for a recall, a group with nothing parked, a word that an outrider may not run, and a group at a boundary. -/
theorem witness_turnsOfAPipe :
    parkDue atClause 1 waitingGroup = none ∧ owned (running lanes) { sp := .phys, a := 0x100000 } 0 = false ∧
    (let g : Group := { outriderRun with outrider := some 0 }
     (decodeClause [0x40840000]).toOption.elim false (barred g) = true) ∧
    (let s := { atClause with agenda := [.pipe 0 0] }
     (nextTurn s).1 = .pipe 0 0 ∧ withheld (nextTurn s).2 0 0 = false ∧
      ((chosen (countSlot (nextTurn s).2 0 0) 0 0).map (fun c => (c.1, c.2.status))) = some (1, .boundary)) ∧
    (let s := { State.reset with agenda := [.pipe 0 0] }
     (chosen (countSlot (nextTurn s).2 0 0) 0 0).isNone = true) := by decide +kernel

/-! Clauses of the second review: parked accesses, deferral, and the rest. -/

/-- The group with K1 a record of INT8 elements in the page of object 1, and K3 one of object 2, which has no page. -/
def strays : Group :=
  { lanes with K := [(1, Rec.put pageRec 220 5 0x0A), (2, pageRec), (3, Rec.put pageRec 0 24 2)] }

theorem witness_loadsDeliver_elements :
    let s := after (exec (.ldq { mw with pol := 2 }) (running { strays with exm := 1 }))
    (s.op? 100).elim false (fun op => (s.group? op.gid).isSome && s.draining op.cx && accessReady s 100 op &&
      decide (op.waitsTie = false ∧ op.recalled = false ∧ op.left = 0 ∧ op.fin = 0 ∧ op.res = [] ∧ op.pgot = [] ∧ op.kind = .loadQ ∧
        ownStores s op.gid = [] ∧ op.dst + op.ndst ≤ 512 ∧ usesL1 op.pol = false ∧ Rec.fmt op.rec1 = 0x0A ∧ op.lanes.length = 1) &&
      op.lanes.all (fun a => decide (a.units.length = op.ndst))) = true := by decide +kernel

/-- Through `.L1`, one lane's word in a sector of the core's L1: it is held, or it is not. -/
theorem witness_loadsDeliver_l1 :
    let s := after (exec (.ld { mw with k := 2, pol := 1 }) (running oneLane))
    let sec : Loc := { sp := .phys, a := 0x100000 }
    (s.op? 100).elim false (fun op => usesL1 op.pol && decide (acquires op.ord = 0 ∧ op.core < 384 ∧ s.mem.stores = [] ∧ op.dueBytes.length = 4) &&
      op.dueBytes.all (fun p => let l := (resolve s op.cx op.brand p).2; l.cached && decide (l.sector = sec))) = true ∧
    ((l1Hit s 0 1 sec).isSome = true ∨ l1Hit s 0 1 sec = none) :=
  ⟨by decide +kernel, by cases l1Hit _ 0 1 _ <;> simp⟩

theorem chunksPlain_of {cs : Chunks} (h : cs.all (fun e => match e.2 with
    | .error f => !f.lg
    | .ok p => decide (p.1.base.sp = .phys ∨ p.1.base.sp = .host)) = true) : ChunksPlain cs := by
  rw [List.all_eq_true] at h
  have at' (o : Nat) : (∃ e ∈ cs, cs.at o = e.2) ∨ cs.at o = .error { cause := cPageMissing, lg := false, mq := false } := by
    unfold Chunks.at
    split
    · exact .inl ⟨_, List.mem_of_find?_eq_some ‹_›, rfl⟩
    · exact .inr rfl
  refine ⟨⟨false, fun o f hf => ?_⟩, fun o p hp => ?_⟩
  · obtain ⟨e, he, hx⟩ | hx := at' o
    · have := h e he
      rw [← hx, hf] at this
      simpa using this
    · rw [hx] at hf
      cases hf
      rfl
  · obtain ⟨e, he, hx⟩ | hx := at' o
    · have := h e he
      rw [← hx, hp] at this
      simpa using this
    · rw [hx] at hp
      cases hp

/-- What `AccessIssues` asks, and pages that do not translate. -/
def parksB (f : LaneForm) (g : Group) : Bool :=
  let s := running g
  let r : Rec := g.rdK f.form.k
  let as := (f.lanes g).filterMap (f.cap g r)
  let cs := translateChunks s g.cx r.obj true (as.flatMap LaneAcc.offs)
  decide (s.group? s.cur = some g ∧ checkUses s 1 g f.uses = none) && (f.trap s 1 g).isNone && (g.sideFlag f.sel).isNone &&
    !g.reportsFull && !r.special && !detOf s g && (tieAt s g false).isNone && (tieAt s g true).isNone &&
    as.any (fun a => !(a.faults cs).isEmpty) &&
    cs.all (fun e => match e.2 with
      | .error f => !f.lg
      | .ok p => decide (p.1.base.sp = .phys ∨ p.1.base.sp = .host))

/-- LD, LDQ, LDB, LDU, ST, QST, ATOM and CAS through a record of an object that has no page. -/
theorem witness_accessesPark :
    (∀ f ∈ [ldForm { mw with k := 3 }, ldqForm { mw with k := 3 }, ldbForm { mw with k := 3 }, lduForm { mw with k := 3 },
      stForm { mw with k := 3 }, qstForm { mw with k := 3 }, atomForm { mw with k := 3 } 1 2, atomForm { mw with k := 3 } 2 0],
      parksB f { strays with seta := 0xF, setb := 0xF } = true) ∧ strays.outrider = none := by
  decide +kernel

/-- A store parked on a page that is still missing, and one whose page translates now. -/
def parkedStore : State := after (exec (.st { mw with k := 3 }) (running { strays with exm := 3 }))

def mappedStore : State := match parkedStore.op? 100 with
  | some op => parkedStore.setOp 100 { op with rec1 := pageRec }
  | none => parkedStore

theorem witness_parkedAccessesRetry :
    (∀ s ∈ [parkedStore, mappedStore], (s.op? 100).elim false (fun op => (s.group? op.gid).elim false (fun g =>
      decide (g.park = some 100 ∧ op.parkNo ≠ 0 ∧ op.kind = .store ∧ op.leave = false ∧ Rec.special op.rec1 = false ∧ detOf s g = false ∧
        op.cx = g.cx ∧ s.brandLive op.cx op.brand = true ∧ op.brand = 0) &&
      decide (((op.lanes.filter (fun (a : LaneAcc) => op.left.getLsbD a.lane)).map (·.lane)) = [0, 1]))) = true) ∧
    (∀ e ∈ [(parkedStore, false), (mappedStore, true)], (e.1.op? 100).elim false (fun op =>
      let todo := op.lanes.filter (fun (a : LaneAcc) => op.left.getLsbD a.lane)
      let cs := translateChunks { e.1 with mem := { e.1.mem with tlb := [] } } op.cx (Rec.obj op.rec1) true (todo.flatMap LaneAcc.offs)
      todo.all (fun a => (a.faults cs).isEmpty == e.2)) = true) := by decide +kernel

/-- Deterministic mode: the page of object 1 is deterministic-shared, and the context has four pool lines. -/
def detRunning (g : Group) : State :=
  let s := (running g).setGrid 2 { grid with det := true }
  let s := s.setCtx 1 { (s.ctx 1) with pool := [(0x400000, 4)] }
  putDevice s plainKey 0x40000 (bytesOfNat 8 (2 ^ 63 + 2 ^ 57 + 0x100000))

theorem witness_deferredWrites :
    let s := detRunning oneLane
    let as := ((stForm { mw with k := 2 }).lanes oneLane).filterMap ((stForm { mw with k := 2 }).cap oneLane pageRec)
    s.group? s.cur = some oneLane ∧ detOf s oneLane = true ∧ (tieAt s oneLane true).isNone = true ∧ 1 ≤ 16 * (freePool s 1).length ∧ as.length = 1 ∧
    (∀ f ∈ [stForm { mw with k := 2 }, qstForm { mw with k := 2 }, atomForm { mw with k := 2, mod := 1 } 1 2],
      checkUses s 1 oneLane f.uses = none ∧ (f.trap s 1 oneLane).isNone = true) ∧ oneLane.reportsFull = false ∧
    (∀ a ∈ as, (a.faults (translateChunks s 1 1 true (as.flatMap LaneAcc.offs))).isEmpty = true ∧
      ∀ e ∈ ((a.bind (placeOf s oneLane pageRec as)).writes 32).flatten, e.1.det = 1 ∧ e.1.wp = false ∧ e.1.brd = false) := by decide +kernel

/-- An engine's line and a tile's state to a deterministic-shared page. -/
def detCopying : State :=
  after (execOwnershipGrant (100 * 2 ^ 24) (after (exec (.xcopy { mw with k := 2, data := 1, index := 8 }) (detRunning (lanes.wrS 8 2)))))

theorem witness_deferredLines :
    (detCopying.op? 100).elim false (fun op => (detCopying.group? op.gid).elim false (fun g => engineRuns detCopying 100 op && detOf detCopying g &&
      (op.lines[0]?).elim false (fun j => decide (j.stage = 1 ∧ j.brd = false ∧ j.line.cached = true) && !lanesFirst detCopying j.line 0 &&
        op.lines.all (lineAsked detCopying 100 op) && (let ws := (lineBytes detCopying op j.line).1
        ws.all (fun e => decide (e.1.det = 1) && !e.1.wp && !e.1.brd && standsB detCopying e.1.loc) && !ws.isEmpty &&
          decide ((ws.map (·.1.loc)).Nodup ∧ ws.length ≤ 16 * (freePool detCopying g.cx).length)) && (peerNeeds detCopying op).isEmpty))) = true ∧
    (∀ d ∈ detCopying.mem.dir, 100 ∉ d.queue) := by decide +kernel

/-- The grid of `exited` with two stores to one word and a third entry of another grid; and one addition. -/
def deferredEntry (n grid : Nat) (add : Option Word) : Commit :=
  { cx := 1, grid := grid, key := [0, 0, 0, n], gid := 1, lane := 0, brand := 0, addF32 := add, tags := []
    bytes := (List.range 4).map (fun i => ({ loc := { sp := .phys, a := 0x100000 + i }, wp := false, brd := false, det := 1 }, BitVec.ofNat 8 n, 0xFF)) }

def committing (cs : List Commit) : State := { exited with mem := { exited.mem with commit := cs } }

theorem witness_commitsAreApplied :
    let s := committing [deferredEntry 2 2 none, deferredEntry 1 2 none, deferredEntry 1 3 none]
    (s.grid? 2).elim false (fun r => decide (r.node = none ∧ r.nextBlock = r.blocks ∧ r.exited = r.blocks ∧ r.pkt2 = none ∧ r.cx = 1)) = true ∧
    (s.pkt? 9).elim false (fun k => !k.finished && decide (k.bits.extractLsb' 0 8 ≠ 8)) = true ∧ (s.ctx 1).st = 1 ∧
    ((s.mem.commit.filter (fun c => decide (c.grid = 2))).map (·.key)).Nodup ∧ (s.mem.commit.filter (fun c => decide (c.grid = 2))).length = 2 ∧
    ((deferredEntry 2 2 none).bytes.map (·.1.loc)).Nodup ∧ (∀ b ∈ (deferredEntry 2 2 none).bytes, standsB s b.1.loc = true) ∧
    ((committing [deferredEntry 2 2 (some 5)]).mem.commit.filter (fun c => decide (c.grid = 2))) = [deferredEntry 2 2 (some 5)] ∧
    readAt (after (exec (.gridComplete 2) s)) 1 [] { sp := .phys, a := 0x100002 } = 2 := by decide +kernel

/-- RFT with a misaligned FCLA, with one at which no header stands, and with one in a page that does not translate. -/
theorem witness_returnFromTheHandler_traps :
    let bad : Group := { inHandler with fcla := 258 }
    let none' : Group := { inHandler with fcla := 260, fres := 0 }
    let far : Group := { inHandler with img := 2 * 2 ^ 40 }
    (∀ g ∈ [bad, none', far], Last g ∧ (running g).group? 1 = some g ∧ checkUses (running g) 1 g {} = none ∧ g.ih = true) ∧ bad.fcla.toNat % 4 ≠ 0 ∧
    (match clauseAt (withCode (running none')) none' 260 with | .ok none => true | _ => false) = true ∧
    (match clauseAt (running far) far 256 with | .error _ => true | _ => false) = true := by decide +kernel

/-- The last loop complete, of a brand that is not live; MGROW continues it. -/
theorem witness_matrixLoopsGrow_brand :
    let l : MLoop := { (busyTile.last.getD default) with brand := 9 }
    let s := tiled { mineTile with last := some l }
    Ready s matrix { sc := [8] } ∧ (matrix.rdS 8).toNat ≠ 0 ∧ (s.tile 0 2).holder = some 1 ∧ (s.tile 0 2).orphan = false ∧
    (s.tile 0 2).last = some l ∧ (s.tile 0 2).loops = [] ∧ s.brandLive 1 l.brand = false := by decide +kernel

/-- Rounding: 1 + 2^-24 ties to 1, its half of an ulp kept up by RUP; the order of values; the least of two zeros. -/
theorem test_rounding :
    fp32.encode .rne false (.fin false (2 ^ 24 + 1) (-24)) = (0x3F800000, fNX) ∧
    fp32.encode .rup false (.fin false (2 ^ 24 + 1) (-24)) = (0x3F800001, fNX) ∧
    fp32.encode .rne false (.fin false 1 (-150)) = (0, fUF ||| fNX) ∧ fp32.encode .rne false (.fin true 1 128) = (0xFF800000, fOF ||| fNX) ∧
    fp32.minmax false 0 0x80000000 = (0x80000000, 0) ∧ (fp32.addV .rdn false (.fin false 1 0) (.fin true 1 0)).1 = 0x80000000 := by decide +kernel

theorem witness_finiteResultsAreRounded : (2 ^ 22 : Nat) < 2 ^ 23 ∧ sumIn true 1 0 true 1 (-3) < 0 ∧ ¬ sumIn false 2 0 true 1 1 < 0 ∧
    (fp32.decode 0x3F800000).isNaN = false ∧ [FV.inf true, FV.nan true false 5].find? FV.isNaN = some (.nan true false 5) ∧
    (0x41000000 : Nat) < 2 * 2 ^ 31 ∧ fp32.decode 0x3F000000 = .fin false (2 ^ 23) (-24) := by decide +kernel

/-- The rein writes under brand 1, whose cell of the line stands. -/
def brandedRein : State :=
  { reined { bodySlot with G := [(0, 1), (1, BitVec.ofNat 64 (2 ^ 40 + 64))] } with
    br := { table := [(65537, { parent := 0, depth := 1, st := 1, waiter := none, returned := false })]
            cells := [{ cx := 1, brand := 1, line := { sp := .phys, a := 0x100000 }, pool := 0x200000, op := none }] } }

theorem witness_reinDataWords_branded :
    let s := brandedRein
    let x := s.slot 0 2
    let ad := (x.g 1).toNat
    let offs := (List.range 64).map (offOf ad + ·)
    let cs := translateChunks s 1 (objOf ad) false offs
    let ps := offs.map (fun o => { cs.byte o with brd := true })
    s.curSlot = (0, 2) ∧ x.inBody = true ∧ x.st = 3 ∧ (x.g 0).toNat = 1 ∧ s.brandLive 1 1 = true ∧ (∀ o ∈ offs, (cs.at o).toOption.isSome = true) ∧
    (∀ p ∈ ps, (cell? s 1 1 p.loc.line).isSome = true ∧ owned s p.loc.line 1 = false ∧ standsB s (resolve s 1 1 p).2 = true) ∧
    (ps.map (fun p => (resolve s 1 1 p).2)).Nodup := by decide +kernel

/-- A message longer than STOW.A takes, and one that fits neither the region nor its spill. -/
theorem witness_claimsAreStowed_overflow :
    4 * (15#15).toNat < message.bytes.length ∧
    (let old := 2 ^ 40 + 4096 + 64 * 2 ^ 64 + 2 ^ 96 + 2 ^ 168
     ¬ bitsOf old 96 32 + 64 ≤ bitsOf old 64 32 ∧ ¬ bitsOf old 224 32 + 64 ≤ bitsOf old 192 32) := by decide +kernel

/-- A request of the memory service that has room, and one that waits behind 256 flits. -/
theorem witness_framesAreSent_requests :
    let r : MsReq := { dev := 0, rctx := 1, addr := 0, len := 64, write := false, bad := false, data := [] }
    let s := (reined slot).setRein 0 { (reined slot).rein 0 with msWait := [(2, r)] }
    let t := s.setRein 0 { s.rein 0 with msPend := List.replicate 256 (1, r) }
    (∀ x ∈ [s, t], (x.rein 0).msServe = [] ∧ (x.rein 0).msWait = [(2, r)]) ∧
    ((s.rein 0).msPend.map (fun e => (msFrames e.2).length)).sum + (msFrames r).length ≤ 256 ∧
    ¬ ((t.rein 0).msPend.map (fun e => (msFrames e.2).length)).sum + (msFrames r).length ≤ 256 := by decide +kernel

/-- An outrider that holds an arrival of a saved context and no other work; a core whose context is being pre-empted. -/
theorem witness_resetsAreCommanded_saved :
    let s := { State.reset with
      k := { State.reset.k with outriders := [(31, { Outrider.idle with irq := [arrival 1] })] }
      cx := { State.reset.cx with ctxs := [(1, { Context.free with st := 3 })] } }
    unitWork s 9 31 = some [] ∧ s.care.rstBusy = false ∧
    (let t := { (running lanes) with cx := { (running lanes).cx with busy := true, sel := 1, cmd := 3 } }
     t.cx.busy = true ∧ t.cx.sel = 1 ∧ unitWork t 4 0 = some [1] ∧ t.care.rstBusy = false) := by decide +kernel

/-- A SIG.WAIT that waits when its context is saved. -/
theorem witness_contextsAreSaved_waits :
    let g : Group := { lanes with status := .barrier, sigw := some default }
    let s := running g
    let t := { (s.setCtx 1 { (s.ctx 1) with st := 2 }) with cx := { (s.setCtx 1 { (s.ctx 1) with st := 2 }).cx with busy := true, cmd := 3, sel := 1 } }
    t.cx.busy = true ∧ t.cx.cmd = 3 ∧ (t.ctx t.cx.sel).st = 2 ∧ t.group? 1 = some g ∧ g.sigw.isSome = true := by decide +kernel

/-- A slot in its boundary words whose context is no longer active. -/
theorem witness_slotsTakeTurns_stopped :
    let s := (reined slot).setCtx 1 { ((reined slot).ctx 1) with st := 2 }
    (s.rein 0).running = some 2 ∧ (s.slot 0 2).st = 1 ∧ (s.ctx (s.slot 0 2).cx).st ≠ 1 ∧ ((s.rein 0).slots.map (·.1)).Nodup := by decide +kernel

/-- An INVAL that watches a grid with deferred writes, and one that watches nothing in flight. -/
theorem witness_invalWatches :
    let k : Packet := { Packet.blank with cx := 1, bits := 8, watch := [2] }
    let s := (committing [deferredEntry 1 2 none]).setPkt 5 k
    s.pkt? 5 = some k ∧ part k.bits.toNat 0 8 = 8 ∧ k.finished = false ∧ (∃ c ∈ s.mem.commit, c.grid = 2) ∧ peerBusy s 1 = false ∧
    (mget s.mem.stores 2).isNone = true ∧ (s.op? 2).isNone = true := by decide +kernel

end Sys2Proof.Tests
end

section
/-! SUPPORT. The word functions of the scalar and mask instructions, as the arithmetic that R179 to R182 state. -/
namespace Sys2Proof.Machine
open Sys2Proof.Claims

/-! Arithmetic and logic (R179). -/

theorem complement_eq_ofNat {w : Nat} (a : BitVec w) : ~~~a = BitVec.ofNat w (2 ^ w - 1 - a.toNat) :=
  BitVec.eq_of_toNat_eq (by rw [BitVec.toNat_not, BitVec.toNat_ofNat, Nat.mod_eq_of_lt (by have := Nat.two_pow_pos w; omega)])

theorem add_eq_ofNat (a b : Word) : a + b = BitVec.ofNat 32 (a.toNat + b.toNat) := by
  rw [BitVec.ofNat_add, BitVec.ofNat_toNat, BitVec.ofNat_toNat, BitVec.setWidth_eq, BitVec.setWidth_eq]

theorem sub_eq_ofInt (a b : Word) : a - b = BitVec.ofInt 32 ((a.toNat : Int) - b.toNat) :=
  BitVec.eq_of_toNat_eq (by rw [BitVec.toNat_sub, BitVec.toNat_ofInt]; omega)

theorem mul_eq_ofInt (a b : Word) : a * b = BitVec.ofInt 32 (a.toInt * b.toInt) := by
  rw [BitVec.ofInt_mul, BitVec.ofInt_toInt, BitVec.ofInt_toInt]

theorem divideOrOnes_eq (a b : Word) :
    (if b = 0 then 0xFFFFFFFF else a / b) = if b = 0 then 0xFFFFFFFF else BitVec.ofNat 32 (a.toNat / b.toNat) := by
  rw [BitVec.udiv_def]

theorem remainderOrSelf_eq (a b : Word) :
    (if b = 0 then a else a % b) = if b = 0 then a else BitVec.ofNat 32 (a.toNat % b.toNat) := by
  rw [BitVec.umod_def]

theorem shl32_eq_ofNat (a b : Word) : shl32 a b = BitVec.ofNat 32 (a.toNat * 2 ^ b.toNat) := by
  apply BitVec.eq_of_toNat_eq
  unfold shl32
  rw [BitVec.toNat_ofNat]
  split
  case isTrue h =>
    have hd : 2 ^ 32 ∣ a.toNat * 2 ^ b.toNat := Nat.dvd_mul_left_of_dvd (Nat.pow_dvd_pow 2 h) _
    exact (Nat.mod_eq_zero_of_dvd hd).symm
  case isFalse => rw [BitVec.toNat_shiftLeft, Nat.shiftLeft_eq]

theorem shr32_eq_ofNat (a b : Word) : shr32 a b = BitVec.ofNat 32 (a.toNat / 2 ^ b.toNat) := by
  apply BitVec.eq_of_toNat_eq
  have hlt : a.toNat / 2 ^ b.toNat < 2 ^ 32 := Nat.lt_of_le_of_lt (Nat.div_le_self ..) a.isLt
  unfold shr32
  rw [BitVec.toNat_ofNat, Nat.mod_eq_of_lt hlt]
  split
  case isTrue h => exact (Nat.div_eq_of_lt (Nat.lt_of_lt_of_le a.isLt (Nat.pow_le_pow_right (by decide) h))).symm
  case isFalse => rw [BitVec.toNat_ushiftRight, Nat.shiftRight_eq_div_pow]

/-- A signed word shifted right by 32 or more is its sign. -/
theorem toInt_div_two_pow_of_le (a : Word) {n : Nat} (h : 32 ≤ n) :
    a.toInt / 2 ^ n = if a.toInt < 0 then -1 else 0 := by
  have hlo : -2 ^ 31 ≤ a.toInt := BitVec.le_toInt a
  have hhi : a.toInt < 2 ^ 31 := BitVec.toInt_lt
  have hn : (2 : Int) ^ 32 ≤ 2 ^ n := by exact_mod_cast Nat.pow_le_pow_right (by decide) h
  split
  case isTrue hs => exact Int.ediv_eq_neg_one_of_neg_of_le hs (by omega)
  case isFalse hs => exact Int.ediv_eq_zero_of_lt (by omega) (by omega)

theorem sar32_eq_arithRight (a b : Word) : sar32 a b = arithRight a b := by
  unfold sar32 arithRight
  rw [BitVec.sshiftRight, Int.shiftRight_eq_div_pow]
  rcases Nat.le_total b.toNat 32 with h | h
  · rw [Nat.min_eq_left h, Int.natCast_pow]; rfl
  · rw [Nat.min_eq_right h, toInt_div_two_pow_of_le a h]
    exact congrArg _ (toInt_div_two_pow_of_le a (Nat.le_refl 32))

theorem smin32_eq (a b : Word) : smin32 a b = if a.toInt ≤ b.toInt then a else b := by
  simp only [smin32, BitVec.sle_iff_toInt_le]

theorem umin32_eq (a b : Word) : umin32 a b = if a.toNat ≤ b.toNat then a else b := by
  simp only [umin32, BitVec.ule_iff_toNat_le]

/-- The model tests A ≤ B where R179 tests B ≤ A: they differ only where the operands are equal. -/
theorem smax32_eq (a b : Word) : smax32 a b = if b.toInt ≤ a.toInt then a else b := by
  simp only [smax32, BitVec.sle_iff_toInt_le]
  split <;> split
  · exact BitVec.toInt_inj.mp (by omega)
  · rfl
  · rfl
  · omega

theorem umax32_eq (a b : Word) : umax32 a b = if b.toNat ≤ a.toNat then a else b := by
  simp only [umax32, BitVec.ule_iff_toNat_le]
  split <;> split
  · exact BitVec.eq_of_toNat_eq (by omega)
  · rfl
  · rfl
  · omega

theorem condI_eq_holds (c : BitVec 3) (a b : Word) : condI c a b = Claims.holds c a b := rfl

theorem condI_word_eq (c : BitVec 3) (a b : Word) :
    (if condI c a b then 1 else 0 : Word) = if Claims.holds c a b then 1 else 0 := by
  rw [condI_eq_holds]

/-! Counting bits (R179, R182). -/

theorem clz32_of_leadingZeros {z : Nat} {a : Word} (h : LeadingZeros z a) : clz32 a = BitVec.ofNat 32 z := by
  obtain ⟨hz, hlt, hge⟩ := h
  unfold clz32
  rcases Nat.lt_or_eq_of_le hz with hz' | rfl
  · have hpos : a.toNat ≠ 0 := Nat.ne_of_gt (Nat.lt_of_lt_of_le (Nat.two_pow_pos _) (hge hz'))
    have hlog : a.toNat.log2 = 31 - z :=
      (Nat.log2_eq_iff hpos).mpr ⟨hge hz', by rwa [show 31 - z + 1 = 32 - z by omega]⟩
    rw [if_neg fun h0 => hpos (congrArg BitVec.toNat h0), hlog, show 31 - (31 - z) = z by omega]
  · rw [if_pos (BitVec.eq_of_toNat_eq (Nat.lt_one_iff.mp hlt))]
    rfl

theorem popcount_eq_setBits (m : Word64) : popcount m = setBits m := rfl

theorem getLsbD_zeroExtend64 (a : Word) (i : Nat) : (a.zeroExtend 64).getLsbD i = (decide (i < 64) && a.getLsbD i) :=
  BitVec.getLsbD_setWidth 64 a i

theorem setBits_zeroExtend (a : Word) : setBits (a.zeroExtend 64) = setBits a := by
  have hlow : (List.range 32).filter (fun i => (a.zeroExtend 64).getLsbD i) = (List.range 32).filter (fun i => a.getLsbD i) :=
    List.filter_congr fun i hi => by
      have : i < 64 := by rw [List.mem_range] at hi; omega
      rw [getLsbD_zeroExtend64, decide_eq_true this, Bool.true_and]
  have hhigh : ((List.range 32).map (32 + ·)).filter (fun i => (a.zeroExtend 64).getLsbD i) = [] :=
    List.filter_eq_nil_iff.mpr fun i hi => by
      obtain ⟨j, -, rfl⟩ := List.mem_map.mp hi
      rw [getLsbD_zeroExtend64, BitVec.getLsbD_of_ge a _ (Nat.le_add_right 32 j), Bool.and_false]
      exact Bool.false_ne_true
  unfold setBits
  rw [show (64 : Nat) = 32 + 32 from rfl, List.range_add, List.filter_append, hlow, hhigh, List.append_nil]

theorem popc32_eq_setBits (a : Word) : popc32 a = BitVec.ofNat 32 (setBits a) :=
  congrArg (BitVec.ofNat 32) ((popcount_eq_setBits _).trans (setBits_zeroExtend a))

theorem lowest_of_lowestSet {i : Nat} {m : Word64} (h : LowestSet i m) : (lowest m).getD 64 = i := by
  obtain ⟨hi, hbelow, hat⟩ := h
  unfold lowest laneList
  rw [List.head?_filter]
  rcases Nat.lt_or_eq_of_le hi with hlt | rfl
  · rw [List.find?_range_eq_some.mpr ⟨hat hlt, List.mem_range.mpr hlt, fun j hj => by rw [hbelow j hj]; rfl⟩]
    rfl
  · rw [List.find?_range_eq_none.mpr fun j hj => by rw [hbelow j hj]; rfl]
    rfl

/-! Bit fields (R180). -/

theorem fieldPos_eq_fieldAt (b : Word) : fieldPos b = fieldAt b := by
  rw [fieldPos, BitVec.extractLsb'_toNat, Nat.shiftRight_zero, fieldAt]

theorem fieldLen_eq_fieldBits (b : Word) : fieldLen b = fieldBits b := by
  rw [fieldLen, fieldPos_eq_fieldAt, BitVec.extractLsb'_toNat, Nat.shiftRight_eq_div_pow, fieldBits]

/-- The top bit of an `n`-bit number. -/
theorem bitsOf_top {x n : Nat} (hn : n ≠ 0) (hx : x < 2 ^ n) : bitsOf x (n - 1) 1 = 1 ↔ 2 ^ (n - 1) ≤ x := by
  have hq : x / 2 ^ (n - 1) < 2 := by
    rw [Nat.div_lt_iff_lt_mul (Nat.two_pow_pos _), ← Nat.pow_succ', Nat.succ_eq_add_one, Nat.sub_add_cancel (by omega)]
    exact hx
  rw [← Nat.one_le_div_iff (Nat.two_pow_pos _), bitsOf]
  generalize x / 2 ^ (n - 1) = q at hq ⊢
  omega

/-- Filling the bits above an `n`-bit field with ones subtracts 2^n. -/
theorem ofNat_fill_eq_ofInt {n : Nat} (x : Nat) (hn : n ≤ 32) :
    BitVec.ofNat 32 (x + (2 ^ 32 - 2 ^ n)) = BitVec.ofInt 32 ((x : Int) - 2 ^ n) := by
  have hp : 2 ^ n ≤ 2 ^ 32 := Nat.pow_le_pow_right (by decide) hn
  apply BitVec.eq_of_toNat_eq
  rw [BitVec.toNat_ofNat, BitVec.toNat_ofInt, show (2 : Int) ^ n = (2 ^ n : Nat) from (Int.natCast_pow 2 n).symm]
  generalize 2 ^ n = p at hp ⊢
  omega

theorem bitFieldX_of_isExtract {v a b : Word} (h : IsExtract v a b) : bitFieldX a b = v := by
  subst h
  unfold bitFieldX
  rw [fieldPos_eq_fieldAt, fieldLen_eq_fieldBits]
  simp only [Bool.and_eq_true, decide_eq_true_eq]
  split
  case isTrue => rfl
  case isFalse hn =>
    have hx : bitsOf a.toNat (fieldAt b) (fieldBits b) < 2 ^ fieldBits b := Nat.mod_lt _ (Nat.two_pow_pos _)
    have hle : fieldBits b ≤ 32 := by unfold fieldBits; omega
    simp only [bitsOf_top hn hx, ofNat_fill_eq_ofInt _ hle]
    rfl

/-- The bits of SBFI's mask are those of the field. -/
theorem getLsbD_fieldMask (lo n : Nat) {i : Nat} (hi : i < 32) :
    (BitVec.ofNat 32 ((2 ^ n - 1) * 2 ^ lo)).getLsbD i = decide (lo ≤ i ∧ i < lo + n) := by
  rw [BitVec.getLsbD_ofNat, Nat.testBit_mul_two_pow, Nat.testBit_two_pow_sub_one, Bool.eq_iff_iff]
  simp only [Bool.and_eq_true, decide_eq_true_eq]
  omega

theorem bitFieldI_of_isInsert {v a b c : Word} (h : IsInsert v a b c) : bitFieldI a b c = v := by
  apply BitVec.eq_of_getLsbD_eq
  intro i hi
  rw [h i hi]
  unfold bitFieldI
  rw [fieldPos_eq_fieldAt, fieldLen_eq_fieldBits]
  simp only [BitVec.getLsbD_or, BitVec.getLsbD_and, BitVec.getLsbD_not, BitVec.getLsbD_shiftLeft, getLsbD_fieldMask _ _ hi]
  split
  case isTrue hf => simp only [hf, hi, and_self, decide_true, decide_false, Nat.not_lt.mpr hf.1, Bool.not_true, Bool.not_false,
      Bool.and_false, Bool.and_true, Bool.true_and, Bool.false_or]
  case isFalse hf => simp only [hf, hi, decide_true, decide_false, Bool.not_false, Bool.and_true, Bool.true_and, Bool.and_false,
      Bool.or_false]

/-! Immediates and joined words (R181, R182). -/

theorem append_eq_ofNat {m n : Nat} (x : BitVec m) (y : BitVec n) :
    x ++ y = BitVec.ofNat (m + n) (x.toNat * 2 ^ n + y.toNat) := by
  apply BitVec.eq_of_toNat_eq
  have hlt : x.toNat * 2 ^ n + y.toNat < 2 ^ (m + n) := by
    calc x.toNat * 2 ^ n + y.toNat < (x.toNat + 1) * 2 ^ n := by rw [Nat.succ_mul]; exact Nat.add_lt_add_left y.isLt _
      _ ≤ 2 ^ m * 2 ^ n := Nat.mul_le_mul_right _ x.isLt
      _ = 2 ^ (m + n) := (Nat.pow_add ..).symm
  rw [BitVec.toNat_append, BitVec.toNat_ofNat, Nat.mod_eq_of_lt hlt, ← Nat.shiftLeft_add_eq_or_of_lt y.isLt, Nat.shiftLeft_eq]

theorem add_immS_eq_ofInt (a : Word) (i : BitVec 10) : a + immS i = BitVec.ofInt 32 (a.toInt + i.toInt) := by
  rw [BitVec.ofInt_add, BitVec.ofInt_toInt]; rfl

theorem immU_eq_ofNat (i : BitVec 10) : immU i = BitVec.ofNat 32 i.toNat := (BitVec.ofNat_toNat 32 i).symm

/-- Which immediate a condition reads (R181). -/
theorem condImm_eq (c : BitVec 3) (i : BitVec 10) :
    (if condUnsigned c then immU i else immS i) =
      if c.toNat < 6 then BitVec.ofInt 32 i.toInt else BitVec.ofNat 32 i.toNat := by
  unfold condUnsigned
  simp only [decide_eq_true_eq]
  split <;> split
  · omega
  · exact immU_eq_ofNat i
  · rfl
  · omega

theorem condI_imm_eq (c : BitVec 3) (a : Word) (i : BitVec 10) :
    (if condI c a (if condUnsigned c then immU i else immS i) then 1 else 0 : Word) =
      if Claims.holds c a (if c.toNat < 6 then BitVec.ofInt 32 i.toInt else BitVec.ofNat 32 i.toNat) then 1 else 0 := by
  rw [condI_eq_holds, condImm_eq]

/-- The scalar after S[d] is the one that the next code names (R182). -/
theorem Group.sset'_next (g : Group) {d : BitVec 7} (hd : d.toNat < 0x7F) (v : Word) :
    g.sset' (g.sreg d + 1) v = g.wrS (d + 1) v := by
  have : (d + 1).toNat = d.toNat + 1 := BitVec.toNat_add_of_lt (Nat.succ_lt_succ hd)
  simp only [Group.wrS, Group.sreg, this, Nat.add_assoc]

end Sys2Proof.Machine
end

section
/-! SUPPORT. What an instruction of R179 to R182 whose operands raise nothing comes to. -/
namespace Sys2Proof.Machine
open Sys2Proof.Claims

variable {s : State} {g : Group}

theorem issueG_goes {u : Uses} {f : Group → Group} (h : Ready s g u) : issueG s u f = goes s (f g) :=
  issueG_effect h.1 h.2

theorem scalar3_goes {d a b : BitVec 7} {lit : Option Word} {f : Word → Word → Word → Word} {v : Word}
    (h : Ready s g (scalars d a b lit)) (hv : f (g.rdS d) (g.rdS a) (lit.getD (g.rdS b)) = v) :
    scalar3 d a b lit f s = goes s ((g.wrS d v).adv (if lit.isSome then 2 else 1)) :=
  hv ▸ scalar3_effect h.1 h.2

theorem scalar2_goes {d a b : BitVec 7} {lit : Option Word} {f : Word → Word → Word} {v : Word}
    (h : Ready s g (scalars d a b lit)) (hv : f (g.rdS a) (lit.getD (g.rdS b)) = v) :
    scalar2 d a b lit f s = goes s ((g.wrS d v).adv (if lit.isSome then 2 else 1)) :=
  scalar3_goes h hv

theorem scalar1_goes {d a : BitVec 7} {f : Word → Word} {v : Word} (h : Ready s g { sc := [d.toNat, a.toNat] })
    (hv : f (g.rdS a) = v) : scalar1 d a f s = goes s ((g.wrS d v).adv 1) :=
  hv ▸ scalar1_effect h.1 h.2

theorem maskOp_goes {d : BitVec 4} {ms : List (BitVec 4)} {f : Group → Word64} {v : Word64}
    (h : Ready s g { msk := d :: ms }) (hv : f g = v) : maskOp d ms f s = goes s ((g.wrM d v).adv 1) :=
  hv ▸ maskOp_effect h.1 h.2

theorem maskToS_goes {d : BitVec 7} {a : BitVec 4} {f : Word64 → Word} {v : Word}
    (h : Ready s g { msk := [a], sc := [d.toNat] }) (hv : f (g.rdM a) = v) :
    maskToS d a f s = goes s ((g.wrS d v).adv 1) :=
  hv ▸ issueG_goes h

/-! The instructions that share no operation with another. -/

theorem exec_smov_goes {d b : BitVec 7} {lit : Option Word}
    (h : Ready s g { sc := (if lit.isSome then [d] else [d, b]).map (·.toNat) }) :
    exec (.smov d b lit) s = goes s ((g.wrS d (lit.getD (g.rdS b))).adv (if lit.isSome then 2 else 1)) :=
  issueG_goes h

theorem exec_smovi_goes {d : BitVec 7} {j : BitVec 17} (h : Ready s g { sc := [d.toNat] }) :
    exec (.smovi d j) s = goes s ((g.wrS d (BitVec.ofInt 32 j.toInt)).adv 1) :=
  issueG_goes h

theorem exec_slui_goes {d : BitVec 7} {j : BitVec 17} (h : Ready s g { sc := [d.toNat] }) :
    exec (.slui d j) s = goes s ((g.wrS d (BitVec.ofNat 32 (j.toNat * 2 ^ 15 + (g.rdS d).toNat % 2 ^ 15))).adv 1) := by
  have hv : j ++ (g.rdS d).extractLsb' 0 15 = BitVec.ofNat 32 (j.toNat * 2 ^ 15 + (g.rdS d).toNat % 2 ^ 15) := by
    rw [append_eq_ofNat, BitVec.extractLsb'_toNat, Nat.shiftRight_zero]
  exact hv ▸ issueG_goes h

/-- MTOS writes the two halves of a mask to a pair of scalars (R182). -/
theorem exec_mtos_goes {d : BitVec 7} {a : BitVec 4} (h : Ready s g { msk := [a], sc := [d.toNat, d.toNat + 1] })
    (hd : d.toNat < 0x7F) :
    exec (.mtos d a) s = goes s (((g.wrS d (BitVec.ofNat 32 (g.rdM a).toNat)).wrS (d + 1)
      (BitVec.ofNat 32 ((g.rdM a).toNat / 2 ^ 32))).adv 1) := by
  have hhigh : (g.rdM a).extractLsb' 32 32 = BitVec.ofNat 32 ((g.rdM a).toNat / 2 ^ 32) := by
    rw [BitVec.extractLsb', Nat.shiftRight_eq_div_pow]
  rw [← Group.sset'_next _ hd, ← hhigh]
  exact issueG_goes h

end Sys2Proof.Machine
end

section
/-! PROOFS. O1: the scalar instructions of R179. Where the word function is written out in the arm of `exec`, the arm is named, so
that the unifier finds the function there. -/
namespace Sys2Proof.Claims
open Sys2Proof.Machine

/-- Settles O1: each instruction's word function is the arithmetic of R179, and the shared scalar operation writes its
value and nothing else. -/
theorem scalarResultsOfR179 : Obligations.ScalarResultsOfR179 := by
  intro s g d a b lit c va vb n yields to1
  refine ⟨exec_smov_goes, fun h => ⟨?snot, fun z hz => ?sclz, ?spopc⟩, fun h => ⟨?sadd, ?ssub, ?smul, ?smulh, ?smulhu,
    ?sdivu, ?sremu, ?sand, ?sor, ?sxor, ?sshl, ?sshr, ?ssar, ?smin, ?smax, ?sminu, ?smaxu, ?scmp⟩⟩
  case snot => exact scalar1_goes h (complement_eq_ofNat va)
  case sclz => exact scalar1_goes h (clz32_of_leadingZeros hz)
  case spopc => exact scalar1_goes h (popc32_eq_setBits va)
  case sadd => exact scalar2_goes h (add_eq_ofNat va vb)
  case ssub => exact scalar2_goes h (sub_eq_ofInt va vb)
  case smul => exact scalar2_goes h (mul_eq_ofInt va vb)
  case smulh => exact scalar2_goes h rfl
  case smulhu => exact scalar2_goes h rfl
  case sdivu => exact (scalar2_goes h (divideOrOnes_eq va vb) : execSdivu d a b lit s = _)
  case sremu => exact (scalar2_goes h (remainderOrSelf_eq va vb) : execSremu d a b lit s = _)
  case sand => exact scalar2_goes h rfl
  case sor => exact scalar2_goes h rfl
  case sxor => exact scalar2_goes h rfl
  case sshl => exact scalar2_goes h (shl32_eq_ofNat va vb)
  case sshr => exact scalar2_goes h (shr32_eq_ofNat va vb)
  case ssar => exact scalar2_goes h (sar32_eq_arithRight va vb)
  case smin => exact scalar2_goes h (smin32_eq va vb)
  case smax => exact scalar2_goes h (smax32_eq va vb)
  case sminu => exact scalar2_goes h (umin32_eq va vb)
  case smaxu => exact scalar2_goes h (umax32_eq va vb)
  case scmp => exact (scalar2_goes h (condI_word_eq c va vb) : execScmp c d a b lit s = _)

end Sys2Proof.Claims
end

section
/-! PROOFS. O2: the scalar instructions that read S[d], the immediates and the mask instructions (R180 to R182). -/
namespace Sys2Proof.Claims
open Sys2Proof.Machine

theorem scalarFieldAndImmediateResults : ScalarFieldAndImmediateResults := by
  refine ⟨fun s g d a b lit h => ⟨?ssel, fun v hv => ?sbfx, fun v hv => ?sbfi⟩, fun s g d a i j c =>
    ⟨fun h => ⟨exec_smovi_goes h, exec_slui_goes h⟩, fun h => ⟨?saddi, ?sandi, ?sori, ?sxori, ?scmpi⟩⟩⟩
  case ssel => exact (scalar3_goes h rfl : execSsel d a b lit s = _)
  case sbfx => exact scalar2_goes h (bitFieldX_of_isExtract hv)
  case sbfi => exact (scalar3_goes h (bitFieldI_of_isInsert hv) : execSbfi d a b lit s = _)
  case saddi => exact (scalar1_goes h (add_immS_eq_ofInt _ i) : execSaddi d a i s = _)
  case sandi => exact (scalar1_goes h (congrArg (g.rdS a &&& ·) (immU_eq_ofNat i)) : execSandi d a i s = _)
  case sori => exact (scalar1_goes h (congrArg (g.rdS a ||| ·) (immU_eq_ofNat i)) : execSori d a i s = _)
  case sxori => exact (scalar1_goes h (congrArg (g.rdS a ^^^ ·) (immU_eq_ofNat i)) : execSxori d a i s = _)
  case scmpi => exact (scalar1_goes h (condI_imm_eq c _ i) : execScmpi c d a i s = _)

theorem maskInstructionResults : MaskInstructionResults := by
  intro s g d a b sd sa sb toM toS
  refine ⟨fun h => ⟨?mmov, ?mnot⟩, fun h => ⟨?mand, ?mor, ?mxor⟩, fun h => ⟨?mpopc, fun i hi => ?mffs⟩, exec_mtos_goes,
    fun h => ?mfroms, fun h => ?exmrd, fun h => ?exmwr⟩
  case mmov => exact maskOp_goes h rfl
  case mnot => exact maskOp_goes h (complement_eq_ofNat (g.rdM a))
  case mand => exact maskOp_goes h rfl
  case mor => exact maskOp_goes h rfl
  case mxor => exact maskOp_goes h rfl
  case mpopc => exact (maskToS_goes h (congrArg _ (popcount_eq_setBits _)) : execMpopc sd a s = _)
  case mffs => exact (maskToS_goes h (congrArg _ (lowest_of_lowestSet hi)) : execMffs sd a s = _)
  case mfroms => exact append_eq_ofNat (g.rdS sb) (g.rdS sa) ▸ issueG_goes h
  case exmrd => exact maskOp_goes h rfl
  case exmwr => exact issueG_goes h

/-- Settles O2, by its two parts: R180 with R181, and R182. -/
theorem scalarFieldImmediateAndMaskResults : Obligations.ScalarFieldImmediateAndMaskResults :=
  ⟨scalarFieldAndImmediateResults, maskInstructionResults⟩

end Sys2Proof.Claims
end

section
/-! SUPPORT. The operations of SCAN and RED over integers, and their identities (R215). -/
namespace Sys2Proof.Machine

/-! The identity of a minimum is the greatest word, and of a maximum the least. -/

theorem smin32_top (y : Word) : smin32 0x7FFFFFFF y = y := by
  have htop : (0x7FFFFFFF : Word).toInt = 2 ^ 31 - 1 := by decide
  have hy : y.toInt < 2 ^ 31 := BitVec.toInt_lt
  rw [smin32_eq]
  split
  · exact BitVec.toInt_inj.mp (by omega)
  · rfl

theorem umin32_top (y : Word) : umin32 0xFFFFFFFF y = y := by
  have htop : (0xFFFFFFFF : Word).toNat = 2 ^ 32 - 1 := by decide
  have hy : y.toNat < 2 ^ 32 := y.isLt
  rw [umin32_eq]
  split
  · exact BitVec.eq_of_toNat_eq (by omega)
  · rfl

theorem smax32_bottom (y : Word) : smax32 0x80000000 y = y := by
  have hbottom : (0x80000000 : Word).toInt = -2 ^ 31 := by decide
  have hy : -2 ^ 31 ≤ y.toInt := BitVec.le_toInt y
  rw [smax32_eq]
  split
  · exact BitVec.toInt_inj.mp (by omega)
  · rfl

theorem umax32_bottom (y : Word) : umax32 0 y = y := by
  rw [umax32_eq]
  split
  case isTrue h => exact BitVec.eq_of_toNat_eq (Nat.le_zero.mp h).symm
  case isFalse => rfl

/-- The codes of the integer operations. -/
theorem scanOp_code_cases (o : BitVec 3) (ho : o.toNat < 6) : o = 0 ∨ o = 1 ∨ o = 2 ∨ o = 3 ∨ o = 4 ∨ o = 5 := by
  revert o; decide

theorem scanOp_identity {t : BitVec 2} (ht : t = 0 ∨ t = 1) {o : BitVec 3} (ho : o.toNat < 6) (r : RMode) (sat : Bool)
    (y : Word) : scanOp t o r sat (scanId t o) y = (y, 0) := by
  have hint : t ≠ 2 := by obtain rfl | rfl := ht <;> decide
  rw [scanOp, scanId, if_neg hint, if_neg hint]
  obtain rfl | rfl | rfl | rfl | rfl | rfl := scanOp_code_cases o ho
  · exact congrArg intr (BitVec.zero_add y)
  · obtain rfl | rfl := ht
    · exact congrArg intr (smin32_top y)
    · exact congrArg intr (umin32_top y)
  · obtain rfl | rfl := ht
    · exact congrArg intr (smax32_bottom y)
    · exact congrArg intr (umax32_bottom y)
  · exact congrArg intr BitVec.allOnes_and
  · exact congrArg intr BitVec.zero_or
  · exact congrArg intr BitVec.zero_xor

end Sys2Proof.Machine
end

section
/-! SUPPORT. The serial scan (R216), run over consecutive lanes, gives each lane its own entry. -/
namespace Sys2Proof.Machine
open Sys2Proof.Claims

/-- The lanes that the model lets take part are those of R216. -/
theorem Group.real_eq_takes (g : Group) {l : Nat} (hl : l < g.width) : (g.exm &&& ~~~g.hlp).getLsbD l = Takes g l := by
  rw [Takes, decide_eq_true hl, Bool.true_and, BitVec.getLsbD_and, BitVec.getLsbD_not]
  cases he : g.exm.getLsbD l with
  | false => rfl
  | true => rw [decide_eq_true (BitVec.lt_of_getLsbD he), Bool.true_and]

variable {op : Word → Word → Word × FFlags} {one : Word} {v : Nat → Word} {takes act real : Nat → Bool} {excl : Bool}

theorem scanBefore_succ_of_takes {p : Nat} (h : takes p = true) :
    scanBefore op one takes v (p + 1) = (op (scanBefore op one takes v p) (v p)).1 := by
  rw [scanBefore, List.range_succ, List.filter_append, List.filter_cons_of_pos h, List.foldl_append]
  rfl

theorem scanBefore_succ_of_not_takes {p : Nat} (h : takes p = false) :
    scanBefore op one takes v (p + 1) = scanBefore op one takes v p := by
  rw [scanBefore, List.range_succ, List.filter_append, List.filter_cons_of_neg (by rw [h]; exact Bool.false_ne_true),
    List.filter_nil, List.append_nil]
  rfl

/-- What SCAN gives active lane `l` (R216). -/
def scanEntry (op : Word → Word → Word × FFlags) (one : Word) (takes : Nat → Bool) (v : Nat → Word) (excl : Bool)
    (l : Nat) : Word × FFlags :=
  let acc := scanBefore op one takes v
  if takes l then (if excl then acc l else acc (l + 1), (op (acc l) (v l)).2) else (acc l, 0)

theorem scanLanes_cons_of_real {acc : Word} {p : Nat} {ps : List Nat} (h : real p = true) :
    scanLanes op excl act real v acc (p :: ps) =
      (p, if excl then acc else (op acc (v p)).1, (op acc (v p)).2) ::
        scanLanes op excl act real v (op acc (v p)).1 ps := by
  rw [scanLanes, if_pos h]

theorem scanLanes_cons_of_helper {acc : Word} {p : Nat} {ps : List Nat} (h : real p = false) (ha : act p = true) :
    scanLanes op excl act real v acc (p :: ps) = (p, acc, 0) :: scanLanes op excl act real v acc ps := by
  rw [scanLanes, if_neg (by rw [h]; exact Bool.false_ne_true), if_pos ha]

theorem scanLanes_cons_of_inactive {acc : Word} {p : Nat} {ps : List Nat} (h : real p = false) (ha : act p = false) :
    scanLanes op excl act real v acc (p :: ps) = scanLanes op excl act real v acc ps := by
  rw [scanLanes, if_neg (by rw [h]; exact Bool.false_ne_true), if_neg (by rw [ha]; exact Bool.false_ne_true)]

/-- A scan that stands at lane `p` with the accumulator of R216 there lists the entry of each active lane from `p` on. -/
theorem scanLanes_find (n : Nat) : ∀ {p l : Nat}, (∀ q, q < p + n → real q = takes q) → p ≤ l → l < p + n →
    act l = true →
    (scanLanes op excl act real v (scanBefore op one takes v p) (List.range' p n)).find? (fun e => decide (e.1 = l)) =
      some (l, scanEntry op one takes v excl l) := by
  induction n with
  | zero => intro p l _ hpl hlp; omega
  | succ n ih =>
    intro p l hreal hpl hlp hact
    have later (h : p ≠ l) := ih (p := p + 1) (l := l) (fun q hq => hreal q (by omega)) (by omega) (by omega) hact
    have hp : real p = takes p := hreal p (by omega)
    rw [List.range'_succ]
    cases ht : takes p with
    | true =>
      rw [scanLanes_cons_of_real (hp.trans ht), ← scanBefore_succ_of_takes ht, List.find?_cons]
      by_cases h : p = l
      · subst h; simp [scanEntry, ht]
      · simpa [h] using later h
    | false =>
      rw [scanBefore_succ_of_not_takes ht] at later
      cases ha : act p with
      | true =>
        rw [scanLanes_cons_of_helper (hp.trans ht) ha, List.find?_cons]
        by_cases h : p = l
        · subst h; simp [scanEntry, ht]
        · simpa [h] using later h
      | false =>
        rw [scanLanes_cons_of_inactive (hp.trans ht) ha]
        exact later fun h => by rw [h, hact] at ha; exact absurd ha (by decide)

end Sys2Proof.Machine
end

section
/-! SUPPORT. The tree of RED (R216): the model combines it level by level from the leaves, the claim from the root. -/
namespace Sys2Proof.Machine
open Sys2Proof.Claims

variable {op : Word → Word → Word × FFlags}

/-- Two results of a tree combined, with the flags of both. -/
def joinPair (op : Word → Word → Word × FFlags) (x y : Word × FFlags) : Word × FFlags :=
  ((op x.1 y.1).1, x.2 ||| y.2 ||| (op x.1 y.1).2)

theorem redAt_succ (v : Nat → Word) (k p : Nat) :
    redAt op v (k + 1) p = joinPair op (redAt op v k (2 * p)) (redAt op v k (2 * p + 1)) := rfl

theorem redLevel_cons_cons (x y : Word) (l : List Word) :
    redLevel op (x :: y :: l) = ((op x y).1 :: (redLevel op l).1, (op x y).2 ||| (redLevel op l).2) := rfl

theorem redTree_succ (k : Nat) (l : List Word) :
    redTree op (k + 1) l =
      ((redTree op k (redLevel op l).1).1, (redLevel op l).2 ||| (redTree op k (redLevel op l).1).2) := rfl

/-- A level halves a list of even length. -/
theorem redLevel_length (n : Nat) : ∀ {l : List Word}, l.length = 2 * n → (redLevel op l).1.length = n := by
  induction n with
  | zero => intro l h; rw [List.eq_nil_of_length_eq_zero h]; rfl
  | succ n ih =>
    intro l h
    match l, h with
    | x :: y :: l, h =>
      rw [redLevel_cons_cons, List.length_cons, ih (by simp only [List.length_cons] at h; omega)]

/-- A level works on two lists apart where the first has even length. -/
theorem redLevel_append (n : Nat) (m : List Word) : ∀ {l : List Word}, l.length = 2 * n →
    redLevel op (l ++ m) = ((redLevel op l).1 ++ (redLevel op m).1, (redLevel op l).2 ||| (redLevel op m).2) := by
  induction n with
  | zero => intro l h; rw [List.eq_nil_of_length_eq_zero h]; simp [redLevel]
  | succ n ih =>
    intro l h
    match l, h with
    | x :: y :: l, h =>
      simp only [List.cons_append, redLevel_cons_cons, ih (l := l) (by simp only [List.length_cons] at h; omega),
        BitVec.or_assoc]

/-- The tree over two halves combines the trees of the halves. -/
theorem redTree_append (k : Nat) : ∀ {l m : List Word}, l.length = 2 ^ k → m.length = 2 ^ k →
    redTree op (k + 1) (l ++ m) = joinPair op (redTree op k l) (redTree op k m) := by
  induction k with
  | zero =>
    intro l m hl hm
    obtain ⟨x, rfl⟩ := List.length_eq_one_iff.mp hl
    obtain ⟨y, rfl⟩ := List.length_eq_one_iff.mp hm
    simp [redTree, redLevel, joinPair]
  | succ k ih =>
    intro l m hl hm
    rw [Nat.pow_succ'] at hl hm
    rw [redTree_succ, redLevel_append _ m hl, ih (redLevel_length _ hl) (redLevel_length _ hm),
      redTree_succ k l, redTree_succ k m]
    simp only [joinPair, Prod.mk.injEq, true_and]
    ac_rfl

/-- The tree over the 2^k leaves below position `p` is that position of R216. -/
theorem redTree_range' (v : Nat → Word) (k : Nat) : ∀ p,
    redTree op k ((List.range' (2 ^ k * p) (2 ^ k)).map v) = redAt op v k p := by
  induction k with
  | zero => intro p; simp [redTree, redAt]
  | succ k ih =>
    intro p
    have hstart : 2 ^ (k + 1) * p = 2 ^ k * (2 * p) := by rw [Nat.pow_succ, Nat.mul_assoc]
    have hnext : 2 ^ k * (2 * p) + 2 ^ k = 2 ^ k * (2 * p + 1) := (Nat.mul_succ ..).symm
    rw [redAt_succ, ← ih, ← ih, ← redTree_append k (by simp) (by simp), ← List.map_append, ← hnext,
      List.range'_append_1, hstart, Nat.pow_succ, Nat.mul_two]

theorem redTree_range (v : Nat → Word) (k : Nat) : redTree op k ((List.range (2 ^ k)).map v) = redAt op v k 0 := by
  rw [List.range_eq_range']
  exact redTree_range' v k 0

end Sys2Proof.Machine
end

section
/-! SUPPORT. What SCAN and RED whose operands raise nothing come to (R216). -/
namespace Sys2Proof.Claims
open Sys2Proof.Machine

variable {s : State} {g : Group} {d a : BitVec 7} {m : Option Mod}

/-- SCAN delivers, in each active lane, the entry of R216. -/
theorem exec_scan_goes (e : Bool) (t : BitVec 2) (o : BitVec 3)
    (h : Ready s g { all := true, vr := [(a.toNat, (modOf m).swzA)], vw := [d.toNat] }) :
    ∃ r, exec (.scan d a e t o m) s = goes s ((g.result d r).adv (if m.isSome then 2 else 1)) ∧
      ∀ l, Active g l → r l = scanEntry (scanOp t o (modMode (modOf m)) (modSat (modOf m))) (scanId t o) (Takes g)
        (g.src a (modOf m).swzA) e l := by
  refine ⟨_, issueG_goes h, fun l ⟨hl, hact⟩ => ?_⟩
  have hfind := scanLanes_find (op := scanOp t o (modMode (modOf m)) (modSat (modOf m))) (excl := e)
    (act := fun l => g.exm.getLsbD l) (real := fun l => (g.exm &&& ~~~g.hlp).getLsbD l) (v := g.src a (modOf m).swzA)
    (takes := Takes g) (one := scanId t o) g.width (p := 0)
    (fun q hq => g.real_eq_takes (by rwa [Nat.zero_add] at hq)) (Nat.zero_le l) (by rwa [Nat.zero_add]) hact
  rw [← List.range_eq_range'] at hfind
  exact congrArg (fun x => (x.map Prod.snd).getD (0, 0)) hfind

/-- RED delivers the root of the tree of R216. -/
theorem exec_red_goes (t : BitVec 2) (o : BitVec 3) {k : Nat} (hw : g.width = 2 ^ k)
    (h : Ready s g { all := true, vr := [(a.toNat, (modOf m).swzA)], vw := [d.toNat] }) :
    exec (.red d a t o m) s = goes s ((g.result d (fun _ =>
      redAt (scanOp t o (modMode (modOf m)) (modSat (modOf m)))
        (fun l => if Takes g l then g.src a (modOf m).swzA l else scanId t o) k 0)).adv (if m.isSome then 2 else 1)) := by
  have hleaves : (List.range g.width).map
        (fun l => if (g.exm &&& ~~~g.hlp).getLsbD l then g.src a (modOf m).swzA l else scanId t o) =
      (List.range (2 ^ k)).map (fun l => if Takes g l then g.src a (modOf m).swzA l else scanId t o) := by
    rw [← hw]
    exact List.map_congr_left fun l hl => by rw [g.real_eq_takes (List.mem_range.mp hl)]
  rw [← redTree_range, ← hleaves, ← Nat.log2_two_pow (n := k), ← hw]
  exact issueG_goes h

end Sys2Proof.Claims
end

section
/-! PROOFS. O14: SCAN and RED (R215, R216). -/
namespace Sys2Proof.Claims
open Sys2Proof.Machine

/-- Settles O14: the operations by the words of R215, SCAN by its entries and RED by its tree. -/
theorem scanAndReduceResults : Obligations.ScanAndReduceResults := by
  refine ⟨fun r sat x y => ?operations, fun s g d a e t o m k hw _ _ h =>
    ⟨exec_scan_goes e t o h, exec_red_goes t o hw h⟩⟩
  case operations =>
    exact ⟨congrArg intr (add_eq_ofNat x y), congrArg intr (add_eq_ofNat x y), congrArg intr (smin32_eq x y),
      congrArg intr (umin32_eq x y), congrArg intr (smax32_eq x y), congrArg intr (umax32_eq x y), rfl, rfl, rfl, rfl, rfl, rfl,
      fun o ho => ⟨scanOp_identity (.inl rfl) ho r sat y, scanOp_identity (.inr rfl) ho r sat y⟩,
      rfl, rfl, rfl, rfl, rfl, rfl⟩

end Sys2Proof.Claims
end
